-- ==== Sys2Proof/Word.lean ====
section
/-! DEFINITION. The words of the VN7192: 32-bit registers and bytes, little-endian (R3). -/

set_option Elab.async false

namespace Sys2Proof

/-- A register word (R30, R35). -/
abbrev Word := BitVec 32

/-- A byte of any store (R180). -/
abbrev Byte := BitVec 8

end Sys2Proof
end

