-- ==== Sys2Proof/Syntax.lean ====
section
/-! DEFINITION. The instruction syntax: one constructor per row of spec/opcode_table.json.
The first 180 constructors are the words of R352 to R359, each field a bit vector of the width its format gives;
the others are the device's and the host's own steps (file 95), which have no word. -/

set_option Elab.async false

namespace Sys2Proof

/-- A firmware image as the boot ROM meets it (R329): its security version, a number that stands for its body,
and the number that stands for its signature. -/
structure FwImage where
  body : Nat
  secver : Nat
  version : Nat
  sig : Nat
  deriving DecidableEq, Repr

/-- What a bit upset strikes (R236, R237, R238). `many` says that the upset is beyond single-bit correction. -/
inductive Upset where
  /-- a data byte of the stored DRAM codeword, by its local physical address, changed by an XOR pattern -/
  | data (pa : Nat) (pat : Byte)
  /-- check symbol `k` of the codeword at a 64-byte unit of local memory, changed by an XOR pattern -/
  | check (unit k : Nat) (pat : Byte)
  /-- a second-level sector, by its number -/
  | level2 (sector : Nat) (many : Bool)
  /-- a first-level sector of a core, clean -/
  | level1 (core sector : Nat)
  /-- a word of a warp's register file, or of its twin's: kind 0 w, 1 q, 2 p, 3 e -/
  | reg (wk kind reg lane : Nat) (twin many : Bool)
  /-- a 4-byte word of a block's local store -/
  | store (bid space addr : Nat) (many : Bool)
  /-- a unit of the undo journal of an Assured block -/
  | journal (bid unit : Nat) (many : Bool)
  /-- an entry of the load-value queue, by the warp and its entry of the compare buffer -/
  | queue (wk id : Nat) (many : Bool)
  /-- eight bytes of an uncommitted first-level line of an Assured block, by their memory key divided by 8 -/
  | line (bid key : Nat) (many : Bool)
  /-- control state of a block: entry i below 64 is the tile-table entry i, entry 64 + i its i-th range lock, any other
  entry its remaining control state -/
  | control (bid entry : Nat) (many : Bool)
  /-- a byte that an engine operation holds on its way, changed by an XOR pattern: byte `place` of a copy's data between its
  source and its destination, or of the first of the results that the matrix unit forms, under
  (member * 32 + C block) * 4096 + byte -/
  | transit (op place : Nat) (pat : Byte)
  deriving DecidableEq, Repr

/-- One constructor per row of the opcode table. -/
inductive Instr where
  | iadd (d : BitVec 7) (a : BitVec 7) (b : BitVec 7) (g : BitVec 3)
  | iaddD (d : BitVec 7) (a : BitVec 7) (b : BitVec 7) (g : BitVec 3)
  | isub (d : BitVec 7) (a : BitVec 7) (b : BitVec 7) (g : BitVec 3)
  | isubD (d : BitVec 7) (a : BitVec 7) (b : BitVec 7) (g : BitVec 3)
  | imul (d : BitVec 7) (a : BitVec 7) (b : BitVec 7) (g : BitVec 3)
  | imulD (d : BitVec 7) (a : BitVec 7) (b : BitVec 7) (g : BitVec 3)
  | imulh (d : BitVec 7) (a : BitVec 7) (b : BitVec 7) (g : BitVec 3)
  | imulhU (d : BitVec 7) (a : BitVec 7) (b : BitVec 7) (g : BitVec 3)
  | imad (d : BitVec 7) (a : BitVec 7) (b : BitVec 7) (g : BitVec 3)
  | imin (d : BitVec 7) (a : BitVec 7) (b : BitVec 7) (g : BitVec 3)
  | iminU (d : BitVec 7) (a : BitVec 7) (b : BitVec 7) (g : BitVec 3)
  | imax (d : BitVec 7) (a : BitVec 7) (b : BitVec 7) (g : BitVec 3)
  | imaxU (d : BitVec 7) (a : BitVec 7) (b : BitVec 7) (g : BitVec 3)
  | iabs (d : BitVec 7) (a : BitVec 7) (g : BitVec 3)
  | ishl (d : BitVec 7) (a : BitVec 7) (b : BitVec 7) (g : BitVec 3)
  | ishlD (d : BitVec 7) (a : BitVec 7) (b : BitVec 7) (g : BitVec 3)
  | ishr (d : BitVec 7) (a : BitVec 7) (b : BitVec 7) (g : BitVec 3)
  | ishrS (d : BitVec 7) (a : BitVec 7) (b : BitVec 7) (g : BitVec 3)
  | ishrD (d : BitVec 7) (a : BitVec 7) (b : BitVec 7) (g : BitVec 3)
  | ishrDs (d : BitVec 7) (a : BitVec 7) (b : BitVec 7) (g : BitVec 3)
  | iext (d : BitVec 7) (a : BitVec 7) (w : BitVec 1) (s : BitVec 1) (n : BitVec 5)
  | icmp (c : BitVec 3) (p : BitVec 4) (a : BitVec 7) (b : BitVec 7) (g : BitVec 3)
  | icmpD (c : BitVec 3) (p : BitVec 4) (a : BitVec 7) (b : BitVec 7) (g : BitVec 3)
  | isel (d : BitVec 7) (a : BitVec 7) (b : BitVec 7) (s : BitVec 3)
  | and (d : BitVec 7) (a : BitVec 7) (b : BitVec 7) (g : BitVec 3)
  | or (d : BitVec 7) (a : BitVec 7) (b : BitVec 7) (g : BitVec 3)
  | xor (d : BitVec 7) (a : BitVec 7) (b : BitVec 7) (g : BitVec 3)
  | andn (d : BitVec 7) (a : BitVec 7) (b : BitVec 7) (g : BitVec 3)
  | popc (d : BitVec 7) (a : BitVec 7) (g : BitVec 3)
  | clz (d : BitVec 7) (a : BitVec 7) (g : BitVec 3)
  | brev (d : BitVec 7) (a : BitVec 7) (g : BitVec 3)
  | bfe (d : BitVec 7) (a : BitVec 7) (l : BitVec 5) (p : BitVec 5)
  | bfeS (d : BitVec 7) (a : BitVec 7) (l : BitVec 5) (p : BitVec 5)
  | bfi (d : BitVec 7) (a : BitVec 7) (l : BitVec 5) (p : BitVec 5)
  | bdep (d : BitVec 7) (a : BitVec 7) (b : BitVec 7) (g : BitVec 3)
  | bext (d : BitVec 7) (a : BitVec 7) (b : BitVec 7) (g : BitVec 3)
  | bperm (d : BitVec 7) (a : BitVec 7) (s : BitVec 2) (g : BitVec 3)
  | bpset (a : BitVec 6) (s : BitVec 2)
  | bmm8 (d : BitVec 7) (a : BitVec 7) (b : BitVec 7) (g : BitVec 3)
  | bytep (d : BitVec 7) (a : BitVec 7) (b : BitVec 7) (g : BitVec 3)
  | mov (d : BitVec 7) (a : BitVec 7) (g : BitVec 3)
  | movD (d : BitVec 7) (a : BitVec 7) (g : BitVec 3)
  | movi (d : BitVec 7) (i : BitVec 17)
  | movhi (d : BitVec 7) (i : BitVec 16)
  | plop (c : BitVec 3) (d : BitVec 4) (a : BitVec 4) (b : BitVec 4) (g : BitVec 3)
  | ptow (d : BitVec 7) (g : BitVec 3)
  | wtop (a : BitVec 7) (g : BitVec 3)
  | qadd (d : BitVec 6) (a : BitVec 6) (b : BitVec 6) (i : BitVec 6)
  | qsub (d : BitVec 6) (a : BitVec 6) (b : BitVec 6) (i : BitVec 6)
  | qmul (d : BitVec 6) (a : BitVec 6) (b : BitVec 6) (i : BitVec 6)
  | qlop (d : BitVec 6) (a : BitVec 6) (b : BitVec 6) (f : BitVec 3)
  | qshf (d : BitVec 6) (a : BitVec 6) (b : BitVec 6) (k : BitVec 2)
  | qcmp (p : BitVec 4) (a : BitVec 6) (b : BitVec 6) (c : BitVec 3)
  | qmovi (d : BitVec 6) (i : BitVec 18)
  | qmovhi (d : BitVec 6) (i : BitVec 16)
  | vtoq (d : BitVec 6) (a : BitVec 7) (g : BitVec 3)
  | qtov (d : BitVec 7) (a : BitVec 6) (g : BitVec 3)
  | ladd (d : BitVec 7) (a : BitVec 7) (b : BitVec 7) (g : BitVec 3)
  | laddL16 (d : BitVec 7) (a : BitVec 7) (b : BitVec 7) (g : BitVec 3)
  | laddL8 (d : BitVec 7) (a : BitVec 7) (b : BitVec 7) (g : BitVec 3)
  | lsub (d : BitVec 7) (a : BitVec 7) (b : BitVec 7) (g : BitVec 3)
  | lsubL16 (d : BitVec 7) (a : BitVec 7) (b : BitVec 7) (g : BitVec 3)
  | lsubL8 (d : BitVec 7) (a : BitVec 7) (b : BitVec 7) (g : BitVec 3)
  | lmul (d : BitVec 7) (a : BitVec 7) (b : BitVec 7) (g : BitVec 3)
  | lmulL16 (d : BitVec 7) (a : BitVec 7) (b : BitVec 7) (g : BitVec 3)
  | lmulL8 (d : BitVec 7) (a : BitVec 7) (b : BitVec 7) (g : BitVec 3)
  | ldiv (d : BitVec 7) (a : BitVec 7) (b : BitVec 7) (g : BitVec 3)
  | ldivL16 (d : BitVec 7) (a : BitVec 7) (b : BitVec 7) (g : BitVec 3)
  | ldivL8 (d : BitVec 7) (a : BitVec 7) (b : BitVec 7) (g : BitVec 3)
  | lmad (d : BitVec 7) (a : BitVec 7) (b : BitVec 7) (g : BitVec 3)
  | lmadL16 (d : BitVec 7) (a : BitVec 7) (b : BitVec 7) (g : BitVec 3)
  | lmadL8 (d : BitVec 7) (a : BitVec 7) (b : BitVec 7) (g : BitVec 3)
  | lmin (d : BitVec 7) (a : BitVec 7) (b : BitVec 7) (g : BitVec 3)
  | lminL16 (d : BitVec 7) (a : BitVec 7) (b : BitVec 7) (g : BitVec 3)
  | lminL8 (d : BitVec 7) (a : BitVec 7) (b : BitVec 7) (g : BitVec 3)
  | lmax (d : BitVec 7) (a : BitVec 7) (b : BitVec 7) (g : BitVec 3)
  | lmaxL16 (d : BitVec 7) (a : BitVec 7) (b : BitVec 7) (g : BitVec 3)
  | lmaxL8 (d : BitVec 7) (a : BitVec 7) (b : BitVec 7) (g : BitVec 3)
  | lcmp (c : BitVec 3) (p : BitVec 4) (a : BitVec 7) (b : BitVec 7) (g : BitVec 3)
  | lcmpL16 (c : BitVec 3) (p : BitVec 4) (a : BitVec 7) (b : BitVec 7) (g : BitVec 3)
  | lcmpL8 (c : BitVec 3) (p : BitVec 4) (a : BitVec 7) (b : BitVec 7) (g : BitVec 3)
  | lscale (d : BitVec 7) (a : BitVec 7) (n : BitVec 8) (p : BitVec 2)
  | ldot4 (d : BitVec 7) (a : BitVec 7) (b : BitVec 7) (g : BitVec 3)
  | lsqrt (d : BitVec 7) (a : BitVec 7) (p : BitVec 2) (g : BitVec 3)
  | lrcp (d : BitVec 7) (a : BitVec 7) (p : BitVec 2) (g : BitVec 3)
  | lsgn (d : BitVec 7) (a : BitVec 7) (s : BitVec 5) (p : BitVec 2) (g : BitVec 3)
  | lclass (d : BitVec 7) (a : BitVec 7) (p : BitVec 2) (g : BitVec 3)
  | lexp2 (d : BitVec 7) (a : BitVec 7) (p : BitVec 2) (g : BitVec 3)
  | llog2 (d : BitVec 7) (a : BitVec 7) (p : BitVec 2) (g : BitVec 3)
  | lsin (d : BitVec 7) (a : BitVec 7) (p : BitVec 2) (g : BitVec 3)
  | lcos (d : BitVec 7) (a : BitVec 7) (p : BitVec 2) (g : BitVec 3)
  | ltanh (d : BitVec 7) (a : BitVec 7) (p : BitVec 2) (g : BitVec 3)
  | lnarrow (d : BitVec 7) (a : BitVec 7) (s : BitVec 2) (f : BitVec 2) (t : BitVec 2) (g : BitVec 3)
  | lwiden (d : BitVec 7) (a : BitVec 7) (s : BitVec 2) (f : BitVec 2) (t : BitVec 2) (g : BitVec 3)
  | lcvi (d : BitVec 7) (a : BitVec 7) (u : BitVec 1) (p : BitVec 2) (g : BitVec 3)
  | lcvx (d : BitVec 7) (a : BitVec 7) (u : BitVec 1) (p : BitVec 2) (g : BitVec 3)
  | lcvf (d : BitVec 7) (a : BitVec 7) (f : BitVec 3) (p : BitVec 2) (g : BitVec 3)
  | lcve (d : BitVec 7) (a : BitVec 7) (f : BitVec 3) (p : BitVec 2) (g : BitVec 3)
  | rand (d : BitVec 7) (a : BitVec 7) (s : BitVec 5) (p : BitVec 2) (g : BitVec 3)
  | shflLane (d : BitVec 7) (a : BitVec 7) (b : BitVec 7) (g : BitVec 3)
  | shflFlip (d : BitVec 7) (a : BitVec 7) (b : BitVec 7) (g : BitVec 3)
  | shflLower (d : BitVec 7) (a : BitVec 7) (b : BitVec 7) (g : BitVec 3)
  | shflHigher (d : BitVec 7) (a : BitVec 7) (b : BitVec 7) (g : BitVec 3)
  | shwr (d : BitVec 7) (a : BitVec 7) (b : BitVec 7) (g : BitVec 3)
  | quadx (d : BitVec 7) (a : BitVec 7) (m : BitVec 3)
  | vote (m : BitVec 3) (p : BitVec 4) (i : BitVec 1) (a : BitVec 4) (q : BitVec 7) (g : BitVec 3)
  | mjoin (m : BitVec 6)
  | mleave (m : BitVec 6)
  | mwait (m : BitVec 6)
  | mread (d : BitVec 6) (m : BitVec 6)
  | mset (m : BitVec 6) (b : BitVec 6)
  | ld (d : BitVec 7) (o : BitVec 7) (s : BitVec 4) (w : BitVec 3) (h : BitVec 3)
  | lda (d : BitVec 7) (o : BitVec 7) (s : BitVec 4) (w : BitVec 3) (c : BitVec 3)
  | st (d : BitVec 7) (o : BitVec 7) (s : BitVec 4) (w : BitVec 3) (h : BitVec 3)
  | str (d : BitVec 7) (o : BitVec 7) (s : BitVec 4) (w : BitVec 3) (c : BitVec 3)
  | ldq (d : BitVec 6) (o : BitVec 6) (s : BitVec 4) (w : BitVec 3) (h : BitVec 3)
  | ldl (d : BitVec 7) (o : BitVec 7) (s : BitVec 4) (w : BitVec 3) (x : BitVec 3)
  | stl (d : BitVec 7) (o : BitVec 7) (s : BitVec 4) (w : BitVec 3) (x : BitVec 3)
  | fenceAcqrel (s : BitVec 3)
  | fenceSc (s : BitVec 3)
  | cctl (o : BitVec 7) (s : BitVec 4) (p : BitVec 3)
  | ifence
  | atomAdd (d : BitVec 7) (o : BitVec 7) (s : BitVec 4) (w : BitVec 1) (r : BitVec 2) (c : BitVec 3)
  | atomMin (d : BitVec 7) (o : BitVec 7) (s : BitVec 4) (w : BitVec 1) (r : BitVec 2) (c : BitVec 3)
  | atomMinu (d : BitVec 7) (o : BitVec 7) (s : BitVec 4) (w : BitVec 1) (r : BitVec 2) (c : BitVec 3)
  | atomMax (d : BitVec 7) (o : BitVec 7) (s : BitVec 4) (w : BitVec 1) (r : BitVec 2) (c : BitVec 3)
  | atomMaxu (d : BitVec 7) (o : BitVec 7) (s : BitVec 4) (w : BitVec 1) (r : BitVec 2) (c : BitVec 3)
  | atomAnd (d : BitVec 7) (o : BitVec 7) (s : BitVec 4) (w : BitVec 1) (r : BitVec 2) (c : BitVec 3)
  | atomOr (d : BitVec 7) (o : BitVec 7) (s : BitVec 4) (w : BitVec 1) (r : BitVec 2) (c : BitVec 3)
  | atomXor (d : BitVec 7) (o : BitVec 7) (s : BitVec 4) (w : BitVec 1) (r : BitVec 2) (c : BitVec 3)
  | atomExch (d : BitVec 7) (o : BitVec 7) (s : BitVec 4) (w : BitVec 1) (r : BitVec 2) (c : BitVec 3)
  | atomCas (d : BitVec 7) (o : BitVec 7) (s : BitVec 4) (w : BitVec 1) (r : BitVec 2) (c : BitVec 3)
  | atomIncw (d : BitVec 7) (o : BitVec 7) (s : BitVec 4) (r : BitVec 2) (c : BitVec 3)
  | atomAddb (d : BitVec 7) (o : BitVec 7) (s : BitVec 4) (r : BitVec 2) (c : BitVec 3)
  | atomLadd (d : BitVec 7) (o : BitVec 7) (s : BitVec 4) (r : BitVec 2) (c : BitVec 3)
  | redAdd (d : BitVec 7) (o : BitVec 7) (s : BitVec 4) (w : BitVec 1) (r : BitVec 1) (c : BitVec 3)
  | redMin (d : BitVec 7) (o : BitVec 7) (s : BitVec 4) (w : BitVec 1) (r : BitVec 1) (c : BitVec 3)
  | redMinu (d : BitVec 7) (o : BitVec 7) (s : BitVec 4) (w : BitVec 1) (r : BitVec 1) (c : BitVec 3)
  | redMax (d : BitVec 7) (o : BitVec 7) (s : BitVec 4) (w : BitVec 1) (r : BitVec 1) (c : BitVec 3)
  | redMaxu (d : BitVec 7) (o : BitVec 7) (s : BitVec 4) (w : BitVec 1) (r : BitVec 1) (c : BitVec 3)
  | redAnd (d : BitVec 7) (o : BitVec 7) (s : BitVec 4) (w : BitVec 1) (r : BitVec 1) (c : BitVec 3)
  | redOr (d : BitVec 7) (o : BitVec 7) (s : BitVec 4) (w : BitVec 1) (r : BitVec 1) (c : BitVec 3)
  | redXor (d : BitVec 7) (o : BitVec 7) (s : BitVec 4) (w : BitVec 1) (r : BitVec 1) (c : BitVec 3)
  | redLadd (d : BitVec 7) (o : BitVec 7) (s : BitVec 4) (r : BitVec 1) (c : BitVec 3)
  | midx (a : BitVec 6) (b : BitVec 6) (s : BitVec 1)
  | mloop (d : BitVec 6) (s : BitVec 1)
  | mclr (t : BitVec 6) (s : BitVec 1)
  | mscl (a : BitVec 6) (b : BitVec 6)
  | mstat (d : BitVec 6) (m : BitVec 1) (t : BitVec 6)
  | tdesc (t : BitVec 6) (a : BitVec 6)
  | tstate (d : BitVec 6) (t : BitVec 6)
  | trel (t : BitVec 6)
  | cpyin (d : BitVec 6) (s : BitVec 1)
  | cpyout (d : BitVec 6) (s : BitVec 1)
  | cpyx (d : BitVec 6) (s : BitVec 1)
  | cpyp (d : BitVec 6) (s : BitVec 1)
  | hbind (x : BitVec 6) (n : BitVec 1) (s : BitVec 1)
  | hstat (d : BitVec 6) (s : BitVec 2) (c : BitVec 1)
  | bra (o : BitVec 21) (g : BitVec 3)
  | brx (a : BitVec 7) (g : BitVec 3)
  | call (o : BitVec 21) (g : BitVec 3)
  | ret (g : BitVec 3)
  | exit (g : BitVec 3)
  | trap (c : BitVec 10)
  | tret (g : BitVec 3)
  | bkpt (t : BitVec 10)
  | nop (g : BitVec 3)
  | yield (g : BitVec 3)
  | bar (b : BitVec 4)
  | bardrop (a : BitVec 1) (b : BitVec 4)
  | pbar (d : BitVec 1) (b : BitVec 2)
  | waitc (c : BitVec 6) (n : BitVec 6)
  | rgsig (i : BitVec 1) (a : BitVec 6) (r : BitVec 3) (s : BitVec 3)
  | rgwait (p : BitVec 1) (i : BitVec 1) (a : BitVec 6) (r : BitVec 3) (s : BitVec 3)
  | trigger (g : BitVec 3)
  | tfork (d : BitVec 6) (a : BitVec 6) (b : BitVec 6)
  | tjoin (a : BitVec 6) (s : BitVec 1)
  | tpoll (d : BitVec 6) (a : BitVec 6)
  | sread (d : BitVec 7) (n : BitVec 10)
  | swrite (a : BitVec 7) (n : BitVec 10)
  | loadSectorReturn (wk ld sec : Nat)
  | storeAck (id : Nat)
  | pageWalkComplete (core ctx rev va : Nat)
  | lightFault (ctx va : Nat)
  | faultResolve (ctx : Nat) (v : BitVec 64)
  | sideLogReplay (id : Nat)
  | l2LineWriteback (line : Nat) (evict : Bool)
  | linkRecoveryStart (link : Nat)
  | linkRecoveryEnd (link : Nat)
  | peerUnreachable (link : Nat)
  | patrolScrubRow (ch : Nat)
  | copyStart (core queue : Nat)
  | hullerCellFire (op cell : Nat)
  | copyComplete (core queue : Nat)
  | hbindComplete (core : Nat)
  | matrixOpStart (core : Nat)
  | midxComplete (core : Nat)
  | mclrComplete (core : Nat)
  | mloopComplete (core : Nat)
  | mloopNanStop (core : Nat)
  | forkPoint (wk : Nat)
  | joinMerge (slot : Nat)
  | copyOnWrite (ctx rev vpn : Nat)
  | revisionSpaceTimeout (ctx cls : Nat)
  | twinCompare (wk : Nat)
  | assuredCheckpoint (bid : Nat)
  | queueDoorbell (queue : Nat) (v : BitVec 64)
  | waitWordPoll
  | dispatchDecision
  | warpStopped (wk : Nat)
  | forcedStop (wk : Nat)
  | blockSave (bid : Nat)
  | blockEnd (bid : Nat)
  | gridCompletion (gid : Nat)
  | hangWatchdog (wk : Nat)
  | barrierTimeout (bid bar : Nat)
  | podBarrierTimeout (bid bar : Nat)
  | powerLimitExceeded
  | thermalShutdown
  | perstnRise
  | firmwareVerification (image : FwImage)
  | port0LinkTraining
  | memoryTraining
  | hostWindowAccess (write : Bool) (off len : Nat) (data : List Byte)
  | deviceResetWrite (v : BitVec 64)
  | l2wb (v : BitVec 64)
  | l2wbDone
  | queueControlWrite (queue : Nat) (v : BitVec 64)
  | tlbinv (ctx : Nat) (v : BitVec 64)
  | tlbinvDone (ctx : Nat)
  | contextSuspend (ctx : Nat) (v : BitVec 64)
  | contextEndRequest (ctx : Nat) (v : BitVec 64)
  | fqrdWrite (ctx : Nat) (v : BitVec 64)
  | eqrdWrite (ctx : Nat) (v : BitVec 64)
  | fqsizeWrite (ctx : Nat) (v : BitVec 64)
  | eqsizeWrite (ctx : Nat) (v : BitVec 64)
  | revisionStackPush (ctx cls : Nat) (v : BitVec 64)
  | contextCounterClear (ctx which : Nat) (v : BitVec 64)
  | hintshortClear (ctx : Nat) (v : BitVec 64)
  | channelCounterClear (ch which : Nat) (v : BitVec 64)
  | registerWrite (off : Nat) (v : BitVec 64)
  | partoff (tag : BitVec 16) (part : BitVec 64)
  | partoffDone
  | partfmt (tag : BitVec 16) (part cls : BitVec 64)
  | partfmtDone
  | parton (tag : BitVec 16) (part : BitVec 64)
  | scrubset (tag : BitVec 16) (ch period window : BitVec 64)
  | retire (tag : BitVec 16) (pa : BitVec 64)
  | budget (tag : BitVec 16) (ctx value : BitVec 64)
  | resume (tag : BitVec 16) (ctx : BitVec 64)
  | histread (tag : BitVec 16) (ch buf : BitVec 64)
  | schedset (tag : BitVec 16) (us : BitVec 64)
  | huskexp (tag : BitVec 16) (ctx off buf : BitVec 64)
  | huskimp (tag : BitVec 16) (ctx off buf : BitVec 64)
  | lateact (tag : BitVec 16) (queue act : BitVec 64)
  | codemove (tag : BitVec 16) (ctx handle base : BitVec 64)
  | codemoveCopy
  | powerset (tag : BitVec 16) (watts : BitVec 64)
  | ident (tag : BitVec 16) (buf : BitVec 64)
  | attest (tag : BitVec 16) (buf : BitVec 64) (nonce : List (BitVec 64))
  | fwload (tag : BitVec 16) (buf len : BitVec 64)
  | mailboxUnassigned (tag code : BitVec 16)
  | illegalInstruction (word : Word)
  | perstnFall
  | supplyLoss
  | supplyReturn
  | linkRestore (link : Nat)
  | storageError (u : Upset)
  | powerBelowLimit
  deriving DecidableEq, Repr

end Sys2Proof
end

