-- ==== Sys2Proof/WellFormed.lean ====
section
/-! DEFINITION. Which codes an instruction word may hold: the codes that the tables of R344, R346, R355, R360 and
of the instructions' entries mark illegal are refused here. A row without a word holds no code. -/

set_option Elab.async false

namespace Sys2Proof

/-- The LNARROW rows of R452: source precision, target precision, slot position. -/
def narrowOk (f t s : Nat) : Bool :=
  (f == 0 && t == 1 && s ≤ 1) || (f == 0 && t == 2) || (f == 1 && t == 2 && s ≤ 1)

/-- The LWIDEN rows of R452. -/
def widenOk (f t s : Nat) : Bool :=
  (f == 1 && t == 0 && s ≤ 1) || (f == 2 && t == 0) || (f == 2 && t == 1 && s ≤ 1)

/-- The RAND rows of R481: .bits and .unit, which leave the field a unused (R341), and .seed. -/
def randOk (s p d a : Nat) : Bool :=
  (s == 0 && p == 0 && a == 0) || (s == 1 && p ≤ 2 && a == 0) || (s == 2 && p == 0 && d == 0)

/-- The special-register numbers of R360. -/
def srRead (n : Nat) : Bool :=
  n ≤ 9 || n == 0x10 || n == 0x12 || (0x20 ≤ n && n ≤ 0x24) || (0x30 ≤ n && n ≤ 0x35)

/-- The special registers that SWRITE may name (R360). -/
def srWrite (n : Nat) : Bool :=
  n == 0x20 || n == 0x21 || (0x30 ≤ n && n ≤ 0x35)

/-- No code of the instruction is one that the spec marks illegal. -/
def Instr.wf : Instr → Bool
  | .iadd _ _ _ _ => true
  | .iaddD _ _ _ _ => true
  | .isub _ _ _ _ => true
  | .isubD _ _ _ _ => true
  | .imul _ _ _ _ => true
  | .imulD _ _ _ _ => true
  | .imulh _ _ _ _ => true
  | .imulhU _ _ _ _ => true
  | .imad _ _ _ _ => true
  | .imin _ _ _ _ => true
  | .iminU _ _ _ _ => true
  | .imax _ _ _ _ => true
  | .imaxU _ _ _ _ => true
  | .iabs _ _ _ => true
  | .ishl _ _ _ _ => true
  | .ishlD _ _ _ _ => true
  | .ishr _ _ _ _ => true
  | .ishrS _ _ _ _ => true
  | .ishrD _ _ _ _ => true
  | .ishrDs _ _ _ _ => true
  | .iext _ _ _ _ _ => true
  | .icmp _ _ _ _ _ => true
  | .icmpD _ _ _ _ _ => true
  | .isel _ _ _ _ => true
  | .and _ _ _ _ => true
  | .or _ _ _ _ => true
  | .xor _ _ _ _ => true
  | .andn _ _ _ _ => true
  | .popc _ _ _ => true
  | .clz _ _ _ => true
  | .brev _ _ _ => true
  | .bfe _ _ _ _ => true
  | .bfeS _ _ _ _ => true
  | .bfi _ _ _ _ => true
  | .bdep _ _ _ _ => true
  | .bext _ _ _ _ => true
  | .bperm _ _ _ _ => true
  | .bpset _ _ => true
  | .bmm8 _ _ _ _ => true
  | .bytep _ _ _ _ => true
  | .mov _ _ _ => true
  | .movD _ _ _ => true
  | .movi _ _ => true
  | .movhi _ _ => true
  | .plop _ _ _ _ _ => true
  | .ptow _ _ => true
  | .wtop _ _ => true
  | .qadd _ _ b i => i == 0 || b == 0
  | .qsub _ _ b i => i == 0 || b == 0
  | .qmul _ _ b i => i == 0 || b == 0
  | .qlop _ _ b f => f.toNat ≤ 3 || (f.toNat == 4 && b == 0)
  | .qshf _ _ _ k => k.toNat ≤ 2
  | .qcmp _ _ _ _ => true
  | .qmovi _ _ => true
  | .qmovhi _ _ => true
  | .vtoq _ _ _ => true
  | .qtov _ _ _ => true
  | .ladd _ _ _ _ => true
  | .laddL16 _ _ _ _ => true
  | .laddL8 _ _ _ _ => true
  | .lsub _ _ _ _ => true
  | .lsubL16 _ _ _ _ => true
  | .lsubL8 _ _ _ _ => true
  | .lmul _ _ _ _ => true
  | .lmulL16 _ _ _ _ => true
  | .lmulL8 _ _ _ _ => true
  | .ldiv _ _ _ _ => true
  | .ldivL16 _ _ _ _ => true
  | .ldivL8 _ _ _ _ => true
  | .lmad _ _ _ _ => true
  | .lmadL16 _ _ _ _ => true
  | .lmadL8 _ _ _ _ => true
  | .lmin _ _ _ _ => true
  | .lminL16 _ _ _ _ => true
  | .lminL8 _ _ _ _ => true
  | .lmax _ _ _ _ => true
  | .lmaxL16 _ _ _ _ => true
  | .lmaxL8 _ _ _ _ => true
  | .lcmp c _ _ _ _ => c.toNat ≤ 6
  | .lcmpL16 c _ _ _ _ => c.toNat ≤ 6
  | .lcmpL8 c _ _ _ _ => c.toNat ≤ 6
  | .lscale _ _ _ p => p.toNat ≤ 2
  | .ldot4 _ _ _ _ => true
  | .lsqrt _ _ p _ => p.toNat ≤ 2
  | .lrcp _ _ p _ => p.toNat ≤ 2
  | .lsgn _ _ s p _ => s.toNat ≤ 2 && p.toNat ≤ 2
  | .lclass _ _ p _ => p.toNat ≤ 2
  | .lexp2 _ _ p _ => p.toNat ≤ 2
  | .llog2 _ _ p _ => p.toNat ≤ 2
  | .lsin _ _ p _ => p.toNat ≤ 2
  | .lcos _ _ p _ => p.toNat ≤ 2
  | .ltanh _ _ p _ => p.toNat ≤ 2
  | .lnarrow _ _ s f t _ => narrowOk f.toNat t.toNat s.toNat
  | .lwiden _ _ s f t _ => widenOk f.toNat t.toNat s.toNat
  | .lcvi _ _ _ p _ => p.toNat ≤ 2
  | .lcvx _ _ _ p _ => p.toNat ≤ 2
  | .lcvf _ _ f p _ => f.toNat ≤ 4 && p.toNat ≤ 2
  | .lcve _ _ f p _ => f.toNat ≤ 4 && p.toNat ≤ 2
  | .rand d a s p _ => randOk s.toNat p.toNat d.toNat a.toNat
  | .shflLane _ _ _ _ => true
  | .shflFlip _ _ _ _ => true
  | .shflLower _ _ _ _ => true
  | .shflHigher _ _ _ _ => true
  | .shwr _ _ _ _ => true
  | .quadx _ _ m => m.toNat ≤ 6
  | .vote m p _ _ q _ => m.toNat ≤ 3 && (if m == 0 then p == 0 else q == 0)
  | .mjoin _ => true
  | .mleave _ => true
  | .mwait _ => true
  | .mread _ _ => true
  | .mset _ _ => true
  | .ld _ _ _ w h => w.toNat ≤ 6 && h.toNat ≤ 4
  | .lda _ _ _ w c => w.toNat ≤ 6 && c.toNat ≤ 4
  | .st _ _ _ w h => w.toNat ≤ 6 && h.toNat ≤ 4
  | .str _ _ _ w c => w.toNat ≤ 6 && c.toNat ≤ 4
  | .ldq _ _ _ w h => 4 ≤ w.toNat && w.toNat ≤ 6 && h.toNat ≤ 4
  | .ldl _ _ s w _ => w.toNat ≤ 6 && s.toNat ≤ 3
  | .stl _ _ s w _ => w.toNat ≤ 6 && s.toNat ≤ 3 && s.toNat != 2
  | .fenceAcqrel s => s.toNat ≤ 4
  | .fenceSc s => s.toNat ≤ 4
  | .cctl o s p => p.toNat ≤ 4 && (p.toNat != 1 || (o == 0 && s == 0))
  | .ifence => true
  | .atomAdd _ _ _ _ _ c => c.toNat ≤ 4
  | .atomMin _ _ _ _ _ c => c.toNat ≤ 4
  | .atomMinu _ _ _ _ _ c => c.toNat ≤ 4
  | .atomMax _ _ _ _ _ c => c.toNat ≤ 4
  | .atomMaxu _ _ _ _ _ c => c.toNat ≤ 4
  | .atomAnd _ _ _ _ _ c => c.toNat ≤ 4
  | .atomOr _ _ _ _ _ c => c.toNat ≤ 4
  | .atomXor _ _ _ _ _ c => c.toNat ≤ 4
  | .atomExch _ _ _ _ _ c => c.toNat ≤ 4
  | .atomCas _ _ _ _ _ c => c.toNat ≤ 4
  | .atomIncw _ _ _ _ c => c.toNat ≤ 4
  | .atomAddb _ _ _ _ c => c.toNat ≤ 4
  | .atomLadd _ _ _ _ c => c.toNat ≤ 4
  | .redAdd _ _ _ _ _ c => c.toNat ≤ 4
  | .redMin _ _ _ _ _ c => c.toNat ≤ 4
  | .redMinu _ _ _ _ _ c => c.toNat ≤ 4
  | .redMax _ _ _ _ _ c => c.toNat ≤ 4
  | .redMaxu _ _ _ _ _ c => c.toNat ≤ 4
  | .redAnd _ _ _ _ _ c => c.toNat ≤ 4
  | .redOr _ _ _ _ _ c => c.toNat ≤ 4
  | .redXor _ _ _ _ _ c => c.toNat ≤ 4
  | .redLadd _ _ _ _ c => c.toNat ≤ 4
  | .midx _ _ _ => true
  | .mloop _ _ => true
  | .mclr _ _ => true
  | .mscl _ _ => true
  | .mstat _ _ _ => true
  | .tdesc _ _ => true
  | .tstate _ _ => true
  | .trel _ => true
  | .cpyin _ _ => true
  | .cpyout _ _ => true
  | .cpyx _ _ => true
  | .cpyp _ _ => true
  | .hbind x n _ => n == 0 || x == 0
  | .hstat _ s c => s.toNat == 0 || (s.toNat == 1 && c == 0)
  | .bra _ _ => true
  | .brx _ _ => true
  | .call _ _ => true
  | .ret _ => true
  | .exit _ => true
  | .trap _ => true
  | .tret _ => true
  | .bkpt _ => true
  | .nop _ => true
  | .yield _ => true
  | .bar _ => true
  | .bardrop a b => a == 0 || b == 0
  | .pbar _ _ => true
  | .waitc _ _ => true
  | .rgsig i a r s => if i == 1 then r == 0 && s == 0 else a == 0
  | .rgwait _ i a r s => if i == 1 then r == 0 && s == 0 else a == 0
  | .trigger _ => true
  | .tfork _ _ _ => true
  | .tjoin _ _ => true
  | .tpoll _ _ => true
  | .sread _ n => srRead n.toNat
  | .swrite _ n => srWrite n.toNat
  | .loadSectorReturn _ _ _ => true
  | .storeAck _ => true
  | .pageWalkComplete _ _ _ _ => true
  | .lightFault _ _ => true
  | .faultResolve _ _ => true
  | .sideLogReplay _ => true
  | .l2LineWriteback _ _ => true
  | .linkRecoveryStart _ => true
  | .linkRecoveryEnd _ => true
  | .peerUnreachable _ => true
  | .patrolScrubRow _ => true
  | .copyStart _ _ => true
  | .hullerCellFire _ _ => true
  | .copyComplete _ _ => true
  | .hbindComplete _ => true
  | .matrixOpStart _ => true
  | .midxComplete _ => true
  | .mclrComplete _ => true
  | .mloopComplete _ => true
  | .mloopNanStop _ => true
  | .forkPoint _ => true
  | .joinMerge _ => true
  | .copyOnWrite _ _ _ => true
  | .revisionSpaceTimeout _ _ => true
  | .twinCompare _ => true
  | .assuredCheckpoint _ => true
  | .queueDoorbell _ _ => true
  | .waitWordPoll => true
  | .dispatchDecision => true
  | .warpStopped _ => true
  | .forcedStop _ => true
  | .blockSave _ => true
  | .blockEnd _ => true
  | .gridCompletion _ => true
  | .hangWatchdog _ => true
  | .barrierTimeout _ _ => true
  | .podBarrierTimeout _ _ => true
  | .powerLimitExceeded => true
  | .thermalShutdown => true
  | .perstnRise => true
  | .firmwareVerification _ => true
  | .port0LinkTraining => true
  | .memoryTraining => true
  | .hostWindowAccess _ _ _ _ => true
  | .deviceResetWrite _ => true
  | .l2wb _ => true
  | .l2wbDone => true
  | .queueControlWrite _ _ => true
  | .tlbinv _ _ => true
  | .tlbinvDone _ => true
  | .contextSuspend _ _ => true
  | .contextEndRequest _ _ => true
  | .fqrdWrite _ _ => true
  | .eqrdWrite _ _ => true
  | .fqsizeWrite _ _ => true
  | .eqsizeWrite _ _ => true
  | .revisionStackPush _ _ _ => true
  | .contextCounterClear _ _ _ => true
  | .hintshortClear _ _ => true
  | .channelCounterClear _ _ _ => true
  | .registerWrite _ _ => true
  | .partoff _ _ => true
  | .partoffDone => true
  | .partfmt _ _ _ => true
  | .partfmtDone => true
  | .parton _ _ => true
  | .scrubset _ _ _ _ => true
  | .retire _ _ => true
  | .budget _ _ _ => true
  | .resume _ _ => true
  | .histread _ _ _ => true
  | .schedset _ _ => true
  | .huskexp _ _ _ _ => true
  | .huskimp _ _ _ _ => true
  | .lateact _ _ _ => true
  | .codemove _ _ _ _ => true
  | .codemoveCopy => true
  | .powerset _ _ => true
  | .ident _ _ => true
  | .attest _ _ _ => true
  | .fwload _ _ _ => true
  | .mailboxUnassigned _ _ => true
  | .illegalInstruction _ => true
  | .perstnFall => true
  | .supplyLoss => true
  | .supplyReturn => true
  | .linkRestore _ => true
  | .storageError _ => true
  | .powerBelowLimit => true

end Sys2Proof
end

