-- ==== Sys2Proof/Decode.lean ====
section
/-! DEFINITION. Decoding (R333 to R359) and, after it, encoding.
`decode` reads one instruction word from bytes, little-endian (R3), and is total; `encode` writes the word of an
instruction from the same tables. -/

set_option Elab.async false

namespace Sys2Proof

/-- Why a word is no instruction (R339, checks 1 to 3). -/
inductive Reject where
  /-- fewer than four bytes are left -/
  | short
  /-- an opcode byte that no table of R352 to R359 assigns -/
  | unassigned
  /-- a field that the instruction leaves unused is not zero -/
  | reserved
  /-- a code that the tables mark illegal -/
  | code
  /-- a high bit of a register field is set: cause 0x03 (R342) -/
  | register
  deriving DecidableEq, Repr

/-- The engine classes of clauses (R334). -/
inductive EngClass where
  | v | m | x | c | k
  deriving DecidableEq, Repr

/-- The class of an assigned opcode byte (R351 to R359); none for an unassigned one. -/
def opClass (op : Nat) : Option EngClass :=
  if 0x01 ≤ op ∧ op ≤ 0x39 then some .v
  else if 0x40 ≤ op ∧ op ≤ 0x69 then some .v
  else if 0x70 ≤ op ∧ op ≤ 0x76 then some .v
  else if 0x78 ≤ op ∧ op ≤ 0x7C then some .v
  else if 0x80 ≤ op ∧ op ≤ 0x9F then some .m
  else if 0xC0 ≤ op ∧ op ≤ 0xC4 then some .x
  else if 0xC8 ≤ op ∧ op ≤ 0xCA then some .x
  else if 0xD0 ≤ op ∧ op ≤ 0xD3 then some .c
  else if op = 0xD8 ∨ op = 0xD9 then some .c
  else if 0xE0 ≤ op ∧ op ≤ 0xF5 then some .k
  else none

/-- Uniform operations stand in a clause of any class (R335). -/
def opUniform (op : Nat) : Bool := 0x30 ≤ op && op ≤ 0x37

/-- The branch-type opcodes (R335). -/
def opBranch (op : Nat) : Bool := (0xE0 ≤ op && op ≤ 0xE6)

/-- The long-latency opcodes (R51). -/
def opLong (op : Nat) : Bool :=
  (0xC0 ≤ op && op ≤ 0xC2) || (0xD0 ≤ op && op ≤ 0xD3) || op == 0xD8 || op == 0xF2

/-- A prefix word has an opcode byte from 0xF8 to 0xFB (R348). -/
def opPrefix (op : Nat) : Bool := 0xF8 ≤ op && op ≤ 0xFB

/-- The opcode byte of a word (R341). -/
def opByte (w : Word) : Nat := (w.extractLsb' 24 8).toNat

/-- Accept an instruction only if its required-zero bits and register high bits are zero. -/
def need (w zero high : Word) (i : Instr) : Except Reject Instr :=
  if w &&& zero ≠ 0 then .error .reserved
  else if w &&& high ≠ 0 then .error .register
  else .ok i

/-- The instruction of a word, before the code checks (R352 to R359). -/
def rawDecode (w : Word) : Except Reject Instr :=
  match opByte w with
  | 0x01 => need w 0x000000 0x000000 (.iadd (w.extractLsb' 17 7) (w.extractLsb' 10 7) (w.extractLsb' 3 7) (w.extractLsb' 0 3))
  | 0x02 => need w 0x000000 0x000000 (.iaddD (w.extractLsb' 17 7) (w.extractLsb' 10 7) (w.extractLsb' 3 7) (w.extractLsb' 0 3))
  | 0x03 => need w 0x000000 0x000000 (.isub (w.extractLsb' 17 7) (w.extractLsb' 10 7) (w.extractLsb' 3 7) (w.extractLsb' 0 3))
  | 0x04 => need w 0x000000 0x000000 (.isubD (w.extractLsb' 17 7) (w.extractLsb' 10 7) (w.extractLsb' 3 7) (w.extractLsb' 0 3))
  | 0x05 => need w 0x000000 0x000000 (.imul (w.extractLsb' 17 7) (w.extractLsb' 10 7) (w.extractLsb' 3 7) (w.extractLsb' 0 3))
  | 0x06 => need w 0x000000 0x000000 (.imulD (w.extractLsb' 17 7) (w.extractLsb' 10 7) (w.extractLsb' 3 7) (w.extractLsb' 0 3))
  | 0x07 => need w 0x000000 0x000000 (.imulh (w.extractLsb' 17 7) (w.extractLsb' 10 7) (w.extractLsb' 3 7) (w.extractLsb' 0 3))
  | 0x08 => need w 0x000000 0x000000 (.imulhU (w.extractLsb' 17 7) (w.extractLsb' 10 7) (w.extractLsb' 3 7) (w.extractLsb' 0 3))
  | 0x09 => need w 0x000000 0x000000 (.imad (w.extractLsb' 17 7) (w.extractLsb' 10 7) (w.extractLsb' 3 7) (w.extractLsb' 0 3))
  | 0x0A => need w 0x000000 0x000000 (.imin (w.extractLsb' 17 7) (w.extractLsb' 10 7) (w.extractLsb' 3 7) (w.extractLsb' 0 3))
  | 0x0B => need w 0x000000 0x000000 (.iminU (w.extractLsb' 17 7) (w.extractLsb' 10 7) (w.extractLsb' 3 7) (w.extractLsb' 0 3))
  | 0x0C => need w 0x000000 0x000000 (.imax (w.extractLsb' 17 7) (w.extractLsb' 10 7) (w.extractLsb' 3 7) (w.extractLsb' 0 3))
  | 0x0D => need w 0x000000 0x000000 (.imaxU (w.extractLsb' 17 7) (w.extractLsb' 10 7) (w.extractLsb' 3 7) (w.extractLsb' 0 3))
  | 0x0E => need w 0x0003F8 0x000000 (.iabs (w.extractLsb' 17 7) (w.extractLsb' 10 7) (w.extractLsb' 0 3))
  | 0x0F => need w 0x000000 0x000000 (.ishl (w.extractLsb' 17 7) (w.extractLsb' 10 7) (w.extractLsb' 3 7) (w.extractLsb' 0 3))
  | 0x10 => need w 0x000000 0x000000 (.ishlD (w.extractLsb' 17 7) (w.extractLsb' 10 7) (w.extractLsb' 3 7) (w.extractLsb' 0 3))
  | 0x11 => need w 0x000000 0x000000 (.ishr (w.extractLsb' 17 7) (w.extractLsb' 10 7) (w.extractLsb' 3 7) (w.extractLsb' 0 3))
  | 0x12 => need w 0x000000 0x000000 (.ishrS (w.extractLsb' 17 7) (w.extractLsb' 10 7) (w.extractLsb' 3 7) (w.extractLsb' 0 3))
  | 0x13 => need w 0x000000 0x000000 (.ishrD (w.extractLsb' 17 7) (w.extractLsb' 10 7) (w.extractLsb' 3 7) (w.extractLsb' 0 3))
  | 0x14 => need w 0x000000 0x000000 (.ishrDs (w.extractLsb' 17 7) (w.extractLsb' 10 7) (w.extractLsb' 3 7) (w.extractLsb' 0 3))
  | 0x15 => need w 0x000380 0x000000 (.iext (w.extractLsb' 17 7) (w.extractLsb' 10 7) (w.extractLsb' 6 1) (w.extractLsb' 5 1) (w.extractLsb' 0 5))
  | 0x16 => need w 0x000000 0x000000 (.icmp (w.extractLsb' 21 3) (w.extractLsb' 17 4) (w.extractLsb' 10 7) (w.extractLsb' 3 7) (w.extractLsb' 0 3))
  | 0x17 => need w 0x000000 0x000000 (.icmpD (w.extractLsb' 21 3) (w.extractLsb' 17 4) (w.extractLsb' 10 7) (w.extractLsb' 3 7) (w.extractLsb' 0 3))
  | 0x18 => need w 0x000000 0x000000 (.isel (w.extractLsb' 17 7) (w.extractLsb' 10 7) (w.extractLsb' 3 7) (w.extractLsb' 0 3))
  | 0x19 => need w 0x000000 0x000000 (.and (w.extractLsb' 17 7) (w.extractLsb' 10 7) (w.extractLsb' 3 7) (w.extractLsb' 0 3))
  | 0x1A => need w 0x000000 0x000000 (.or (w.extractLsb' 17 7) (w.extractLsb' 10 7) (w.extractLsb' 3 7) (w.extractLsb' 0 3))
  | 0x1B => need w 0x000000 0x000000 (.xor (w.extractLsb' 17 7) (w.extractLsb' 10 7) (w.extractLsb' 3 7) (w.extractLsb' 0 3))
  | 0x1C => need w 0x000000 0x000000 (.andn (w.extractLsb' 17 7) (w.extractLsb' 10 7) (w.extractLsb' 3 7) (w.extractLsb' 0 3))
  | 0x1D => need w 0x0003F8 0x000000 (.popc (w.extractLsb' 17 7) (w.extractLsb' 10 7) (w.extractLsb' 0 3))
  | 0x1E => need w 0x0003F8 0x000000 (.clz (w.extractLsb' 17 7) (w.extractLsb' 10 7) (w.extractLsb' 0 3))
  | 0x1F => need w 0x0003F8 0x000000 (.brev (w.extractLsb' 17 7) (w.extractLsb' 10 7) (w.extractLsb' 0 3))
  | 0x20 => need w 0x000000 0x000000 (.bfe (w.extractLsb' 17 7) (w.extractLsb' 10 7) (w.extractLsb' 5 5) (w.extractLsb' 0 5))
  | 0x21 => need w 0x000000 0x000000 (.bfeS (w.extractLsb' 17 7) (w.extractLsb' 10 7) (w.extractLsb' 5 5) (w.extractLsb' 0 5))
  | 0x22 => need w 0x000000 0x000000 (.bfi (w.extractLsb' 17 7) (w.extractLsb' 10 7) (w.extractLsb' 5 5) (w.extractLsb' 0 5))
  | 0x23 => need w 0x000000 0x000000 (.bdep (w.extractLsb' 17 7) (w.extractLsb' 10 7) (w.extractLsb' 3 7) (w.extractLsb' 0 3))
  | 0x24 => need w 0x000000 0x000000 (.bext (w.extractLsb' 17 7) (w.extractLsb' 10 7) (w.extractLsb' 3 7) (w.extractLsb' 0 3))
  | 0x25 => need w 0x0003E0 0x000000 (.bperm (w.extractLsb' 17 7) (w.extractLsb' 10 7) (w.extractLsb' 3 2) (w.extractLsb' 0 3))
  | 0x26 => need w 0xFC0FFC 0x000000 (.bpset (w.extractLsb' 12 6) (w.extractLsb' 0 2))
  | 0x27 => need w 0x000000 0x000000 (.bmm8 (w.extractLsb' 17 7) (w.extractLsb' 10 7) (w.extractLsb' 3 7) (w.extractLsb' 0 3))
  | 0x28 => need w 0x000000 0x000000 (.bytep (w.extractLsb' 17 7) (w.extractLsb' 10 7) (w.extractLsb' 3 7) (w.extractLsb' 0 3))
  | 0x29 => need w 0x0003F8 0x000000 (.mov (w.extractLsb' 17 7) (w.extractLsb' 10 7) (w.extractLsb' 0 3))
  | 0x2A => need w 0x0003F8 0x000000 (.movD (w.extractLsb' 17 7) (w.extractLsb' 10 7) (w.extractLsb' 0 3))
  | 0x2B => need w 0x000000 0x000000 (.movi (w.extractLsb' 17 7) (w.extractLsb' 0 17))
  | 0x2C => need w 0x010000 0x000000 (.movhi (w.extractLsb' 17 7) (w.extractLsb' 0 16))
  | 0x2D => need w 0x000000 0x01C380 (.plop (w.extractLsb' 21 3) (w.extractLsb' 17 4) (w.extractLsb' 10 4) (w.extractLsb' 3 4) (w.extractLsb' 0 3))
  | 0x2E => need w 0x01FFF8 0x000000 (.ptow (w.extractLsb' 17 7) (w.extractLsb' 0 3))
  | 0x2F => need w 0xFE03F8 0x000000 (.wtop (w.extractLsb' 10 7) (w.extractLsb' 0 3))
  | 0x30 => need w 0x000000 0x000000 (.qadd (w.extractLsb' 18 6) (w.extractLsb' 12 6) (w.extractLsb' 6 6) (w.extractLsb' 0 6))
  | 0x31 => need w 0x000000 0x000000 (.qsub (w.extractLsb' 18 6) (w.extractLsb' 12 6) (w.extractLsb' 6 6) (w.extractLsb' 0 6))
  | 0x32 => need w 0x000000 0x000000 (.qmul (w.extractLsb' 18 6) (w.extractLsb' 12 6) (w.extractLsb' 6 6) (w.extractLsb' 0 6))
  | 0x33 => need w 0x000038 0x000000 (.qlop (w.extractLsb' 18 6) (w.extractLsb' 12 6) (w.extractLsb' 6 6) (w.extractLsb' 0 3))
  | 0x34 => need w 0x00000F 0x000000 (.qshf (w.extractLsb' 18 6) (w.extractLsb' 12 6) (w.extractLsb' 6 6) (w.extractLsb' 4 2))
  | 0x35 => need w 0xC00038 0x000000 (.qcmp (w.extractLsb' 18 4) (w.extractLsb' 12 6) (w.extractLsb' 6 6) (w.extractLsb' 0 3))
  | 0x36 => need w 0x000000 0x000000 (.qmovi (w.extractLsb' 18 6) (w.extractLsb' 0 18))
  | 0x37 => need w 0x030000 0x000000 (.qmovhi (w.extractLsb' 18 6) (w.extractLsb' 0 16))
  | 0x38 => need w 0x0003F8 0x800000 (.vtoq (w.extractLsb' 17 6) (w.extractLsb' 10 7) (w.extractLsb' 0 3))
  | 0x39 => need w 0x0003F8 0x010000 (.qtov (w.extractLsb' 17 7) (w.extractLsb' 10 6) (w.extractLsb' 0 3))
  | 0x40 => need w 0x000000 0x000000 (.ladd (w.extractLsb' 17 7) (w.extractLsb' 10 7) (w.extractLsb' 3 7) (w.extractLsb' 0 3))
  | 0x41 => need w 0x000000 0x000000 (.laddL16 (w.extractLsb' 17 7) (w.extractLsb' 10 7) (w.extractLsb' 3 7) (w.extractLsb' 0 3))
  | 0x42 => need w 0x000000 0x000000 (.laddL8 (w.extractLsb' 17 7) (w.extractLsb' 10 7) (w.extractLsb' 3 7) (w.extractLsb' 0 3))
  | 0x43 => need w 0x000000 0x000000 (.lsub (w.extractLsb' 17 7) (w.extractLsb' 10 7) (w.extractLsb' 3 7) (w.extractLsb' 0 3))
  | 0x44 => need w 0x000000 0x000000 (.lsubL16 (w.extractLsb' 17 7) (w.extractLsb' 10 7) (w.extractLsb' 3 7) (w.extractLsb' 0 3))
  | 0x45 => need w 0x000000 0x000000 (.lsubL8 (w.extractLsb' 17 7) (w.extractLsb' 10 7) (w.extractLsb' 3 7) (w.extractLsb' 0 3))
  | 0x46 => need w 0x000000 0x000000 (.lmul (w.extractLsb' 17 7) (w.extractLsb' 10 7) (w.extractLsb' 3 7) (w.extractLsb' 0 3))
  | 0x47 => need w 0x000000 0x000000 (.lmulL16 (w.extractLsb' 17 7) (w.extractLsb' 10 7) (w.extractLsb' 3 7) (w.extractLsb' 0 3))
  | 0x48 => need w 0x000000 0x000000 (.lmulL8 (w.extractLsb' 17 7) (w.extractLsb' 10 7) (w.extractLsb' 3 7) (w.extractLsb' 0 3))
  | 0x49 => need w 0x000000 0x000000 (.ldiv (w.extractLsb' 17 7) (w.extractLsb' 10 7) (w.extractLsb' 3 7) (w.extractLsb' 0 3))
  | 0x4A => need w 0x000000 0x000000 (.ldivL16 (w.extractLsb' 17 7) (w.extractLsb' 10 7) (w.extractLsb' 3 7) (w.extractLsb' 0 3))
  | 0x4B => need w 0x000000 0x000000 (.ldivL8 (w.extractLsb' 17 7) (w.extractLsb' 10 7) (w.extractLsb' 3 7) (w.extractLsb' 0 3))
  | 0x4C => need w 0x000000 0x000000 (.lmad (w.extractLsb' 17 7) (w.extractLsb' 10 7) (w.extractLsb' 3 7) (w.extractLsb' 0 3))
  | 0x4D => need w 0x000000 0x000000 (.lmadL16 (w.extractLsb' 17 7) (w.extractLsb' 10 7) (w.extractLsb' 3 7) (w.extractLsb' 0 3))
  | 0x4E => need w 0x000000 0x000000 (.lmadL8 (w.extractLsb' 17 7) (w.extractLsb' 10 7) (w.extractLsb' 3 7) (w.extractLsb' 0 3))
  | 0x4F => need w 0x000000 0x000000 (.lmin (w.extractLsb' 17 7) (w.extractLsb' 10 7) (w.extractLsb' 3 7) (w.extractLsb' 0 3))
  | 0x50 => need w 0x000000 0x000000 (.lminL16 (w.extractLsb' 17 7) (w.extractLsb' 10 7) (w.extractLsb' 3 7) (w.extractLsb' 0 3))
  | 0x51 => need w 0x000000 0x000000 (.lminL8 (w.extractLsb' 17 7) (w.extractLsb' 10 7) (w.extractLsb' 3 7) (w.extractLsb' 0 3))
  | 0x52 => need w 0x000000 0x000000 (.lmax (w.extractLsb' 17 7) (w.extractLsb' 10 7) (w.extractLsb' 3 7) (w.extractLsb' 0 3))
  | 0x53 => need w 0x000000 0x000000 (.lmaxL16 (w.extractLsb' 17 7) (w.extractLsb' 10 7) (w.extractLsb' 3 7) (w.extractLsb' 0 3))
  | 0x54 => need w 0x000000 0x000000 (.lmaxL8 (w.extractLsb' 17 7) (w.extractLsb' 10 7) (w.extractLsb' 3 7) (w.extractLsb' 0 3))
  | 0x55 => need w 0x000000 0x000000 (.lcmp (w.extractLsb' 21 3) (w.extractLsb' 17 4) (w.extractLsb' 10 7) (w.extractLsb' 3 7) (w.extractLsb' 0 3))
  | 0x56 => need w 0x000000 0x000000 (.lcmpL16 (w.extractLsb' 21 3) (w.extractLsb' 17 4) (w.extractLsb' 10 7) (w.extractLsb' 3 7) (w.extractLsb' 0 3))
  | 0x57 => need w 0x000000 0x000000 (.lcmpL8 (w.extractLsb' 21 3) (w.extractLsb' 17 4) (w.extractLsb' 10 7) (w.extractLsb' 3 7) (w.extractLsb' 0 3))
  | 0x58 => need w 0x000000 0x000000 (.lscale (w.extractLsb' 17 7) (w.extractLsb' 10 7) (w.extractLsb' 2 8) (w.extractLsb' 0 2))
  | 0x59 => need w 0x000000 0x000000 (.ldot4 (w.extractLsb' 17 7) (w.extractLsb' 10 7) (w.extractLsb' 3 7) (w.extractLsb' 0 3))
  | 0x5A => need w 0x0003E0 0x000000 (.lsqrt (w.extractLsb' 17 7) (w.extractLsb' 10 7) (w.extractLsb' 3 2) (w.extractLsb' 0 3))
  | 0x5B => need w 0x0003E0 0x000000 (.lrcp (w.extractLsb' 17 7) (w.extractLsb' 10 7) (w.extractLsb' 3 2) (w.extractLsb' 0 3))
  | 0x5C => need w 0x000000 0x000000 (.lsgn (w.extractLsb' 17 7) (w.extractLsb' 10 7) (w.extractLsb' 5 5) (w.extractLsb' 3 2) (w.extractLsb' 0 3))
  | 0x5D => need w 0x0003E0 0x000000 (.lclass (w.extractLsb' 17 7) (w.extractLsb' 10 7) (w.extractLsb' 3 2) (w.extractLsb' 0 3))
  | 0x5E => need w 0x0003E0 0x000000 (.lexp2 (w.extractLsb' 17 7) (w.extractLsb' 10 7) (w.extractLsb' 3 2) (w.extractLsb' 0 3))
  | 0x5F => need w 0x0003E0 0x000000 (.llog2 (w.extractLsb' 17 7) (w.extractLsb' 10 7) (w.extractLsb' 3 2) (w.extractLsb' 0 3))
  | 0x60 => need w 0x0003E0 0x000000 (.lsin (w.extractLsb' 17 7) (w.extractLsb' 10 7) (w.extractLsb' 3 2) (w.extractLsb' 0 3))
  | 0x61 => need w 0x0003E0 0x000000 (.lcos (w.extractLsb' 17 7) (w.extractLsb' 10 7) (w.extractLsb' 3 2) (w.extractLsb' 0 3))
  | 0x62 => need w 0x0003E0 0x000000 (.ltanh (w.extractLsb' 17 7) (w.extractLsb' 10 7) (w.extractLsb' 3 2) (w.extractLsb' 0 3))
  | 0x63 => need w 0x000200 0x000000 (.lnarrow (w.extractLsb' 17 7) (w.extractLsb' 10 7) (w.extractLsb' 7 2) (w.extractLsb' 5 2) (w.extractLsb' 3 2) (w.extractLsb' 0 3))
  | 0x64 => need w 0x000200 0x000000 (.lwiden (w.extractLsb' 17 7) (w.extractLsb' 10 7) (w.extractLsb' 7 2) (w.extractLsb' 5 2) (w.extractLsb' 3 2) (w.extractLsb' 0 3))
  | 0x65 => need w 0x0003C0 0x000000 (.lcvi (w.extractLsb' 17 7) (w.extractLsb' 10 7) (w.extractLsb' 5 1) (w.extractLsb' 3 2) (w.extractLsb' 0 3))
  | 0x66 => need w 0x0003C0 0x000000 (.lcvx (w.extractLsb' 17 7) (w.extractLsb' 10 7) (w.extractLsb' 5 1) (w.extractLsb' 3 2) (w.extractLsb' 0 3))
  | 0x67 => need w 0x000300 0x000000 (.lcvf (w.extractLsb' 17 7) (w.extractLsb' 10 7) (w.extractLsb' 5 3) (w.extractLsb' 3 2) (w.extractLsb' 0 3))
  | 0x68 => need w 0x000300 0x000000 (.lcve (w.extractLsb' 17 7) (w.extractLsb' 10 7) (w.extractLsb' 5 3) (w.extractLsb' 3 2) (w.extractLsb' 0 3))
  | 0x69 => need w 0x000000 0x000000 (.rand (w.extractLsb' 17 7) (w.extractLsb' 10 7) (w.extractLsb' 5 5) (w.extractLsb' 3 2) (w.extractLsb' 0 3))
  | 0x70 => need w 0x000000 0x000000 (.shflLane (w.extractLsb' 17 7) (w.extractLsb' 10 7) (w.extractLsb' 3 7) (w.extractLsb' 0 3))
  | 0x71 => need w 0x000000 0x000000 (.shflFlip (w.extractLsb' 17 7) (w.extractLsb' 10 7) (w.extractLsb' 3 7) (w.extractLsb' 0 3))
  | 0x72 => need w 0x000000 0x000000 (.shflLower (w.extractLsb' 17 7) (w.extractLsb' 10 7) (w.extractLsb' 3 7) (w.extractLsb' 0 3))
  | 0x73 => need w 0x000000 0x000000 (.shflHigher (w.extractLsb' 17 7) (w.extractLsb' 10 7) (w.extractLsb' 3 7) (w.extractLsb' 0 3))
  | 0x74 => need w 0x000000 0x000000 (.shwr (w.extractLsb' 17 7) (w.extractLsb' 10 7) (w.extractLsb' 3 7) (w.extractLsb' 0 3))
  | 0x75 => need w 0x0003F8 0x000000 (.quadx (w.extractLsb' 17 7) (w.extractLsb' 10 7) (w.extractLsb' 0 3))
  | 0x76 => need w 0x00C000 0x000000 (.vote (w.extractLsb' 21 3) (w.extractLsb' 17 4) (w.extractLsb' 16 1) (w.extractLsb' 10 4) (w.extractLsb' 3 7) (w.extractLsb' 0 3))
  | 0x78 => need w 0xFC0FFF 0x000000 (.mjoin (w.extractLsb' 12 6))
  | 0x79 => need w 0xFC0FFF 0x000000 (.mleave (w.extractLsb' 12 6))
  | 0x7A => need w 0xFC0FFF 0x000000 (.mwait (w.extractLsb' 12 6))
  | 0x7B => need w 0x000FFF 0x000000 (.mread (w.extractLsb' 18 6) (w.extractLsb' 12 6))
  | 0x7C => need w 0xFC003F 0x000000 (.mset (w.extractLsb' 12 6) (w.extractLsb' 6 6))
  | 0x80 => need w 0x000000 0x000000 (.ld (w.extractLsb' 17 7) (w.extractLsb' 10 7) (w.extractLsb' 6 4) (w.extractLsb' 3 3) (w.extractLsb' 0 3))
  | 0x81 => need w 0x000000 0x000000 (.lda (w.extractLsb' 17 7) (w.extractLsb' 10 7) (w.extractLsb' 6 4) (w.extractLsb' 3 3) (w.extractLsb' 0 3))
  | 0x82 => need w 0x000000 0x000000 (.st (w.extractLsb' 17 7) (w.extractLsb' 10 7) (w.extractLsb' 6 4) (w.extractLsb' 3 3) (w.extractLsb' 0 3))
  | 0x83 => need w 0x000000 0x000000 (.str (w.extractLsb' 17 7) (w.extractLsb' 10 7) (w.extractLsb' 6 4) (w.extractLsb' 3 3) (w.extractLsb' 0 3))
  | 0x84 => need w 0x000000 0x810000 (.ldq (w.extractLsb' 17 6) (w.extractLsb' 10 6) (w.extractLsb' 6 4) (w.extractLsb' 3 3) (w.extractLsb' 0 3))
  | 0x85 => need w 0x000000 0x000000 (.ldl (w.extractLsb' 17 7) (w.extractLsb' 10 7) (w.extractLsb' 6 4) (w.extractLsb' 3 3) (w.extractLsb' 0 3))
  | 0x86 => need w 0x000000 0x000000 (.stl (w.extractLsb' 17 7) (w.extractLsb' 10 7) (w.extractLsb' 6 4) (w.extractLsb' 3 3) (w.extractLsb' 0 3))
  | 0x87 =>
    if w &&& 0xFFFFC0 ≠ 0 then .error .reserved
    else match (w.extractLsb' 3 3).toNat with
      | 0 => .ok (.fenceAcqrel (w.extractLsb' 0 3))
      | 1 => .ok (.fenceSc (w.extractLsb' 0 3))
      | _ => .error .code
  | 0x88 => need w 0xFE0038 0x000000 (.cctl (w.extractLsb' 10 7) (w.extractLsb' 6 4) (w.extractLsb' 0 3))
  | 0x89 => need w 0xFFFFFF 0x000000 (.ifence)
  | 0x8A => need w 0x000000 0x000000 (.atomAdd (w.extractLsb' 17 7) (w.extractLsb' 10 7) (w.extractLsb' 6 4) (w.extractLsb' 5 1) (w.extractLsb' 3 2) (w.extractLsb' 0 3))
  | 0x8B => need w 0x000000 0x000000 (.atomMin (w.extractLsb' 17 7) (w.extractLsb' 10 7) (w.extractLsb' 6 4) (w.extractLsb' 5 1) (w.extractLsb' 3 2) (w.extractLsb' 0 3))
  | 0x8C => need w 0x000000 0x000000 (.atomMinu (w.extractLsb' 17 7) (w.extractLsb' 10 7) (w.extractLsb' 6 4) (w.extractLsb' 5 1) (w.extractLsb' 3 2) (w.extractLsb' 0 3))
  | 0x8D => need w 0x000000 0x000000 (.atomMax (w.extractLsb' 17 7) (w.extractLsb' 10 7) (w.extractLsb' 6 4) (w.extractLsb' 5 1) (w.extractLsb' 3 2) (w.extractLsb' 0 3))
  | 0x8E => need w 0x000000 0x000000 (.atomMaxu (w.extractLsb' 17 7) (w.extractLsb' 10 7) (w.extractLsb' 6 4) (w.extractLsb' 5 1) (w.extractLsb' 3 2) (w.extractLsb' 0 3))
  | 0x8F => need w 0x000000 0x000000 (.atomAnd (w.extractLsb' 17 7) (w.extractLsb' 10 7) (w.extractLsb' 6 4) (w.extractLsb' 5 1) (w.extractLsb' 3 2) (w.extractLsb' 0 3))
  | 0x90 => need w 0x000000 0x000000 (.atomOr (w.extractLsb' 17 7) (w.extractLsb' 10 7) (w.extractLsb' 6 4) (w.extractLsb' 5 1) (w.extractLsb' 3 2) (w.extractLsb' 0 3))
  | 0x91 => need w 0x000000 0x000000 (.atomXor (w.extractLsb' 17 7) (w.extractLsb' 10 7) (w.extractLsb' 6 4) (w.extractLsb' 5 1) (w.extractLsb' 3 2) (w.extractLsb' 0 3))
  | 0x92 => need w 0x000000 0x000000 (.atomExch (w.extractLsb' 17 7) (w.extractLsb' 10 7) (w.extractLsb' 6 4) (w.extractLsb' 5 1) (w.extractLsb' 3 2) (w.extractLsb' 0 3))
  | 0x93 => need w 0x000000 0x000000 (.atomCas (w.extractLsb' 17 7) (w.extractLsb' 10 7) (w.extractLsb' 6 4) (w.extractLsb' 5 1) (w.extractLsb' 3 2) (w.extractLsb' 0 3))
  | 0x94 => need w 0x000020 0x000000 (.atomIncw (w.extractLsb' 17 7) (w.extractLsb' 10 7) (w.extractLsb' 6 4) (w.extractLsb' 3 2) (w.extractLsb' 0 3))
  | 0x95 => need w 0x000020 0x000000 (.atomAddb (w.extractLsb' 17 7) (w.extractLsb' 10 7) (w.extractLsb' 6 4) (w.extractLsb' 3 2) (w.extractLsb' 0 3))
  | 0x96 => need w 0x000020 0x000000 (.atomLadd (w.extractLsb' 17 7) (w.extractLsb' 10 7) (w.extractLsb' 6 4) (w.extractLsb' 3 2) (w.extractLsb' 0 3))
  | 0x97 => need w 0x000008 0x000000 (.redAdd (w.extractLsb' 17 7) (w.extractLsb' 10 7) (w.extractLsb' 6 4) (w.extractLsb' 5 1) (w.extractLsb' 4 1) (w.extractLsb' 0 3))
  | 0x98 => need w 0x000008 0x000000 (.redMin (w.extractLsb' 17 7) (w.extractLsb' 10 7) (w.extractLsb' 6 4) (w.extractLsb' 5 1) (w.extractLsb' 4 1) (w.extractLsb' 0 3))
  | 0x99 => need w 0x000008 0x000000 (.redMinu (w.extractLsb' 17 7) (w.extractLsb' 10 7) (w.extractLsb' 6 4) (w.extractLsb' 5 1) (w.extractLsb' 4 1) (w.extractLsb' 0 3))
  | 0x9A => need w 0x000008 0x000000 (.redMax (w.extractLsb' 17 7) (w.extractLsb' 10 7) (w.extractLsb' 6 4) (w.extractLsb' 5 1) (w.extractLsb' 4 1) (w.extractLsb' 0 3))
  | 0x9B => need w 0x000008 0x000000 (.redMaxu (w.extractLsb' 17 7) (w.extractLsb' 10 7) (w.extractLsb' 6 4) (w.extractLsb' 5 1) (w.extractLsb' 4 1) (w.extractLsb' 0 3))
  | 0x9C => need w 0x000008 0x000000 (.redAnd (w.extractLsb' 17 7) (w.extractLsb' 10 7) (w.extractLsb' 6 4) (w.extractLsb' 5 1) (w.extractLsb' 4 1) (w.extractLsb' 0 3))
  | 0x9D => need w 0x000008 0x000000 (.redOr (w.extractLsb' 17 7) (w.extractLsb' 10 7) (w.extractLsb' 6 4) (w.extractLsb' 5 1) (w.extractLsb' 4 1) (w.extractLsb' 0 3))
  | 0x9E => need w 0x000008 0x000000 (.redXor (w.extractLsb' 17 7) (w.extractLsb' 10 7) (w.extractLsb' 6 4) (w.extractLsb' 5 1) (w.extractLsb' 4 1) (w.extractLsb' 0 3))
  | 0x9F => need w 0x000028 0x000000 (.redLadd (w.extractLsb' 17 7) (w.extractLsb' 10 7) (w.extractLsb' 6 4) (w.extractLsb' 4 1) (w.extractLsb' 0 3))
  | 0xC0 => need w 0x000FFE 0x000000 (.midx (w.extractLsb' 18 6) (w.extractLsb' 12 6) (w.extractLsb' 0 1))
  | 0xC1 => need w 0x03FFFE 0x000000 (.mloop (w.extractLsb' 18 6) (w.extractLsb' 0 1))
  | 0xC2 => need w 0xFFF03E 0x000000 (.mclr (w.extractLsb' 6 6) (w.extractLsb' 0 1))
  | 0xC3 => need w 0xFC003F 0x000000 (.mscl (w.extractLsb' 12 6) (w.extractLsb' 6 6))
  | 0xC4 => need w 0x03EFC0 0x000000 (.mstat (w.extractLsb' 18 6) (w.extractLsb' 12 1) (w.extractLsb' 0 6))
  | 0xC8 => need w 0x000FFF 0x000000 (.tdesc (w.extractLsb' 18 6) (w.extractLsb' 12 6))
  | 0xC9 => need w 0x03FFC0 0x000000 (.tstate (w.extractLsb' 18 6) (w.extractLsb' 0 6))
  | 0xCA => need w 0xFFFFC0 0x000000 (.trel (w.extractLsb' 0 6))
  | 0xD0 => need w 0x03FFFE 0x000000 (.cpyin (w.extractLsb' 18 6) (w.extractLsb' 0 1))
  | 0xD1 => need w 0x03FFFE 0x000000 (.cpyout (w.extractLsb' 18 6) (w.extractLsb' 0 1))
  | 0xD2 => need w 0x03FFFE 0x000000 (.cpyx (w.extractLsb' 18 6) (w.extractLsb' 0 1))
  | 0xD3 => need w 0x03FFFE 0x000000 (.cpyp (w.extractLsb' 18 6) (w.extractLsb' 0 1))
  | 0xD8 => need w 0x03FFFC 0x000000 (.hbind (w.extractLsb' 18 6) (w.extractLsb' 1 1) (w.extractLsb' 0 1))
  | 0xD9 => need w 0x03FFF8 0x000000 (.hstat (w.extractLsb' 18 6) (w.extractLsb' 1 2) (w.extractLsb' 0 1))
  | 0xE0 => need w 0x000000 0x000000 (.bra (w.extractLsb' 3 21) (w.extractLsb' 0 3))
  | 0xE1 => need w 0xFE03F8 0x000000 (.brx (w.extractLsb' 10 7) (w.extractLsb' 0 3))
  | 0xE2 => need w 0x000000 0x000000 (.call (w.extractLsb' 3 21) (w.extractLsb' 0 3))
  | 0xE3 => need w 0xFFFFF8 0x000000 (.ret (w.extractLsb' 0 3))
  | 0xE4 => need w 0xFFFFF8 0x000000 (.exit (w.extractLsb' 0 3))
  | 0xE5 => need w 0xFFFC00 0x000000 (.trap (w.extractLsb' 0 10))
  | 0xE6 => need w 0xFFFFF8 0x000000 (.tret (w.extractLsb' 0 3))
  | 0xE7 => need w 0xFFFC00 0x000000 (.bkpt (w.extractLsb' 0 10))
  | 0xE8 => need w 0xFFFFF8 0x000000 (.nop (w.extractLsb' 0 3))
  | 0xE9 => need w 0xFFFFF8 0x000000 (.yield (w.extractLsb' 0 3))
  | 0xEA => need w 0xFFFFF0 0x000000 (.bar (w.extractLsb' 0 4))
  | 0xEB => need w 0xFFFFE0 0x000000 (.bardrop (w.extractLsb' 4 1) (w.extractLsb' 0 4))
  | 0xEC => need w 0xFFFFEC 0x000000 (.pbar (w.extractLsb' 4 1) (w.extractLsb' 0 2))
  | 0xED => need w 0x03FFC0 0x000000 (.waitc (w.extractLsb' 18 6) (w.extractLsb' 0 6))
  | 0xEE => need w 0xF80FC0 0x000000 (.rgsig (w.extractLsb' 18 1) (w.extractLsb' 12 6) (w.extractLsb' 3 3) (w.extractLsb' 0 3))
  | 0xEF => need w 0xF00FC0 0x000000 (.rgwait (w.extractLsb' 19 1) (w.extractLsb' 18 1) (w.extractLsb' 12 6) (w.extractLsb' 3 3) (w.extractLsb' 0 3))
  | 0xF0 => need w 0xFFFFF8 0x000000 (.trigger (w.extractLsb' 0 3))
  | 0xF1 => need w 0x00003F 0x000000 (.tfork (w.extractLsb' 18 6) (w.extractLsb' 12 6) (w.extractLsb' 6 6))
  | 0xF2 => need w 0x03FFFE 0x000000 (.tjoin (w.extractLsb' 18 6) (w.extractLsb' 0 1))
  | 0xF3 => need w 0x000FFF 0x000000 (.tpoll (w.extractLsb' 18 6) (w.extractLsb' 12 6))
  | 0xF4 => need w 0x01FC00 0x000000 (.sread (w.extractLsb' 17 7) (w.extractLsb' 0 10))
  | 0xF5 => need w 0xFE0000 0x000000 (.swrite (w.extractLsb' 10 7) (w.extractLsb' 0 10))
  | _ => .error .unassigned

/-- Decode a word: the raw instruction, if none of its codes is illegal (R339, checks 1 to 3). -/
def decodeWord (w : Word) : Except Reject Instr :=
  match rawDecode w with
  | .ok i => if i.wf then .ok i else .error .code
  | .error e => .error e

/-- Decode the first four bytes, little-endian (R3), and give back the rest. -/
def decode : List Byte → Except Reject (Instr × List Byte)
  | b0 :: b1 :: b2 :: b3 :: rest =>
    match decodeWord (b3 ++ b2 ++ b1 ++ b0) with
    | .ok i => .ok (i, rest)
    | .error e => .error e
  | _ => .error .short

/-- The bytes of a word, lowest address first (R3). -/
def wordBytes (w : Word) : List Byte :=
  [w.extractLsb' 0 8, w.extractLsb' 8 8, w.extractLsb' 16 8, w.extractLsb' 24 8]

/-- What the decoder reads from an instruction whose table bits are `w` (one 32-bit word in every row with bits). -/
def decodeTableWord (nbits w : Nat) : Option Instr :=
  if nbits ≤ 32 then
    match decode (wordBytes (BitVec.ofNat 32 w)) with
    | .ok (i, _) => some i
    | .error _ => none
  else none

/-- The word of an instruction; none for the rows that have no word. -/
def encode : Instr → Option Word
  | .iadd d a b g => some (1#8 ++ d ++ a ++ b ++ g)
  | .iaddD d a b g => some (2#8 ++ d ++ a ++ b ++ g)
  | .isub d a b g => some (3#8 ++ d ++ a ++ b ++ g)
  | .isubD d a b g => some (4#8 ++ d ++ a ++ b ++ g)
  | .imul d a b g => some (5#8 ++ d ++ a ++ b ++ g)
  | .imulD d a b g => some (6#8 ++ d ++ a ++ b ++ g)
  | .imulh d a b g => some (7#8 ++ d ++ a ++ b ++ g)
  | .imulhU d a b g => some (8#8 ++ d ++ a ++ b ++ g)
  | .imad d a b g => some (9#8 ++ d ++ a ++ b ++ g)
  | .imin d a b g => some (10#8 ++ d ++ a ++ b ++ g)
  | .iminU d a b g => some (11#8 ++ d ++ a ++ b ++ g)
  | .imax d a b g => some (12#8 ++ d ++ a ++ b ++ g)
  | .imaxU d a b g => some (13#8 ++ d ++ a ++ b ++ g)
  | .iabs d a g => some (14#8 ++ d ++ a ++ 0#7 ++ g)
  | .ishl d a b g => some (15#8 ++ d ++ a ++ b ++ g)
  | .ishlD d a b g => some (16#8 ++ d ++ a ++ b ++ g)
  | .ishr d a b g => some (17#8 ++ d ++ a ++ b ++ g)
  | .ishrS d a b g => some (18#8 ++ d ++ a ++ b ++ g)
  | .ishrD d a b g => some (19#8 ++ d ++ a ++ b ++ g)
  | .ishrDs d a b g => some (20#8 ++ d ++ a ++ b ++ g)
  | .iext d a w s n => some (21#8 ++ d ++ a ++ 0#3 ++ w ++ s ++ n)
  | .icmp c p a b g => some (22#8 ++ c ++ p ++ a ++ b ++ g)
  | .icmpD c p a b g => some (23#8 ++ c ++ p ++ a ++ b ++ g)
  | .isel d a b s => some (24#8 ++ d ++ a ++ b ++ s)
  | .and d a b g => some (25#8 ++ d ++ a ++ b ++ g)
  | .or d a b g => some (26#8 ++ d ++ a ++ b ++ g)
  | .xor d a b g => some (27#8 ++ d ++ a ++ b ++ g)
  | .andn d a b g => some (28#8 ++ d ++ a ++ b ++ g)
  | .popc d a g => some (29#8 ++ d ++ a ++ 0#7 ++ g)
  | .clz d a g => some (30#8 ++ d ++ a ++ 0#7 ++ g)
  | .brev d a g => some (31#8 ++ d ++ a ++ 0#7 ++ g)
  | .bfe d a l p => some (32#8 ++ d ++ a ++ l ++ p)
  | .bfeS d a l p => some (33#8 ++ d ++ a ++ l ++ p)
  | .bfi d a l p => some (34#8 ++ d ++ a ++ l ++ p)
  | .bdep d a b g => some (35#8 ++ d ++ a ++ b ++ g)
  | .bext d a b g => some (36#8 ++ d ++ a ++ b ++ g)
  | .bperm d a s g => some (37#8 ++ d ++ a ++ 0#5 ++ s ++ g)
  | .bpset a s => some (2432#14 ++ a ++ 0#10 ++ s)
  | .bmm8 d a b g => some (39#8 ++ d ++ a ++ b ++ g)
  | .bytep d a b g => some (40#8 ++ d ++ a ++ b ++ g)
  | .mov d a g => some (41#8 ++ d ++ a ++ 0#7 ++ g)
  | .movD d a g => some (42#8 ++ d ++ a ++ 0#7 ++ g)
  | .movi d i => some (43#8 ++ d ++ i)
  | .movhi d i => some (44#8 ++ d ++ 0#1 ++ i)
  | .plop c d a b g => some (45#8 ++ c ++ d ++ 0#3 ++ a ++ 0#3 ++ b ++ g)
  | .ptow d g => some (46#8 ++ d ++ 0#14 ++ g)
  | .wtop a g => some (6016#15 ++ a ++ 0#7 ++ g)
  | .qadd d a b i => some (48#8 ++ d ++ a ++ b ++ i)
  | .qsub d a b i => some (49#8 ++ d ++ a ++ b ++ i)
  | .qmul d a b i => some (50#8 ++ d ++ a ++ b ++ i)
  | .qlop d a b f => some (51#8 ++ d ++ a ++ b ++ 0#3 ++ f)
  | .qshf d a b k => some (52#8 ++ d ++ a ++ b ++ k ++ 0#4)
  | .qcmp p a b c => some (212#10 ++ p ++ a ++ b ++ 0#3 ++ c)
  | .qmovi d i => some (54#8 ++ d ++ i)
  | .qmovhi d i => some (55#8 ++ d ++ 0#2 ++ i)
  | .vtoq d a g => some (112#9 ++ d ++ a ++ 0#7 ++ g)
  | .qtov d a g => some (57#8 ++ d ++ 0#1 ++ a ++ 0#7 ++ g)
  | .ladd d a b g => some (64#8 ++ d ++ a ++ b ++ g)
  | .laddL16 d a b g => some (65#8 ++ d ++ a ++ b ++ g)
  | .laddL8 d a b g => some (66#8 ++ d ++ a ++ b ++ g)
  | .lsub d a b g => some (67#8 ++ d ++ a ++ b ++ g)
  | .lsubL16 d a b g => some (68#8 ++ d ++ a ++ b ++ g)
  | .lsubL8 d a b g => some (69#8 ++ d ++ a ++ b ++ g)
  | .lmul d a b g => some (70#8 ++ d ++ a ++ b ++ g)
  | .lmulL16 d a b g => some (71#8 ++ d ++ a ++ b ++ g)
  | .lmulL8 d a b g => some (72#8 ++ d ++ a ++ b ++ g)
  | .ldiv d a b g => some (73#8 ++ d ++ a ++ b ++ g)
  | .ldivL16 d a b g => some (74#8 ++ d ++ a ++ b ++ g)
  | .ldivL8 d a b g => some (75#8 ++ d ++ a ++ b ++ g)
  | .lmad d a b g => some (76#8 ++ d ++ a ++ b ++ g)
  | .lmadL16 d a b g => some (77#8 ++ d ++ a ++ b ++ g)
  | .lmadL8 d a b g => some (78#8 ++ d ++ a ++ b ++ g)
  | .lmin d a b g => some (79#8 ++ d ++ a ++ b ++ g)
  | .lminL16 d a b g => some (80#8 ++ d ++ a ++ b ++ g)
  | .lminL8 d a b g => some (81#8 ++ d ++ a ++ b ++ g)
  | .lmax d a b g => some (82#8 ++ d ++ a ++ b ++ g)
  | .lmaxL16 d a b g => some (83#8 ++ d ++ a ++ b ++ g)
  | .lmaxL8 d a b g => some (84#8 ++ d ++ a ++ b ++ g)
  | .lcmp c p a b g => some (85#8 ++ c ++ p ++ a ++ b ++ g)
  | .lcmpL16 c p a b g => some (86#8 ++ c ++ p ++ a ++ b ++ g)
  | .lcmpL8 c p a b g => some (87#8 ++ c ++ p ++ a ++ b ++ g)
  | .lscale d a n p => some (88#8 ++ d ++ a ++ n ++ p)
  | .ldot4 d a b g => some (89#8 ++ d ++ a ++ b ++ g)
  | .lsqrt d a p g => some (90#8 ++ d ++ a ++ 0#5 ++ p ++ g)
  | .lrcp d a p g => some (91#8 ++ d ++ a ++ 0#5 ++ p ++ g)
  | .lsgn d a s p g => some (92#8 ++ d ++ a ++ s ++ p ++ g)
  | .lclass d a p g => some (93#8 ++ d ++ a ++ 0#5 ++ p ++ g)
  | .lexp2 d a p g => some (94#8 ++ d ++ a ++ 0#5 ++ p ++ g)
  | .llog2 d a p g => some (95#8 ++ d ++ a ++ 0#5 ++ p ++ g)
  | .lsin d a p g => some (96#8 ++ d ++ a ++ 0#5 ++ p ++ g)
  | .lcos d a p g => some (97#8 ++ d ++ a ++ 0#5 ++ p ++ g)
  | .ltanh d a p g => some (98#8 ++ d ++ a ++ 0#5 ++ p ++ g)
  | .lnarrow d a s f t g => some (99#8 ++ d ++ a ++ 0#1 ++ s ++ f ++ t ++ g)
  | .lwiden d a s f t g => some (100#8 ++ d ++ a ++ 0#1 ++ s ++ f ++ t ++ g)
  | .lcvi d a u p g => some (101#8 ++ d ++ a ++ 0#4 ++ u ++ p ++ g)
  | .lcvx d a u p g => some (102#8 ++ d ++ a ++ 0#4 ++ u ++ p ++ g)
  | .lcvf d a f p g => some (103#8 ++ d ++ a ++ 0#2 ++ f ++ p ++ g)
  | .lcve d a f p g => some (104#8 ++ d ++ a ++ 0#2 ++ f ++ p ++ g)
  | .rand d a s p g => some (105#8 ++ d ++ a ++ s ++ p ++ g)
  | .shflLane d a b g => some (112#8 ++ d ++ a ++ b ++ g)
  | .shflFlip d a b g => some (113#8 ++ d ++ a ++ b ++ g)
  | .shflLower d a b g => some (114#8 ++ d ++ a ++ b ++ g)
  | .shflHigher d a b g => some (115#8 ++ d ++ a ++ b ++ g)
  | .shwr d a b g => some (116#8 ++ d ++ a ++ b ++ g)
  | .quadx d a m => some (117#8 ++ d ++ a ++ 0#7 ++ m)
  | .vote m p i a q g => some (118#8 ++ m ++ p ++ i ++ 0#2 ++ a ++ q ++ g)
  | .mjoin m => some (7680#14 ++ m ++ 0#12)
  | .mleave m => some (7744#14 ++ m ++ 0#12)
  | .mwait m => some (7808#14 ++ m ++ 0#12)
  | .mread d m => some (123#8 ++ d ++ m ++ 0#12)
  | .mset m b => some (7936#14 ++ m ++ b ++ 0#6)
  | .ld d o s w h => some (128#8 ++ d ++ o ++ s ++ w ++ h)
  | .lda d o s w c => some (129#8 ++ d ++ o ++ s ++ w ++ c)
  | .st d o s w h => some (130#8 ++ d ++ o ++ s ++ w ++ h)
  | .str d o s w c => some (131#8 ++ d ++ o ++ s ++ w ++ c)
  | .ldq d o s w h => some (264#9 ++ d ++ 0#1 ++ o ++ s ++ w ++ h)
  | .ldl d o s w x => some (133#8 ++ d ++ o ++ s ++ w ++ x)
  | .stl d o s w x => some (134#8 ++ d ++ o ++ s ++ w ++ x)
  | .fenceAcqrel s => some (283115520#29 ++ s)
  | .fenceSc s => some (283115521#29 ++ s)
  | .cctl o s p => some (17408#15 ++ o ++ s ++ 0#3 ++ p)
  | .ifence => some (2298478592#32)
  | .atomAdd d o s w r c => some (138#8 ++ d ++ o ++ s ++ w ++ r ++ c)
  | .atomMin d o s w r c => some (139#8 ++ d ++ o ++ s ++ w ++ r ++ c)
  | .atomMinu d o s w r c => some (140#8 ++ d ++ o ++ s ++ w ++ r ++ c)
  | .atomMax d o s w r c => some (141#8 ++ d ++ o ++ s ++ w ++ r ++ c)
  | .atomMaxu d o s w r c => some (142#8 ++ d ++ o ++ s ++ w ++ r ++ c)
  | .atomAnd d o s w r c => some (143#8 ++ d ++ o ++ s ++ w ++ r ++ c)
  | .atomOr d o s w r c => some (144#8 ++ d ++ o ++ s ++ w ++ r ++ c)
  | .atomXor d o s w r c => some (145#8 ++ d ++ o ++ s ++ w ++ r ++ c)
  | .atomExch d o s w r c => some (146#8 ++ d ++ o ++ s ++ w ++ r ++ c)
  | .atomCas d o s w r c => some (147#8 ++ d ++ o ++ s ++ w ++ r ++ c)
  | .atomIncw d o s r c => some (148#8 ++ d ++ o ++ s ++ 0#1 ++ r ++ c)
  | .atomAddb d o s r c => some (149#8 ++ d ++ o ++ s ++ 0#1 ++ r ++ c)
  | .atomLadd d o s r c => some (150#8 ++ d ++ o ++ s ++ 0#1 ++ r ++ c)
  | .redAdd d o s w r c => some (151#8 ++ d ++ o ++ s ++ w ++ r ++ 0#1 ++ c)
  | .redMin d o s w r c => some (152#8 ++ d ++ o ++ s ++ w ++ r ++ 0#1 ++ c)
  | .redMinu d o s w r c => some (153#8 ++ d ++ o ++ s ++ w ++ r ++ 0#1 ++ c)
  | .redMax d o s w r c => some (154#8 ++ d ++ o ++ s ++ w ++ r ++ 0#1 ++ c)
  | .redMaxu d o s w r c => some (155#8 ++ d ++ o ++ s ++ w ++ r ++ 0#1 ++ c)
  | .redAnd d o s w r c => some (156#8 ++ d ++ o ++ s ++ w ++ r ++ 0#1 ++ c)
  | .redOr d o s w r c => some (157#8 ++ d ++ o ++ s ++ w ++ r ++ 0#1 ++ c)
  | .redXor d o s w r c => some (158#8 ++ d ++ o ++ s ++ w ++ r ++ 0#1 ++ c)
  | .redLadd d o s r c => some (159#8 ++ d ++ o ++ s ++ 0#1 ++ r ++ 0#1 ++ c)
  | .midx a b s => some (192#8 ++ a ++ b ++ 0#11 ++ s)
  | .mloop d s => some (193#8 ++ d ++ 0#17 ++ s)
  | .mclr t s => some (794624#20 ++ t ++ 0#5 ++ s)
  | .mscl a b => some (12480#14 ++ a ++ b ++ 0#6)
  | .mstat d m t => some (196#8 ++ d ++ 0#5 ++ m ++ 0#6 ++ t)
  | .tdesc t a => some (200#8 ++ t ++ a ++ 0#12)
  | .tstate d t => some (201#8 ++ d ++ 0#12 ++ t)
  | .trel t => some (52953088#26 ++ t)
  | .cpyin d s => some (208#8 ++ d ++ 0#17 ++ s)
  | .cpyout d s => some (209#8 ++ d ++ 0#17 ++ s)
  | .cpyx d s => some (210#8 ++ d ++ 0#17 ++ s)
  | .cpyp d s => some (211#8 ++ d ++ 0#17 ++ s)
  | .hbind x n s => some (216#8 ++ x ++ 0#16 ++ n ++ s)
  | .hstat d s c => some (217#8 ++ d ++ 0#15 ++ s ++ c)
  | .bra o g => some (224#8 ++ o ++ g)
  | .brx a g => some (28800#15 ++ a ++ 0#7 ++ g)
  | .call o g => some (226#8 ++ o ++ g)
  | .ret g => some (476053504#29 ++ g)
  | .exit g => some (478150656#29 ++ g)
  | .trap c => some (3751936#22 ++ c)
  | .tret g => some (482344960#29 ++ g)
  | .bkpt t => some (3784704#22 ++ t)
  | .nop g => some (486539264#29 ++ g)
  | .yield g => some (488636416#29 ++ g)
  | .bar b => some (245366784#28 ++ b)
  | .bardrop a b => some (123207680#27 ++ a ++ b)
  | .pbar d b => some (123731968#27 ++ d ++ 0#2 ++ b)
  | .waitc c n => some (237#8 ++ c ++ 0#12 ++ n)
  | .rgsig i a r s => some (7616#13 ++ i ++ a ++ 0#6 ++ r ++ s)
  | .rgwait p i a r s => some (3824#12 ++ p ++ i ++ a ++ 0#6 ++ r ++ s)
  | .trigger g => some (503316480#29 ++ g)
  | .tfork d a b => some (241#8 ++ d ++ a ++ b ++ 0#6)
  | .tjoin a s => some (242#8 ++ a ++ 0#17 ++ s)
  | .tpoll d a => some (243#8 ++ d ++ a ++ 0#12)
  | .sread d n => some (244#8 ++ d ++ 0#7 ++ n)
  | .swrite a n => some (31360#15 ++ a ++ n)
  | .illegalInstruction _ => none
  | .loadSectorReturn _ _ _ => none
  | .storeAck _ => none
  | .pageWalkComplete _ _ _ _ => none
  | .lightFault _ _ => none
  | .faultResolve _ _ => none
  | .sideLogReplay _ => none
  | .l2LineWriteback _ _ => none
  | .linkRecoveryStart _ => none
  | .linkRecoveryEnd _ => none
  | .peerUnreachable _ => none
  | .patrolScrubRow _ => none
  | .copyStart _ _ => none
  | .hullerCellFire _ _ => none
  | .copyComplete _ _ => none
  | .hbindComplete _ => none
  | .matrixOpStart _ => none
  | .midxComplete _ => none
  | .mclrComplete _ => none
  | .mloopComplete _ => none
  | .mloopNanStop _ => none
  | .forkPoint _ => none
  | .joinMerge _ => none
  | .copyOnWrite _ _ _ => none
  | .revisionSpaceTimeout _ _ => none
  | .twinCompare _ => none
  | .assuredCheckpoint _ => none
  | .queueDoorbell _ _ => none
  | .waitWordPoll => none
  | .dispatchDecision => none
  | .warpStopped _ => none
  | .forcedStop _ => none
  | .blockSave _ => none
  | .blockEnd _ => none
  | .gridCompletion _ => none
  | .hangWatchdog _ => none
  | .barrierTimeout _ _ => none
  | .podBarrierTimeout _ _ => none
  | .powerLimitExceeded => none
  | .thermalShutdown => none
  | .perstnRise => none
  | .firmwareVerification _ => none
  | .port0LinkTraining => none
  | .memoryTraining => none
  | .hostWindowAccess _ _ _ _ => none
  | .deviceResetWrite _ => none
  | .l2wb _ => none
  | .l2wbDone => none
  | .queueControlWrite _ _ => none
  | .tlbinv _ _ => none
  | .tlbinvDone _ => none
  | .contextSuspend _ _ => none
  | .contextEndRequest _ _ => none
  | .fqrdWrite _ _ => none
  | .eqrdWrite _ _ => none
  | .fqsizeWrite _ _ => none
  | .eqsizeWrite _ _ => none
  | .revisionStackPush _ _ _ => none
  | .contextCounterClear _ _ _ => none
  | .hintshortClear _ _ => none
  | .channelCounterClear _ _ _ => none
  | .registerWrite _ _ => none
  | .partoff _ _ => none
  | .partoffDone => none
  | .partfmt _ _ _ => none
  | .partfmtDone => none
  | .parton _ _ => none
  | .scrubset _ _ _ _ => none
  | .retire _ _ => none
  | .budget _ _ _ => none
  | .resume _ _ => none
  | .histread _ _ _ => none
  | .schedset _ _ => none
  | .huskexp _ _ _ _ => none
  | .huskimp _ _ _ _ => none
  | .lateact _ _ _ => none
  | .codemove _ _ _ _ => none
  | .codemoveCopy => none
  | .powerset _ _ => none
  | .ident _ _ => none
  | .attest _ _ _ => none
  | .fwload _ _ _ => none
  | .mailboxUnassigned _ _ => none
  | .perstnFall => none
  | .supplyLoss => none
  | .supplyReturn => none
  | .linkRestore _ => none
  | .storageError _ => none
  | .powerBelowLimit => none

/-- A prefix word's fields (R348). -/
structure Pfx where
  pg : BitVec 4
  neg : Bool
  op4 : BitVec 7
  rnd : BitVec 3
  zero : Bool
  sat : Bool
  ef : Bool
  mask : BitVec 4
  deriving DecidableEq, Repr

/-- The fields of an instruction without a prefix: always-true guard, merge, no mask, nearest-even (R349). -/
def Pfx.none : Pfx := ⟨0, false, 0, 0, false, false, false, 0⟩

/-- The fields of a prefix word (R348). -/
def pfxOf (w : Word) : Pfx :=
  ⟨w.extractLsb' 22 4, w.getLsbD 21, w.extractLsb' 14 7, w.extractLsb' 11 3, w.getLsbD 10, w.getLsbD 9,
   w.getLsbD 8, w.extractLsb' 4 4⟩

/-- The codes of a prefix word that R348 makes illegal: rnd 6 and 7, mask 13 to 15, a reserved bit set. -/
def pfxLegal (w : Word) : Bool :=
  (pfxOf w).rnd.toNat ≤ 5 && (pfxOf w).mask.toNat ≤ 12 && w.extractLsb' 0 4 == 0

/-- A clause header's fields (R334). -/
structure Header where
  sig : BitVec 3
  count : BitVec 4
  cls : BitVec 3
  wait : BitVec 12
  cntA : BitVec 4
  cntB : BitVec 4
  stall : BitVec 2
  deriving DecidableEq, Repr

/-- The fields of a header word (R334). -/
def headerOf (w : Word) : Header :=
  ⟨w.extractLsb' 29 3, w.extractLsb' 25 4, w.extractLsb' 22 3, w.extractLsb' 10 12, w.extractLsb' 6 4,
   w.extractLsb' 2 4, w.extractLsb' 0 2⟩

/-- The engine class of a header's class code; none for 5 to 7 (R334). -/
def classOf (c : BitVec 3) : Option EngClass :=
  match c.toNat with
  | 0 => some .v
  | 1 => some .m
  | 2 => some .x
  | 3 => some .c
  | 4 => some .k
  | _ => none

/-- The integer instructions, one word of each, written from the layouts of R341 and their entries. -/
theorem words_integer :
    decodeWord 0b00000001_0000110_0001010_0000100_011#32 = .ok (.iadd 6 10 4 3) ∧
    decodeWord 0b00000010_0000110_0001010_0000100_011#32 = .ok (.iaddD 6 10 4 3) ∧
    decodeWord 0b00000011_0000110_0001010_0000100_011#32 = .ok (.isub 6 10 4 3) ∧
    decodeWord 0b00000100_0000110_0001010_0000100_011#32 = .ok (.isubD 6 10 4 3) ∧
    decodeWord 0b00000101_0000110_0001010_0000100_011#32 = .ok (.imul 6 10 4 3) ∧
    decodeWord 0b00000110_0000110_0001010_0000100_011#32 = .ok (.imulD 6 10 4 3) ∧
    decodeWord 0b00000111_0000110_0001010_0000100_011#32 = .ok (.imulh 6 10 4 3) ∧
    decodeWord 0b00001000_0000110_0001010_0000100_011#32 = .ok (.imulhU 6 10 4 3) ∧
    decodeWord 0b00001001_0000110_0001010_0000100_011#32 = .ok (.imad 6 10 4 3) ∧
    decodeWord 0b00001010_0000110_0001010_0000100_011#32 = .ok (.imin 6 10 4 3) ∧
    decodeWord 0b00001011_0000110_0001010_0000100_011#32 = .ok (.iminU 6 10 4 3) ∧
    decodeWord 0b00001100_0000110_0001010_0000100_011#32 = .ok (.imax 6 10 4 3) ∧
    decodeWord 0b00001101_0000110_0001010_0000100_011#32 = .ok (.imaxU 6 10 4 3) ∧
    decodeWord 0b00001110_0000110_0001010_0000000_011#32 = .ok (.iabs 6 10 3) := by decide +kernel

/-- The integer instructions (2), one word of each, written from the layouts of R341 and their entries. -/
theorem words_integer_2 :
    decodeWord 0b00001111_0000110_0001010_0000100_011#32 = .ok (.ishl 6 10 4 3) ∧
    decodeWord 0b00010000_0000110_0001010_0000100_011#32 = .ok (.ishlD 6 10 4 3) ∧
    decodeWord 0b00010001_0000110_0001010_0000100_011#32 = .ok (.ishr 6 10 4 3) ∧
    decodeWord 0b00010010_0000110_0001010_0000100_011#32 = .ok (.ishrS 6 10 4 3) ∧
    decodeWord 0b00010011_0000110_0001010_0000100_011#32 = .ok (.ishrD 6 10 4 3) ∧
    decodeWord 0b00010100_0000110_0001010_0000100_011#32 = .ok (.ishrDs 6 10 4 3) ∧
    decodeWord 0b00010101_0000110_0001010_000_1_0_00111#32 = .ok (.iext 6 10 1 0 7) ∧
    decodeWord 0b00010110_0100011_0001010_0000100_011#32 = .ok (.icmp 2 3 10 4 3) ∧
    decodeWord 0b00010111_1010001_0001010_0000100_011#32 = .ok (.icmpD 5 1 10 4 3) ∧
    decodeWord 0b00011000_0000110_0001010_0000100_011#32 = .ok (.isel 6 10 4 3) := by decide +kernel

/-- The bits instructions, one word of each, written from the layouts of R341 and their entries. -/
theorem words_bits :
    decodeWord 0b00011001_0000110_0001010_0000100_011#32 = .ok (.and 6 10 4 3) ∧
    decodeWord 0b00011010_0000110_0001010_0000100_011#32 = .ok (.or 6 10 4 3) ∧
    decodeWord 0b00011011_0000110_0001010_0000100_011#32 = .ok (.xor 6 10 4 3) ∧
    decodeWord 0b00011100_0000110_0001010_0000100_011#32 = .ok (.andn 6 10 4 3) ∧
    decodeWord 0b00011101_0000110_0001010_0000000_011#32 = .ok (.popc 6 10 3) ∧
    decodeWord 0b00011110_0000110_0001010_0000000_011#32 = .ok (.clz 6 10 3) ∧
    decodeWord 0b00011111_0000110_0001010_0000000_011#32 = .ok (.brev 6 10 3) ∧
    decodeWord 0b00100000_0000110_0001010_00011_01000#32 = .ok (.bfe 6 10 3 8) ∧
    decodeWord 0b00100001_0000110_0001010_00011_01000#32 = .ok (.bfeS 6 10 3 8) ∧
    decodeWord 0b00100010_0000110_0001010_00011_01000#32 = .ok (.bfi 6 10 3 8) ∧
    decodeWord 0b00100011_0000110_0001010_0000100_011#32 = .ok (.bdep 6 10 4 3) ∧
    decodeWord 0b00100100_0000110_0001010_0000100_011#32 = .ok (.bext 6 10 4 3) ∧
    decodeWord 0b00100101_0000110_0001010_00000_10_011#32 = .ok (.bperm 6 10 2 3) ∧
    decodeWord 0b00100110_000000_001100_000000_0000_10#32 = .ok (.bpset 12 2) := by decide +kernel

/-- The bits instructions (2), one word of each, written from the layouts of R341 and their entries. -/
theorem words_bits_2 :
    decodeWord 0b00100111_0000110_0001010_0000100_011#32 = .ok (.bmm8 6 10 4 3) ∧
    decodeWord 0b00101000_0000110_0001010_0000100_011#32 = .ok (.bytep 6 10 4 3) ∧
    decodeWord 0b00101001_0000110_0001010_0000000_011#32 = .ok (.mov 6 10 3) ∧
    decodeWord 0b00101010_0000110_0001010_0000000_011#32 = .ok (.movD 6 10 3) ∧
    decodeWord 0b00101011_0000011_01010101111001101#32 = .ok (.movi 3 0xABCD) ∧
    decodeWord 0b00101100_0000011_0_0001001000110100#32 = .ok (.movhi 3 0x1234) ∧
    decodeWord 0b00101101_001_0011_000_0001_000_0010_000#32 = .ok (.plop 1 3 1 2 0) ∧
    decodeWord 0b00101110_0000110_0000000_0000000_011#32 = .ok (.ptow 6 3) ∧
    decodeWord 0b00101111_0000000_0000110_0000000_011#32 = .ok (.wtop 6 3) := by decide +kernel

/-- The uniform instructions, one word of each, written from the layouts of R341 and their entries. -/
theorem words_uniform :
    decodeWord 0b00110000_000001_000101_000010_000000#32 = .ok (.qadd 1 5 2 0) ∧
    decodeWord 0b00110001_000001_000101_000010_000000#32 = .ok (.qsub 1 5 2 0) ∧
    decodeWord 0b00110010_000001_000101_000010_000000#32 = .ok (.qmul 1 5 2 0) ∧
    decodeWord 0b00110011_000001_000010_000011_000_010#32 = .ok (.qlop 1 2 3 2) ∧
    decodeWord 0b00110100_000001_000010_000011_01_0000#32 = .ok (.qshf 1 2 3 1) ∧
    decodeWord 0b00110101_00_0010_000001_000011_000_010#32 = .ok (.qcmp 2 1 3 2) ∧
    decodeWord 0b00110110_000011_111111111111111011#32 = .ok (.qmovi 3 0x3FFFB) ∧
    decodeWord 0b00110111_000011_00_0001001000110100#32 = .ok (.qmovhi 3 0x1234) ∧
    decodeWord 0b00111000_0_000100_0001001_0000000_011#32 = .ok (.vtoq 4 9 3) ∧
    decodeWord 0b00111001_0001001_0_000100_0000000_011#32 = .ok (.qtov 9 4 3) := by decide +kernel

/-- The logarithmic instructions, one word of each, written from the layouts of R341 and their entries. -/
theorem words_logarithmic :
    decodeWord 0b01000000_0000110_0001010_0000100_011#32 = .ok (.ladd 6 10 4 3) ∧
    decodeWord 0b01000001_0000110_0001010_0000100_011#32 = .ok (.laddL16 6 10 4 3) ∧
    decodeWord 0b01000010_0000110_0001010_0000100_011#32 = .ok (.laddL8 6 10 4 3) ∧
    decodeWord 0b01000011_0000110_0001010_0000100_011#32 = .ok (.lsub 6 10 4 3) ∧
    decodeWord 0b01000100_0000110_0001010_0000100_011#32 = .ok (.lsubL16 6 10 4 3) ∧
    decodeWord 0b01000101_0000110_0001010_0000100_011#32 = .ok (.lsubL8 6 10 4 3) ∧
    decodeWord 0b01000110_0000110_0001010_0000100_011#32 = .ok (.lmul 6 10 4 3) ∧
    decodeWord 0b01000111_0000110_0001010_0000100_011#32 = .ok (.lmulL16 6 10 4 3) ∧
    decodeWord 0b01001000_0000110_0001010_0000100_011#32 = .ok (.lmulL8 6 10 4 3) ∧
    decodeWord 0b01001001_0000110_0001010_0000100_011#32 = .ok (.ldiv 6 10 4 3) ∧
    decodeWord 0b01001010_0000110_0001010_0000100_011#32 = .ok (.ldivL16 6 10 4 3) ∧
    decodeWord 0b01001011_0000110_0001010_0000100_011#32 = .ok (.ldivL8 6 10 4 3) ∧
    decodeWord 0b01001100_0000110_0001010_0000100_011#32 = .ok (.lmad 6 10 4 3) ∧
    decodeWord 0b01001101_0000110_0001010_0000100_011#32 = .ok (.lmadL16 6 10 4 3) := by decide +kernel

/-- The logarithmic instructions (2), one word of each, written from the layouts of R341 and their entries. -/
theorem words_logarithmic_2 :
    decodeWord 0b01001110_0000110_0001010_0000100_011#32 = .ok (.lmadL8 6 10 4 3) ∧
    decodeWord 0b01001111_0000110_0001010_0000100_011#32 = .ok (.lmin 6 10 4 3) ∧
    decodeWord 0b01010000_0000110_0001010_0000100_011#32 = .ok (.lminL16 6 10 4 3) ∧
    decodeWord 0b01010001_0000110_0001010_0000100_011#32 = .ok (.lminL8 6 10 4 3) ∧
    decodeWord 0b01010010_0000110_0001010_0000100_011#32 = .ok (.lmax 6 10 4 3) ∧
    decodeWord 0b01010011_0000110_0001010_0000100_011#32 = .ok (.lmaxL16 6 10 4 3) ∧
    decodeWord 0b01010100_0000110_0001010_0000100_011#32 = .ok (.lmaxL8 6 10 4 3) ∧
    decodeWord 0b01010101_0100011_0001010_0000100_011#32 = .ok (.lcmp 2 3 10 4 3) ∧
    decodeWord 0b01010110_0100011_0001010_0000100_011#32 = .ok (.lcmpL16 2 3 10 4 3) ∧
    decodeWord 0b01010111_0100011_0001010_0000100_011#32 = .ok (.lcmpL8 2 3 10 4 3) ∧
    decodeWord 0b01011000_0000110_0001010_11111110_10#32 = .ok (.lscale 6 10 0xFE 2) ∧
    decodeWord 0b01011001_0000110_0001010_0000100_011#32 = .ok (.ldot4 6 10 4 3) ∧
    decodeWord 0b01011010_0000110_0001010_00000_01_011#32 = .ok (.lsqrt 6 10 1 3) ∧
    decodeWord 0b01011011_0000110_0001010_00000_01_011#32 = .ok (.lrcp 6 10 1 3) := by decide +kernel

/-- The logarithmic instructions (3), one word of each, written from the layouts of R341 and their entries. -/
theorem words_logarithmic_3 :
    decodeWord 0b01011101_0000110_0001010_00000_01_011#32 = .ok (.lclass 6 10 1 3) ∧
    decodeWord 0b01011110_0000110_0001010_00000_01_011#32 = .ok (.lexp2 6 10 1 3) ∧
    decodeWord 0b01011111_0000110_0001010_00000_01_011#32 = .ok (.llog2 6 10 1 3) ∧
    decodeWord 0b01100000_0000110_0001010_00000_01_011#32 = .ok (.lsin 6 10 1 3) ∧
    decodeWord 0b01100001_0000110_0001010_00000_01_011#32 = .ok (.lcos 6 10 1 3) ∧
    decodeWord 0b01100010_0000110_0001010_00000_01_011#32 = .ok (.ltanh 6 10 1 3) ∧
    decodeWord 0b01011100_0000110_0001010_00001_10_011#32 = .ok (.lsgn 6 10 1 2 3) := by decide +kernel

/-- The conversion instructions, one word of each, written from the layouts of R341 and their entries. -/
theorem words_conversion :
    decodeWord 0b01100011_0000110_0001010_0_11_00_10_011#32 = .ok (.lnarrow 6 10 3 0 2 3) ∧
    decodeWord 0b01100100_0000110_0001010_0_01_10_01_011#32 = .ok (.lwiden 6 10 1 2 1 3) ∧
    decodeWord 0b01100101_0000110_0001010_0000_1_10_011#32 = .ok (.lcvi 6 10 1 2 3) ∧
    decodeWord 0b01100110_0000110_0001010_0000_1_10_011#32 = .ok (.lcvx 6 10 1 2 3) ∧
    decodeWord 0b01100111_0000110_0001010_00_100_01_011#32 = .ok (.lcvf 6 10 4 1 3) ∧
    decodeWord 0b01101000_0000110_0001010_00_011_01_011#32 = .ok (.lcve 6 10 3 1 3) ∧
    decodeWord 0b01101001_0000110_0000000_00001_01_000#32 = .ok (.rand 6 0 1 1 0) := by decide +kernel

/-- The cross instructions, one word of each, written from the layouts of R341 and their entries. -/
theorem words_cross :
    decodeWord 0b01110000_0000110_0001010_0000100_011#32 = .ok (.shflLane 6 10 4 3) ∧
    decodeWord 0b01110001_0000110_0001010_0000100_011#32 = .ok (.shflFlip 6 10 4 3) ∧
    decodeWord 0b01110010_0000110_0001010_0000100_011#32 = .ok (.shflLower 6 10 4 3) ∧
    decodeWord 0b01110011_0000110_0001010_0000100_011#32 = .ok (.shflHigher 6 10 4 3) ∧
    decodeWord 0b01110100_0000110_0001010_0000100_011#32 = .ok (.shwr 6 10 4 3) ∧
    decodeWord 0b01110101_0000101_0000100_0000000_101#32 = .ok (.quadx 5 4 5) ∧
    decodeWord 0b01110110_001_0110_1_00_0010_0000000_011#32 = .ok (.vote 1 6 1 2 0 3) ∧
    decodeWord 0b01111000_000000_000011_000000_000000#32 = .ok (.mjoin 3) ∧
    decodeWord 0b01111001_000000_000011_000000_000000#32 = .ok (.mleave 3) ∧
    decodeWord 0b01111010_000000_000011_000000_000000#32 = .ok (.mwait 3) ∧
    decodeWord 0b01111011_000111_000001_000000_000000#32 = .ok (.mread 7 1) ∧
    decodeWord 0b01111100_000000_000001_000110_000000#32 = .ok (.mset 1 6) := by decide +kernel

/-- The memory instructions, one word of each, written from the layouts of R341 and their entries. -/
theorem words_memory :
    decodeWord 0b10000000_0001010_0000110_0011_100_010#32 = .ok (.ld 10 6 3 4 2) ∧
    decodeWord 0b10000001_0001010_0000110_0011_100_010#32 = .ok (.lda 10 6 3 4 2) ∧
    decodeWord 0b10000010_0001010_0000110_0011_100_010#32 = .ok (.st 10 6 3 4 2) ∧
    decodeWord 0b10000011_0001010_0000110_0011_100_010#32 = .ok (.str 10 6 3 4 2) ∧
    decodeWord 0b10000101_0001010_0000110_0001_100_010#32 = .ok (.ldl 10 6 1 4 2) ∧
    decodeWord 0b10000110_0001010_0000110_0001_100_010#32 = .ok (.stl 10 6 1 4 2) ∧
    decodeWord 0b10000100_0_001000_0_000100_0010_110_000#32 = .ok (.ldq 8 4 2 6 0) ∧
    decodeWord 0b10000111_000000000000000000_000_001#32 = .ok (.fenceAcqrel 1) ∧
    decodeWord 0b10000111_000000000000000000_001_011#32 = .ok (.fenceSc 3) ∧
    decodeWord 0b10001000_0000000_0000110_0011_000_100#32 = .ok (.cctl 6 3 4) ∧
    decodeWord 0b10001001_000000000000000000000000#32 = .ok (.ifence) := by decide +kernel

/-- The atomic instructions, one word of each, written from the layouts of R341 and their entries. -/
theorem words_atomic :
    decodeWord 0b10001010_0000100_0000110_0011_1_11_011#32 = .ok (.atomAdd 4 6 3 1 3 3) ∧
    decodeWord 0b10001011_0000100_0000110_0011_1_11_011#32 = .ok (.atomMin 4 6 3 1 3 3) ∧
    decodeWord 0b10001100_0000100_0000110_0011_1_11_011#32 = .ok (.atomMinu 4 6 3 1 3 3) ∧
    decodeWord 0b10001101_0000100_0000110_0011_1_11_011#32 = .ok (.atomMax 4 6 3 1 3 3) ∧
    decodeWord 0b10001110_0000100_0000110_0011_1_11_011#32 = .ok (.atomMaxu 4 6 3 1 3 3) ∧
    decodeWord 0b10001111_0000100_0000110_0011_1_11_011#32 = .ok (.atomAnd 4 6 3 1 3 3) ∧
    decodeWord 0b10010000_0000100_0000110_0011_1_11_011#32 = .ok (.atomOr 4 6 3 1 3 3) ∧
    decodeWord 0b10010001_0000100_0000110_0011_1_11_011#32 = .ok (.atomXor 4 6 3 1 3 3) ∧
    decodeWord 0b10010010_0000100_0000110_0011_1_11_011#32 = .ok (.atomExch 4 6 3 1 3 3) ∧
    decodeWord 0b10010011_0000100_0000110_0011_1_11_011#32 = .ok (.atomCas 4 6 3 1 3 3) ∧
    decodeWord 0b10010100_0000100_0000110_0011_0_10_011#32 = .ok (.atomIncw 4 6 3 2 3) ∧
    decodeWord 0b10010101_0000100_0000110_0011_0_10_011#32 = .ok (.atomAddb 4 6 3 2 3) ∧
    decodeWord 0b10010110_0000100_0000110_0011_0_10_011#32 = .ok (.atomLadd 4 6 3 2 3) ∧
    decodeWord 0b10010111_0001000_0000011_0010_1_10_011#32 = .ok (.redAdd 8 3 2 1 1 3) := by decide +kernel

/-- The atomic instructions (2), one word of each, written from the layouts of R341 and their entries. -/
theorem words_atomic_2 :
    decodeWord 0b10011000_0001000_0000011_0010_1_10_011#32 = .ok (.redMin 8 3 2 1 1 3) ∧
    decodeWord 0b10011001_0001000_0000011_0010_1_10_011#32 = .ok (.redMinu 8 3 2 1 1 3) ∧
    decodeWord 0b10011010_0001000_0000011_0010_1_10_011#32 = .ok (.redMax 8 3 2 1 1 3) ∧
    decodeWord 0b10011011_0001000_0000011_0010_1_10_011#32 = .ok (.redMaxu 8 3 2 1 1 3) ∧
    decodeWord 0b10011100_0001000_0000011_0010_1_10_011#32 = .ok (.redAnd 8 3 2 1 1 3) ∧
    decodeWord 0b10011101_0001000_0000011_0010_1_10_011#32 = .ok (.redOr 8 3 2 1 1 3) ∧
    decodeWord 0b10011110_0001000_0000011_0010_1_10_011#32 = .ok (.redXor 8 3 2 1 1 3) ∧
    decodeWord 0b10011111_0001000_0000011_0010_0_10_011#32 = .ok (.redLadd 8 3 2 1 3) := by decide +kernel

/-- The tile instructions, one word of each, written from the layouts of R341 and their entries. -/
theorem words_tile :
    decodeWord 0b11000000_000100_000101_000000_00000_1#32 = .ok (.midx 4 5 1) ∧
    decodeWord 0b11000001_001100_000000_000000_00000_1#32 = .ok (.mloop 12 1) ∧
    decodeWord 0b11000010_000000_000000_000101_00000_1#32 = .ok (.mclr 5 1) ∧
    decodeWord 0b11000011_000000_000010_000011_000000#32 = .ok (.mscl 2 3) ∧
    decodeWord 0b11000100_000111_000001_000000_000101#32 = .ok (.mstat 7 1 5) ∧
    decodeWord 0b11001000_000010_001000_000000_000000#32 = .ok (.tdesc 2 8) ∧
    decodeWord 0b11001001_000011_000000_000000_000010#32 = .ok (.tstate 3 2) ∧
    decodeWord 0b11001010_000000_000000_000000_000010#32 = .ok (.trel 2) ∧
    decodeWord 0b11010000_001000_000000_000000_00000_1#32 = .ok (.cpyin 8 1) ∧
    decodeWord 0b11010001_001000_000000_000000_00000_1#32 = .ok (.cpyout 8 1) ∧
    decodeWord 0b11010010_001000_000000_000000_00000_1#32 = .ok (.cpyx 8 1) ∧
    decodeWord 0b11010011_001000_000000_000000_00000_1#32 = .ok (.cpyp 8 1) ∧
    decodeWord 0b11011000_000100_000000_000000_0000_0_1#32 = .ok (.hbind 4 0 1) ∧
    decodeWord 0b11011001_000111_000000_000000_000_00_1#32 = .ok (.hstat 7 0 1) := by decide +kernel

/-- The control instructions, one word of each, written from the layouts of R341 and their entries. -/
theorem words_control :
    decodeWord 0b11100000_111111111111111111010_001#32 = .ok (.bra 0x1FFFFA 1) ∧
    decodeWord 0b11100001_0000000_0000110_0000000_001#32 = .ok (.brx 6 1) ∧
    decodeWord 0b11100010_000000000000000001001_001#32 = .ok (.call 9 1) ∧
    decodeWord 0b11100011_000000000000000000000_001#32 = .ok (.ret 1) ∧
    decodeWord 0b11100100_000000000000000000000_001#32 = .ok (.exit 1) ∧
    decodeWord 0b11100110_000000000000000000000_001#32 = .ok (.tret 1) ∧
    decodeWord 0b11101000_000000000000000000000_001#32 = .ok (.nop 1) ∧
    decodeWord 0b11101001_000000000000000000000_001#32 = .ok (.yield 1) ∧
    decodeWord 0b11110000_000000000000000000000_001#32 = .ok (.trigger 1) ∧
    decodeWord 0b11100101_0000000_0000000_0000000111#32 = .ok (.trap 7) ∧
    decodeWord 0b11100111_0000000_0000000_0000001001#32 = .ok (.bkpt 9) ∧
    decodeWord 0b11101010_000000000000000000_00_0010#32 = .ok (.bar 2) ∧
    decodeWord 0b11101011_000000000000000000_0_0_0010#32 = .ok (.bardrop 0 2) ∧
    decodeWord 0b11101100_000000000000000000_0_1_00_01#32 = .ok (.pbar 1 1) := by decide +kernel

/-- The control instructions (2), one word of each, written from the layouts of R341 and their entries. -/
theorem words_control_2 :
    decodeWord 0b11101101_000001_000000000000_000011#32 = .ok (.waitc 1 3) ∧
    decodeWord 0b11101110_0000_0_0_000000_000000_010_101#32 = .ok (.rgsig 0 0 2 5) ∧
    decodeWord 0b11101111_0000_1_0_000000_000000_010_101#32 = .ok (.rgwait 1 0 0 2 5) ∧
    decodeWord 0b11110001_001010_000010_000100_000000#32 = .ok (.tfork 10 2 4) ∧
    decodeWord 0b11110010_001010_000000_000000_00000_1#32 = .ok (.tjoin 10 1) ∧
    decodeWord 0b11110011_001011_001010_000000_000000#32 = .ok (.tpoll 11 10) ∧
    decodeWord 0b11110100_0000100_0000000_0000100000#32 = .ok (.sread 4 0x20) ∧
    decodeWord 0b11110101_0000000_0000101_0000100001#32 = .ok (.swrite 5 0x21) := by decide +kernel

end Sys2Proof
end

