-- ==== Sys2Proof/Config.lean ====
section
/-! DEFINITION. What the spec leaves to the device: free values (opaque, no body) and the sizes that a part fixes. -/

set_option Elab.async false

namespace Sys2Proof.Config

/-- A value that the spec leaves undefined, numbered by the counter of the state (log 1). -/
opaque freeWord : Nat → Word

/-- A byte that the spec leaves undefined (log 1). -/
opaque freeByte : Nat → Byte

/-- A truth value that the spec leaves open (log 1). -/
opaque freeBool : Nat → Bool

/-- R236: the eight check bytes of 64 data bytes of Assured memory; the spec does not give the code (log 12). -/
opaque checkBytes : List Byte → List Byte

/-- R236: the outcome of reading an Assured codeword with more than two wrong symbols, a fixed function of the
codeword as read (64 data and 8 check bytes): the miscorrected data with the symbol that the device takes for corrected,
or none where it is found uncorrectable (log 12). -/
opaque miscorrect : List Byte → Option (List Byte × Nat)

/-- R194, R206: the peer number by which the fabric knows this device (log 39). -/
opaque peerNumber : Nat

/-- R160: the set of a line in a 16-way first-level cache of 64 sets, before reduction modulo 64 (log 32). -/
opaque l1Set : Nat → Nat

/-- R16, R160: the set of a line in a 16-way slice of 3072 sets, before reduction modulo 3072 (log 32). -/
opaque l2Set : Nat → Nat

/-- R329: whether a signature verifies for an image body under the fused key (log 11). -/
opaque sigOk : (body sig : Nat) → Bool

/-- R329: the firmware image that a buffer of bytes holds: body, security version, version, signature. The spec does not
give the layout of an image (log 11). -/
opaque imageOf : List Byte → Nat × Nat × Nat × Nat

/-- R329, R330: SHA-384 of a firmware image body, 48 bytes (log 11). -/
opaque sha384Image : Nat → List Byte

/-- R330: the ECDSA P-384 signature of the die's identity key over a report, 96 bytes (log 11). -/
opaque sign : List Byte → List Byte

/-- IDENT: the identity public key and its certificate chain as written to the host (log 11). -/
opaque identBytes : Unit → List Byte

/-- R330: the die serial number, 16 bytes (log 11). -/
opaque serial : Unit → List Byte

/-- R301: the device-defined control section of a husk, by block (log 14). -/
opaque huskControl : Nat → List Byte

end Sys2Proof.Config
end

