-- ==== Sys2Proof/Machine/SMap.lean ====
section
/-! DEFINITION. Sparse maps as plain data: a list of (key, value) pairs with strictly rising keys. A map with a
default value lists no entry equal to that default, so that equal maps are equal lists. -/

set_option Elab.async false

namespace Sys2Proof.Machine

/-- A sparse map by natural key. -/
abbrev SMap (α : Type) := List (Nat × α)

/-- The entry of a key, if listed. -/
def lfind {α : Type} (k : Nat) : SMap α → Option α
  | [] => none
  | (j, v) :: t => if j = k then some v else lfind k t

/-- The value at a key, or the default. -/
def lget {α : Type} (d : α) (k : Nat) (m : SMap α) : α := (lfind k m).getD d

/-- Lists a value under a key, in key order, in place of an earlier one. -/
def lput {α : Type} (k : Nat) (v : α) : SMap α → SMap α
  | [] => [(k, v)]
  | (j, u) :: t => if k < j then (k, v) :: (j, u) :: t else if k = j then (k, v) :: t else (j, u) :: lput k v t

/-- Removes a key. -/
def ldel {α : Type} (k : Nat) (m : SMap α) : SMap α := m.filter fun e => e.1 != k

/-- Sets a value, removing the entry where the value is the default. -/
def lset {α : Type} [BEq α] (d : α) (k : Nat) (v : α) (m : SMap α) : SMap α :=
  if v == d then ldel k m else lput k v m

/-- Changes a listed entry; an absent key stays absent. -/
def lmod {α : Type} (k : Nat) (f : α → α) : SMap α → SMap α
  | [] => []
  | (j, v) :: t => if j = k then (j, f v) :: t else (j, v) :: lmod k f t

/-- Changes every entry. -/
def lmap {α β : Type} (f : Nat → α → β) (m : SMap α) : SMap β := m.map fun e => (e.1, f e.1 e.2)

/-- The keys strictly rise. -/
def keysRise {α : Type} : SMap α → Bool
  | [] => true
  | [_] => true
  | (i, _) :: (j, v) :: t => decide (i < j) && keysRise ((j, v) :: t)

/-- The lanes of a set, ascending. -/
def lanesOf (m : Word) : List Nat := (List.range 32).filter fun l => m.getLsbD l

/-- The set of a list of lanes. -/
def laneSet (ls : List Nat) : Word := ls.foldl (fun m l => m ||| BitVec.ofNat 32 (1 <<< l)) 0

/-- The number of lanes in a set. -/
def laneCount (m : Word) : Nat := (lanesOf m).length

/-- The lowest lane of a set. -/
def lowestLane (m : Word) : Nat := (lanesOf m).headD 0

/-- Inserts by a key, after entries of an equal key. -/
def insertBy {α : Type} (f : α → Nat) (x : α) : List α → List α
  | [] => [x]
  | y :: t => if f x < f y then x :: y :: t else y :: insertBy f x t

/-- Sorts by a key, keeping the order of equal keys. -/
def sortBy {α : Type} (f : α → Nat) (l : List α) : List α := l.foldl (fun r x => insertBy f x r) []

end Sys2Proof.Machine
end

