-- ==== Sys2Proof/Machine/State.lean ====
section
/-! DEFINITION. The state of the device: everything the spec gives the machine, as plain data, and its value right
after reset. Sparse maps list no entry equal to their default. -/

set_option Elab.async false

namespace Sys2Proof.Machine

/-- Why the model stops. -/
inductive Fault where
  /-- Raised by the meaning of a coded instruction when no bundle issues it (State.iss is not live): an instruction
  word has no effect outside a warp. Safe: no run of `step` reaches it. -/
  | noBundle
  deriving DecidableEq, Repr

/-- Why the model refuses. -/
inductive Refusal where
  /-- Raised by an arm of exec whose instruction has no meaning yet. Safe. -/
  | notModelled (mnemonic : String)
  deriving DecidableEq, Repr

/-- The answer of a step. -/
abbrev Out (σ : Type) := Host.Outcome σ Fault Refusal

/-- Memory: one canonical list of bytes. Local physical addresses stand for themselves; host memory lies from 2^64,
and the memory of peer p from 2^65 + p * 2^52 (R164, R178). An unlisted byte reads as zero (logs 7 and 8). -/
abbrev Memory := List Host.Cell

/-- Why a lane that has not exited issues nothing (R36). -/
inductive Hold where
  | none
  | mwait (m : Nat)
  | bar (b : Nat)
  | pbar (b : Nat)
  | waitc (c n : Nat)
  | rgwait (slot : Nat) (phase : Bool)
  /-- awaits the page of a fetch: the fault (R171, R511) -/
  | fetch (key : Nat)
  /-- a lane whose load or atomic awaits a page mapping: the operation (R36, R171) -/
  | load (op : Nat)
  /-- an Assured lead whose action awaits its twin (R246) -/
  | compare
  deriving DecidableEq, Repr

/-- One launched lane of a warp (R26, R35, R36, R37, R38). -/
structure Lane where
  pc : Word := 0
  /-- the clause that the counter stands inside: header offset and header word; none where the counter names a header -/
  clause : Option (Word × Word) := .none
  hold : Hold := .none
  /-- bytes of the instruction that holds the lane: 8 with a prefix -/
  len : Nat := 4
  exited : Bool := false
  helper : Bool := false
  skip : Nat := 0
  /-- cycles in which the lane is still not ready (R38) -/
  bubble : Nat := 0
  /-- the bundle that ended a clause and whose first free cycle is not seen yet (R38); 0 for none -/
  watch : Nat := 0
  /-- the release group that R45 issues whole; 0 for none -/
  group : Nat := 0
  /-- a trap return has put the lane back inside a clause: it fetches the rest of the clause when it next issues (R511) -/
  refetch : Bool := false
  /-- the lane could have issued in the last cycle and did not: what it stands at may have been held (R148, R150) -/
  stood : Bool := false
  deriving DecidableEq, Repr

/-- A pending mark of R59 that a short instruction's result carries until its latency has passed (R38, R66): kind 0 w, 1 q,
2 p, 3 e; first register and count; the lanes; the first clock at which a dependent instruction may issue. -/
structure Mark where
  kind : Nat
  reg : Nat
  n : Nat
  lanes : Word
  till : Nat
  deriving DecidableEq, Repr

/-- The registers of a warp that a twin has a copy of (R30, R32, R43, R244, R462), with their pending marks (R59). -/
structure Regs where
  /-- w register r of lane l, under 32 * r + l -/
  w : SMap Word := []
  /-- p register r of lane l, under 32 * r + l -/
  p : SMap Bool := []
  /-- e register r of lane l -/
  e : SMap Word := []
  q : SMap Word := []
  /-- entry i of permutation slot s, under 64 * s + i; an unlisted entry holds i (R391) -/
  perm : SMap Nat := []
  /-- the random generator of each lane (R480) -/
  rng : SMap (BitVec 64) := []
  /-- sr.link of each lane -/
  link : SMap Word := []
  /-- masks m0 to m11 -/
  masks : SMap Word := []
  marks : List Mark := []
  /-- failing words: kind 0 w, 1 q, 2 p, 3 e; register; lane (R238). They hold zero -/
  bad : List (Nat × Nat × Nat) := []
  deriving DecidableEq, Repr

/-- The access of one lane (R158, R180): its bytes lie in one sector. -/
structure Acc where
  lane : Nat
  /-- the offset that sr.taddr reports for check 2 of R159 -/
  off : Nat
  va : Nat
  size : Nat
  /-- the memory key (see Memory) once translated -/
  pa : Option Nat := none
  data : List Byte := []
  done : Bool := false
  /-- the fault that the access waits for; 0 for none -/
  wait : Nat := 0
  /-- revisioned page number + 1, or 0 for an ordinary page -/
  vpn : Nat := 0
  /-- its first byte in the lane's datum: 8 in the upper half of a 16-byte access to host or peer memory, which is two
  accesses (R181) -/
  part : Nat := 0
  deriving DecidableEq, Repr

/-- The operations of ATOM and RED (R374, R482). -/
inductive Rmw where
  | add | min | minu | max | maxu | and | or | xor | exch | cas | incw | addb | ladd
  deriving DecidableEq, Repr

/-- A load or atomic whose data is outstanding (R60, R171). -/
structure LoadOp where
  id : Nat
  /-- first destination register; a q register where `uniform` -/
  dst : Nat
  nreg : Nat
  width : Nat
  uniform : Bool := false
  lanes : Word
  accs : List Acc
  seg : Nat
  rmw : Option Rmw := none
  /-- the second operand of cas, by lane -/
  cmp : SMap Nat := []
  acquire : Bool := false
  release : Bool := false
  scope : Nat := 0
  noAlloc : Bool := false
  /-- the access's width in bytes -/
  size : Nat := 4
  /-- zero extension of a narrow load, or sign extension (R437) -/
  signed : Bool := false
  /-- clock of its issue (R179) -/
  clk : Nat := 0
  /-- zeros came from an unreachable peer (R179) -/
  unreach : Bool := false
  /-- a consumed uncorrectable error is already counted (R254) -/
  counted : Bool := false
  /-- registers of lead and twin take the data (R245) -/
  both : Bool := false
  /-- the compare-buffer entry that the operation awaits before it is performed (R246); 0 for none -/
  await : Nat := 0
  /-- the operation has exposed its block's interval, and its warp owes trap 0x0C: the lane + 1 (R252) -/
  exposed : Nat := 0
  /-- the compare-buffer entry whose load-value queue entries the data fill (R245); 0 for none -/
  feeds : Nat := 0
  deriving DecidableEq, Repr

/-- Whose registers the issuing bundle reads and writes (R244). -/
inductive Side where
  | lead | twin | both
  deriving DecidableEq, Repr

/-- The bundle that issues (R37), model's own field (log 3). -/
structure Iss where
  live : Bool := false
  core : Nat := 0
  bid : Nat := 0
  wk : Nat := 0
  lanes : Word := 0
  /-- offset of the instruction, or of its prefix -/
  pc : Word := 0
  /-- offset of the following word -/
  next : Word := 4
  /-- offset of the header that follows the clause -/
  hnext : Word := 4
  hoff : Word := 0
  hdr : Word := 0
  last : Bool := false
  /-- the prefix word -/
  pfx : Word := 0
  hasPfx : Bool := false
  side : Side := .lead
  /-- the compare-buffer entry of the action, or 0 (R246) -/
  cmp : Nat := 0
  /-- a twin's bundle: the lanes that had not exited when its lead issued (R244, R462) -/
  alive : Option Word := none
  /-- set by a meaning that is held at issue: nothing has been done (R36) -/
  held : Bool := false
  /-- the held instruction has sent a fault record or a fork request, which stays (R268, R509) -/
  keep : Bool := false
  deriving DecidableEq, Repr

/-- What a compare-buffer entry holds back (R246): nothing but a comparison (a read that the lead has made); accesses in
flight that carry the entry's number; the writes of an STL; the whole instruction, whose lanes are held. -/
inductive CmpKind where
  | read | flight | stl | held
  deriving DecidableEq, Repr

/-- An entry of the compare buffer (R246), with the values that the lead's read puts into the load-value queue (R245). -/
structure Cmp where
  id : Nat
  iss : Iss
  instr : Instr
  kind : CmpKind
  /-- the lead's active lanes and operands -/
  act : Word
  ops : List Word
  /-- the twin's, once its matching action has arrived -/
  twin : Option (Word × List Word) := none
  /-- entries of the load-value queue: destination registers across the warp -/
  nreg : Nat := 0
  /-- the values, once read: kind of register, key, value -/
  vals : Option (List (Nat × Nat × Word)) := none
  /-- STL: store, address, bytes -/
  puts : List (Nat × Nat × List Byte) := []
  /-- a held instruction: the two agree, and the lead may issue it -/
  agreed : Bool := false
  /-- an uncorrectable error struck the queue entry (R238) -/
  bad : Bool := false
  deriving DecidableEq, Repr

/-- An entry of the trace that a twin follows (R244): the issued bundle, its instruction where one was decoded, and
whether it entered a trap handler. -/
structure TraceEnt where
  iss : Iss
  instr : Option Instr
  trap : Bool := false
  deriving DecidableEq, Repr

/-- One warp. -/
structure Warp where
  bid : Nat
  num : Nat
  role : Nat
  quarter : Nat
  r : Regs := {}
  /-- the twin's registers (R244) -/
  tw : Regs := {}
  lanes : SMap Lane := []
  cnt : SMap Nat := []
  /-- the counters at the end of the last cycle, which waits and full counters see (R52) -/
  cntSeen : SMap Nat := []
  /-- error bits of the counters, with the trap's cause and address (R54) -/
  cerr : SMap (Nat × Nat) := []
  tcause : Word := 0
  tpc : Word := 0
  taddr : Word := 0
  taddrhi : Word := 0
  mnan : BitVec 64 := 0
  inHandler : Bool := false
  /-- lanes of the trapping bundle that have neither executed TRET nor exited (R304, R502) -/
  trapLanes : Word := 0
  /-- the clause that the trapping bundle stood in, for a return into it (R511) -/
  trapClause : Option (Word × Word) := none
  /-- offsets of the instruction words of prefixed pairs in that clause (R340) -/
  trapPairs : List Nat := []
  /-- deferred asynchronous causes with the address of their first occurrence (R305) -/
  deferred : SMap Nat := []
  /-- asynchronous causes to be taken before the next issue: cause, address (R175, R179, R195, R252) -/
  async : SMap Nat := []
  /-- precise traps of lanes held by a load or a fetch whose page the host refused, not yet taken: lanes, cause,
  address (R175) -/
  owed : List (Word × Nat × Nat) := []
  loads : List LoadOp := []
  /-- the release store count, in sectors (R192) -/
  rsc : Nat := 0
  /-- an acquire that has not completed (R193) -/
  acquiring : Bool := false
  idle : Nat := 0
  pass : Nat := 0
  yielded : Bool := false
  /-- the twin's pass count and YIELD (R39, R244) -/
  twPass : Nat := 0
  twYielded : Bool := false
  /-- bundles that the lead has issued and the twin has not (R244) -/
  trace : List TraceEnt := []
  /-- the warp's entries of its quarter's compare buffer and load-value queue (R245, R246) -/
  cmps : List Cmp := []
  /-- flags that operations of the warp have raised in this cycle by completing (R110) -/
  raised : Word := 0
  issuedThisCycle : Bool := false
  /-- the fetched words of clauses, by offset (R511, R200) -/
  fetched : SMap Word := []
  /-- counters that a TJOIN's completion has lowered and no wait has observed since (R203, R275) -/
  joined : List Nat := []
  /-- releases are numbered for R45 -/
  groups : Nat := 0
  /-- counters whose next decrement is that of an operation without active lanes, with the cycle at whose end it
  happens (R53) -/
  drops : List (Nat × Nat) := []
  /-- the warp has stopped for pre-emption (R298), `forced` without reaching its points -/
  stopped : Bool := false
  forced : Bool := false
  deriving DecidableEq, Repr

/-- A tile-table entry (R146). -/
structure Tile where
  w0 : Word := 0
  w1 : Word := 0
  satcnt : Nat := 0
  nan : Bool := false
  err : Bool := false
  /-- 0 empty, 1 filling, 2 ready, 3 draining -/
  state : Nat := 0
  rdcnt : Nat := 0
  deriving DecidableEq, Repr

/-- A barrier of a block, or the part of a pod barrier that one block holds (R382, R383, R471). -/
structure Barrier where
  /-- warps that have left the participating set by BARDROP -/
  dropped : Word := 0
  arrived : Word := 0
  /-- resident cycles since the first arrival (R307) -/
  timer : Nat := 0
  /-- the first warp to arrive (R309) -/
  first : Option Nat := none
  deriving DecidableEq, Repr

/-- A release stamp (R194). -/
structure Stamp where
  scope : Nat
  dev : Nat
  warp : Nat
  block : Nat
  pod : Nat
  deriving DecidableEq, Repr

/-- A write of a copy to bytes of one sector, staged until the interval commits (R250): the issuing warp, the scope, the
memory key of each byte with its value, and poison. -/
structure Staged where
  op : Nat
  wk : Nat
  scope : Nat
  bytes : List (Nat × Byte)
  poison : Bool := false
  /-- revisioned page number + 1, or 0 for an ordinary page -/
  vpn : Nat := 0
  deriving DecidableEq, Repr

/-- A launch packet (R288). -/
structure Packet where
  irq : Bool := false
  late : Nat := 0
  cls : Nat := 0
  nsig : Nat := 0
  pod : Nat := 1
  version : Nat := 1
  x : Nat := 1
  y : Nat := 1
  z : Nat := 1
  tiles : Nat := 0
  qunits : Nat := 0
  wunits : Nat := 0
  lanes : Nat := 1
  /-- copy, matrix, vector, general -/
  roles : List Nat := [0, 0, 0, 0]
  alloc : List Nat := [0, 0, 0, 0, 0]
  object : Nat := 0
  entry : Nat := 0
  handler : Nat := 0xFFFFFFFF
  graph : Nat := 0xFFFFFFFF
  segtab : Nat := 0
  deadline : Nat := 0
  waits : List (Nat × Nat) := []
  signal : Nat := 0
  record : Nat := 0
  args : List Word := []
  bartime : Nat := 0
  hangtime : Nat := 0
  /-- a reserved field is not zero, or an entry at or above nsig is not zero -/
  bad : Bool := false
  deriving DecidableEq, Repr

/-- A segment register (R157). -/
structure Seg where
  limit : Nat := 0
  base : Nat := 0
  valid : Bool := false
  sys : Bool := false
  cls : Nat := 0
  x : Bool := false
  w : Bool := false
  r : Bool := false
  deriving DecidableEq, Repr

/-- What the device has read of a grid's code object (R312, R315). -/
structure Obj where
  base : Nat := 0
  text : Nat := 0
  textLen : Nat := 0
  points : Nat := 0
  npoints : Nat := 0
  graphs : Nat := 0
  ngraphs : Nat := 0
  deriving DecidableEq, Repr

/-- A grid (task) that has been selected for dispatch. -/
structure Grid where
  gid : Nat
  ctx : Nat
  pkt : Packet
  /-- queue and packet index; the parent's queue for a forked packet -/
  queue : Nat
  idx : Nat
  /-- fork slot of a forked task (R269); 0 for a task of a queue -/
  fork : Nat := 0
  depth : Nat := 0
  deadline : Nat := 0
  obj : Obj := {}
  segs : List Seg := []
  /-- order of dispatch, for victims (R296) -/
  order : Nat := 0
  /-- pods placed so far, in the order of R295 -/
  placed : Nat := 0
  /-- blocks not yet finished -/
  left : Nat := 0
  /-- blocks that have been triggered (R202) -/
  triggers : Nat := 0
  /-- all blocks have exited; implicit joins or completion remain (R282) -/
  done : Bool := false
  /-- the grid has ended with its context; its completion with this status waits for a page (R310, R509) -/
  final : Option Nat := none
  deriving DecidableEq, Repr

/-- A launch queue (R286, R325). -/
structure Queue where
  base : Nat := 0
  control : BitVec 64 := 0
  wridx : Nat := 0
  rdidx : Nat := 0
  /-- stopped by a late report (R294) -/
  reported : Bool := false
  /-- LATEACT's answer for the head: 0 run, 1 drop (R294) -/
  act : Option Nat := none
  /-- the head has been selected (R294): its grid stands in State.grids -/
  sel : Bool := false
  /-- (write index, arrival time) of each advance (R287) -/
  arrivals : List (Nat × Nat) := []
  /-- the wait words of the head were satisfied when last read (R290) -/
  ready : Bool := false
  /-- the head is dismissed with this status and reason, and only its completion awaits a page (R292, R509) -/
  verdict : Option (Nat × Nat) := none
  deriving DecidableEq, Repr

/-- A record that waits inside the device for room in its queue (R326). -/
abbrev Rec := BitVec 128

/-- A context (R326). -/
structure Ctx where
  ptroot : Nat := 0
  tensbase : Nat := 0
  tenscount : Nat := 0
  regbase : Nat := 0
  regcount : Nat := 0
  objbase : Nat := 0
  objcount : Nat := 0
  savebase : Nat := 0
  savesize : Nat := 0
  diagbase : Nat := 0
  diagsize : Nat := 0
  fqbase : Nat := 0
  fqsize : Nat := 0
  fqrd : Nat := 0
  fqwr : Nat := 0
  eqbase : Nat := 0
  eqsize : Nat := 0
  eqrd : Nat := 0
  eqwr : Nat := 0
  stackBase : SMap Nat := []
  stackCount : SMap Nat := []
  vectors : BitVec 64 := 0
  fheld : List Rec := []
  eheld : List Rec := []
  fseq : Nat := 0
  eseq : Nat := 0
  suspend : Bool := false
  failed : Bool := false
  /-- stopped by exhaustion of the budget (R256) -/
  exhausted : Bool := false
  tlbinv : Bool := false
  /-- the root revision has had a fork point (R267) -/
  rootForked : Bool := false
  ebud : Nat := 0xFFFFFFFF
  uecnt : Nat := 0
  rbcnt : Nat := 0
  pucnt : Nat := 0
  kcnt : Nat := 0
  hintshort : Nat := 0
  deriving DecidableEq, Repr

/-- A channel's counters and scrubber (R257, R258, R260). -/
structure Chan where
  cecnt : Nat := 0
  ucnt : Nat := 0
  repcnt : Nat := 0
  abncnt : Nat := 0
  passcnt : Nat := 0
  period : Nat := 86400
  window : Nat := 3600
  row : Nat := 0
  /-- the time, in nanoseconds, at which the next row is due -/
  due : Nat := 0
  /-- oldest first; the flag marks entries that still count towards a lasting row -/
  hist : List (BitVec 64 × Bool) := []
  deriving DecidableEq, Repr

/-- A physical partition (R239): state 0 offline, 1 formatting, 2 online. -/
structure Part where
  cls : Nat := 0
  state : Nat := 0
  formatted : Bool := false
  deriving DecidableEq, Repr

/-- A sector that the second-level cache holds (R160, R194, R204, R237). -/
structure L2Sec where
  dirty : Bool := false
  stamp : Option Stamp := none
  /-- the 32 bytes of the sector -/
  data : List Byte := []
  poison : Bool := false
  /-- the context whose write made the sector dirty, for R255 -/
  ctx : Nat := 0
  deriving DecidableEq, Repr

/-- A translation (R164 to R167): `pa` is the memory key of its first byte, and `size` the number of its address bits
below the page number: 12, 16, 21, 30 or 33. -/
structure Trans where
  pa : Nat
  size : Nat := 12
  r : Bool
  w : Bool
  x : Bool
  dirty : Bool
  rev : Bool
  /-- the revision page belongs to the accessing revision (R267) -/
  own : Bool
  /-- address of the leaf entry -/
  pte : Nat
  deriving DecidableEq, Repr

/-- A write in flight to one sector (R181, R192). -/
structure StoreOp where
  id : Nat
  wk : Nat
  bid : Nat
  core : Nat
  ctx : Nat
  rev : Nat
  /-- revisioned page number + 1, or 0 for an ordinary page; held while a join merges it (R281) -/
  vpn : Nat := 0
  accs : List Acc
  rmw : Option Rmw := none
  size : Nat := 4
  release : Bool := false
  scope : Nat := 0
  /-- program order among the warp's accesses -/
  seq : Nat := 0
  /-- the instruction it belongs to -/
  ins : Nat := 0
  /-- clock of its issue (R179) -/
  clk : Nat := 0
  /-- a consumed uncorrectable error of the instruction is already counted (R254) -/
  counted : Bool := false
  /-- a completion at an unreachable peer of the instruction is already counted (R179) -/
  unreach : Bool := false
  /-- a write-back of CCTL.wb (R399): no data -/
  wb : Bool := false
  /-- the compare-buffer entry that the write awaits (R246); 0 for none -/
  await : Nat := 0
  /-- the instruction has exposed its block's interval, and its warp owes trap 0x0C: the lane + 1 (R252) -/
  exposed : Nat := 0
  deriving DecidableEq, Repr

/-- An entry of a core's side log (R173). -/
structure SideEntry where
  id : Nat
  wk : Nat
  bid : Nat
  core : Nat
  ctx : Nat
  rev : Nat
  vpn : Nat
  accs : List Acc
  rmw : Option Rmw := none
  size : Nat := 4
  release : Bool := false
  scope : Nat := 0
  seg : Seg := {}
  sectors : Nat := 0
  /-- the instruction it belongs to -/
  ins : Nat := 0
  /-- the fault that the entry waits for, or 0 when its page is mapped -/
  waits : Nat := 0
  /-- the compare-buffer entry that the writes await (R246); 0 for none -/
  await : Nat := 0
  deriving DecidableEq, Repr

/-- A fault that waits for its answer (R170, R171, R172, R272). Kind 8 is a light fault, 9 a copy-on-write step and
10 a revision-space step, for which no fault record goes to the host. -/
structure FaultRec where
  key : Nat
  ctx : Nat
  rev : Nat
  vpn : Nat
  kind : Nat
  seq : Nat := 0
  core : Nat := 255
  level : Nat := 0
  /-- the clock at which it arose -/
  clk : Nat := 0
  /-- revision-space class, for kind 10 -/
  cls : Nat := 0
  /-- a read or write of the device's own waits for it (R509) -/
  own : Bool := false
  /-- such a fault was answered unresolvable (R509) -/
  dead : Bool := false
  /-- the task of a revision-space step has been swapped out (R272) -/
  out : Bool := false
  deriving DecidableEq, Repr

/-- A range that an engine operation holds locked (R127, R151, R199): space 0 to 4 the local stores, 5 the context's
virtual addresses. -/
structure Lock where
  core : Nat
  bid : Nat
  op : Nat
  space : Nat
  lo : Nat
  hi : Nat
  write : Bool
  deriving DecidableEq, Repr

/-- A tensor descriptor (R154). -/
structure Tensor where
  gen : Nat := 0
  rank : Nat := 1
  fmt : Nat := 0
  path : Nat := 0
  cls : Nat := 0
  scale : Nat := 0
  base : Nat := 0
  dims : List Nat := [1, 1, 1, 1, 1]
  strs : List Nat := [0, 0, 0, 0, 0]
  deriving DecidableEq, Repr

/-- A Huller token (R220). The end of a copy's stream is marked on its beat. -/
structure Token where
  data : BitVec 64 := 0
  bits : Nat
  poison : Bool := false
  deriving DecidableEq, Repr

/-- An entry of a cell's input queue: up to 32 tokens of one copy, and whether its stream ends with them (R220). -/
structure Beat where
  toks : List Token := []
  fin : Bool := false
  deriving DecidableEq, Repr

/-- An element of a stream: its code, and whether it is poisoned. -/
abbrev Elem := Nat × Bool

/-- The state of one operator for one copy (R222). -/
structure OpState where
  /-- tokens taken and not yet used, by input -/
  t0 : List Token := []
  t1 : List Token := []
  /-- elements taken and not yet used, by input -/
  e0 : List Elem := []
  e1 : List Elem := []
  /-- elements formed and not yet packed into tokens, by output -/
  o0 : List Elem := []
  o1 : List Elem := []
  /-- tokens formed and not yet passed on, by output -/
  q0 : List Token := []
  q1 : List Token := []
  cnt : Nat := 0
  acc : Nat := 0
  pois : Bool := false
  turn : Bool := false
  /-- the input has ended -/
  done0 : Bool := false
  done1 : Bool := false
  /-- the output is complete, and its end has been passed on -/
  fin : Bool := false
  sent : Bool := false
  deriving DecidableEq, Repr

/-- The kinds of copy-queue operations (R207). -/
inductive CopyKind where
  | cpyin | cpyout | cpyx | cpyp | hbind
  deriving DecidableEq, Repr

/-- An operation of a copy queue. -/
structure CopyOp where
  id : Nat
  kind : CopyKind
  bid : Nat
  wk : Nat
  core : Nat
  queue : Nat
  /-- counter of the issuing warp -/
  cnt : Nat
  /-- offset of the instruction, or of its prefix (R407) -/
  pc : Word := 0
  desc : List Word := []
  src : Tensor := {}
  dst : Tensor := {}
  scaleT : Option Tensor := none
  /-- HBIND: the graph index; none for HBIND.none -/
  graph : Option Nat := none
  /-- a binding that the device makes for the block before its warps issue, by no instruction (R219, R248, R289) -/
  auto : Bool := false
  /-- blocks whose tiles the copy writes -/
  members : List Nat := []
  started : Bool := false
  /-- fabric context of a bound copy -/
  fab : Option Nat := none
  /-- source elements that the reader has taken, and whether it has passed the stream's end on (R220) -/
  pos : Nat := 0
  /-- a Kasko stream: where the block ends that the reader is in (R506) -/
  ahead : Nat := 0
  fed : Bool := false
  /-- the copy's entries in cell input queues, by endpoint (R226) -/
  inq : SMap (List Beat) := []
  ops : SMap OpState := []
  /-- tokens that the exit has taken, and whether their stream has ended -/
  out : List Token := []
  outDone : Bool := false
  /-- ENTD lost the framing: the exit fills the rest with poison (R231) -/
  lost : Bool := false
  sat : Nat := 0
  fl : Nat := 0
  /-- error status, address and Huller status word -/
  err : Option (Nat × Nat × Word) := none
  /-- the fault that the operation waits for, or 0, with the address of the access -/
  wait : Nat := 0
  waitVa : Nat := 0
  /-- the lane whose generator SR draws from (R217) -/
  rngLane : Nat := 0
  /-- an access met an unreachable peer, which is charged once at completion (R179) -/
  gone : Bool := false
  /-- bytes of the copy's data that an upset has struck on their way, by their place in it (R247) -/
  struck : SMap Byte := []
  deriving DecidableEq, Repr

/-- A block. -/
structure Block where
  gid : Nat
  ctx : Nat
  core : Nat
  slot : Nat := 0
  x : Nat := 0
  y : Nat := 0
  z : Nat := 0
  pod : Nat := 0
  /-- pod tag, unique among unfinished pods; 0xFFFFF where P = 1 (R194) -/
  podTag : Nat := 0xFFFFF
  /-- dispatch order, for ages and snapshots (R39, R327) -/
  order : Nat := 0
  /-- order of placement on a core, by dispatch or restoration (R296) -/
  placed : Nat := 0
  nwarps : Nat := 1
  /-- keys of the warps, by warp number -/
  wks : List Nat := []
  wregs : Nat := 8
  qregs : Nat := 8
  tilesN : Nat := 0
  cls : Nat := 0
  /-- allocations of sb, ab, wb, cb, sm in bytes (R137) -/
  alloc : List Nat := [0, 0, 0, 0, 0]
  /-- local stores: byte a of store s under s * 2^20 + a -/
  ls : SMap Byte := []
  /-- failing words of the local stores, by the key of their first byte divided by 4 (R238) -/
  bad : SMap Bool := []
  tiles : SMap Tile := []
  /-- the tiles at the end of the last cycle, which an instruction that was held checks (R148, R150) -/
  tilesSeen : SMap Tile := []
  latch : SMap Nat := []
  tA : Word := 0
  tB : Word := 0
  rings : SMap Bool := []
  /-- the phases that the twins of an Assured block keep (R487) -/
  twRings : SMap Bool := []
  /-- the phases at the end of the last cycle (R57) -/
  ringsSeen : SMap Bool := []
  bars : SMap Barrier := []
  pbars : SMap Barrier := []
  flags : Word := 0
  /-- flags raised in this cycle; sr.flags holds them from the next one on (R110) -/
  flagsNow : Word := 0
  trapen : Word := 0
  hstat : Word := 0
  /-- the word that the Huller reports in this cycle, which stands after the cycle's reads and clears (R413) -/
  hstatNew : Option Word := none
  /-- the bound graph's index in the grid's object (R218) -/
  bind : Option Nat := none
  triggered : Bool := false
  /-- uncommitted global bytes of an Assured interval, by memory key (R204) -/
  uncommitted : SMap Byte := []
  /-- uncommitted sectors in the order of their first write (R250) -/
  order1 : List Nat := []
  /-- the stamps that the uncommitted sectors take at their commit; unlisted: the sector keeps its own (R194) -/
  uStamp : SMap (Option Stamp) := []
  /-- uncommitted sectors of revisioned pages: page number + 1 (R267, R270) -/
  uVpn : SMap Nat := []
  /-- staged global writes of copies, in issue order (R250) -/
  staged : List Staged := []
  /-- journal units of the interval with their old contents, 32 words each (R249) -/
  journal : SMap (List Word) := []
  /-- journal units that an uncorrectable error has struck (R238) -/
  badLog : List Nat := []
  /-- an uncorrectable error in an entry of the block's tile table, in its range locks or in its control state, not yet
  read (R238): 64 + entry for a tile, 1 the range locks, 0 the control state -/
  badCtl : List Nat := []
  /-- failing words of uncommitted lines, by their memory key divided by 8 (R238) -/
  badLines : List Nat := []
  /-- HBINDs that a save has returned to issue: each issues again before its warp issues anything else (R219) -/
  returned : List CopyOp := []
  exposed : Bool := false
  tries : Nat := 0
  /-- a stop was decided at this clock (R298) -/
  stopAt : Option Nat := none
  /-- the stop is for CODEMOVE: the warps stay resident (R317) -/
  moveStop : Bool := false
  stopped : Bool := false
  deriving DecidableEq, Repr

/-- A cell of a graph image (R225). -/
structure Cell where
  op : Nat
  fin : Nat
  fout : Nat
  rnd : Nat
  sat : Bool
  k : Nat
  p : Nat
  deriving DecidableEq, Repr

/-- A graph image as a fabric context holds it (R224). -/
structure Graph where
  cells : SMap Cell := []
  ports : Nat := 0
  /-- from, to -/
  routes : List (Nat × Nat) := []
  deriving DecidableEq, Repr

/-- A fabric context of a Huller (R218): free when no block is attached. -/
structure Fab where
  ctx : Nat := 0
  object : Nat := 0
  graph : Nat := 0
  image : Graph := {}
  blocks : List Nat := []
  deriving DecidableEq, Repr

/-- The kinds of matrix operations (R126). -/
inductive MatKind where
  | midx | mclr | mloop
  deriving DecidableEq, Repr

/-- How far a member of a loop has come when a save interrupts it (R134), with what it has gathered so far. -/
structure MatProg where
  /-- the C block, in the order of R124, and the step within it -/
  blk : Nat := 0
  step : Nat := 0
  fl : Nat := 0
  /-- the C tile's saturation count -/
  count : Nat := 0
  nan : Bool := false
  /-- a word of an operand has failed (R128) -/
  ue : Bool := false
  /-- the two results of a C block have differed (R247) -/
  diff : Bool := false
  /-- row and column in the C tile, and step, of the NaN that stopped the member (R130) -/
  stop : Option (Nat × Nat × Nat) := none
  deriving DecidableEq, Repr

/-- An operation of a core's matrix queue (R120, R126). -/
structure MatOp where
  id : Nat
  kind : MatKind
  bid : Nat
  wk : Nat
  core : Nat
  cnt : Nat
  /-- offset of the instruction, or of its prefix (R407) -/
  pc : Word := 0
  /-- MIDX: sb offset, count; MCLR: tile -/
  a : Nat := 0
  b : Nat := 0
  desc : List Word := []
  tA : Word := 0
  tB : Word := 0
  members : List Nat := []
  started : Bool := false
  /-- members whose loop a save has interrupted, by block key (R134) -/
  prog : SMap MatProg := []
  /-- bytes of the unit's results that an upset has struck, under (member * 32 + C block) * 4096 + byte (R247) -/
  struck : SMap Byte := []
  deriving DecidableEq, Repr

/-- An effective page of a revision (R267). -/
structure RevPage where
  pa : Nat
  own : Bool
  deriving DecidableEq, Repr

/-- A region-table entry (R263). -/
structure Region where
  type : Nat
  width : Nat
  cls : Nat
  pages : Nat
  vpn : Nat
  deriving DecidableEq, Repr

/-- A fork slot (R269): state 0 free, 1 the child has not completed, 2 completed, 3 its join is merging. -/
structure Fork where
  gen : Nat := 0
  state : Nat := 0
  ctx : Nat := 0
  /-- task number of the parent and of the child (0 where the child did not run) -/
  parent : Nat := 0
  child : Nat := 0
  parentRev : Nat := 0
  depth : Nat := 0
  /-- order of fork points -/
  order : Nat := 0
  regions : List Region := []
  /-- the parent's view of each revisioned page at the fork point, under vpn; unlisted: the page-table page -/
  anc : SMap Nat := []
  /-- pages that the parent's revision has copied, or had merged, since the fork point -/
  parentCopied : List Nat := []
  record : Nat := 0
  /-- outcome of the child: 0 ran, 1 dropped, 2 rejected -/
  status : Nat := 0
  /-- claimed: warp key, counter, block; the implicit join claims with counter 12 -/
  claim : Option (Nat × Nat × Nat) := none
  /-- order of acceptance among joins (R279) -/
  claimOrder : Nat := 0
  /-- the child's packet while it awaits its selection, with its arrival time and the queue of the parent's packet
  (R268, R293) -/
  pending : Option Packet := none
  arrival : Nat := 0
  queue : Nat := 0
  /-- its wait words were satisfied when last read (R290) -/
  ready : Bool := false
  /-- the packet is dismissed with this status and reason, and only its completion awaits a page (R292, R509) -/
  verdict : Option (Nat × Nat) := none
  deriving DecidableEq, Repr

/-- A TFORK that has reached the revision engine and awaits its fork point (R268, R270). -/
structure ForkReq where
  wk : Nat
  pc : Word
  packet : Nat
  record : Nat
  order : Nat
  /-- the fork point has been performed and gave this handle; the instruction may issue -/
  done : Option Word := none
  /-- refused: cause, address -/
  refuse : Option (Nat × Nat) := none
  /-- the lane + 1 whose request has exposed its block's interval, for the trap that follows the instruction (R252) -/
  exposed : Nat := 0
  deriving DecidableEq, Repr

/-- Pins, rails and bring-up (R24, R329, R331, R332): step 0 firmware, 1 link, 2 memory, 3 ready; `perst` is the level
of PERSTN. -/
structure Power where
  supply : Bool := true
  rails : Bool := true
  thermal : Bool := false
  perst : Bool := true
  step : Nat := 0
  recovery : Bool := false
  trained : Bool := false
  fuse : Bool := false
  stepping : Nat := 0
  secver : Nat := 0
  rollback : Nat := 0
  fwbody : Nat := 0
  fwversion : Nat := 0
  limit : Nat := 400
  /-- issue is withheld to limit power (R23), and what this cycle withholds: 0 nothing, 1 the matrix units, 2 the matrix
  units and vector issue -/
  limited : Bool := false
  withheld : Nat := 0
  /-- the level of ALERTN, which is active low: no rule says when it is driven (R331; log 45) -/
  alertn : Bool := true
  deriving DecidableEq, Repr

/-- Global registers and the mailbox (R324, R328). -/
structure Regwin where
  dirtytab : Nat := 0
  trackmap : Nat := 0
  l2wb : Bool := false
  errvec : BitVec 64 := 0
  winbase : Nat := 0
  /-- the memory window's size is 2^winsize GiB, 0 to 8 (R323; log 45) -/
  winsize : Nat := 8
  mboxCmd : BitVec 64 := 0
  mboxArgs : SMap (BitVec 64) := []
  mboxStatus : BitVec 64 := 0
  mboxRes : SMap (BitVec 64) := []
  /-- a running command: code, arguments -/
  running : Option (Nat × List Nat) := none
  /-- the words of the MSI-X table, by offset divided by 8, and the pending vectors -/
  msix : SMap (BitVec 64) := []
  pending : SMap Bool := []
  /-- data of the last host read through a window -/
  readData : List Byte := []
  deriving DecidableEq, Repr

/-- A peer link (R179), by peer number; the host link is 4096. -/
structure Link where
  recovery : Option Nat := none
  unreachable : Bool := false
  deriving DecidableEq, Repr

/-- A checkpoint of an Assured block (R248), or the saved image of a block (R299): the block and its warps. -/
structure Saved where
  blk : Block
  warps : List (Nat × Warp)
  /-- offset of the husk in the save area (R301) -/
  off : Nat := 0
  /-- the number of the control section that the device wrote (log 14) -/
  num : Nat := 0
  /-- unit codes, and summary bits by span (R303) -/
  codes : List Nat := []
  sums : List Bool := []
  mats : List MatOp := []
  locks : List Lock := []
  deriving DecidableEq, Repr

/-- The whole device. -/
structure State where
  pw : Power := {}
  rw : Regwin := {}
  clock : Nat := 0
  /-- position in the cycle: at 0 the device's turn, whose completions come before the issues of the cycle (R150); at k
the quarters from number k - 1 = 4 * core + quarter on issue next (log 3) -/
  slot : Nat := 0
  /-- inputs and device events that come next (log 2) -/
  agenda : List Instr := []
  /-- free values drawn so far (log 1) -/
  frees : Nat := 0
  iss : Iss := {}
  nextId : Nat := 1
  gridCount : Nat := 0
  trigger : Nat := 0
  margin : Nat := 1000
  lastQueue : Nat := 127
  /-- last poll of wait words, in nanoseconds (R290) -/
  polled : Nat := 0
  retired : List Nat := []
  chans : SMap Chan := []
  parts : SMap Part := []
  queues : SMap Queue := []
  ctxs : SMap Ctx := []
  mem : Memory := []
  /-- XOR patterns on stored bytes, by local physical address (R236) -/
  dmgData : SMap Byte := []
  /-- XOR patterns on check symbols, under 8 * unit + symbol -/
  dmgCheck : SMap Byte := []
  /-- poison bits of the memory's sectors; a sector that the second-level cache holds carries its own (R237) -/
  poison : SMap Bool := []
  l2 : SMap L2Sec := []
  /-- sectors that Assured blocks reserve at their home slices: the block, by sector (R204) -/
  resvs : SMap Nat := []
  /-- stamps of sectors at their peers' home slices, by sector key (R206) -/
  pstamps : SMap Stamp := []
  /-- quarters that an instruction of more than one issue cycle occupies, with the first clock at which they issue again,
and local-store ports, under 4096 + 8 * core + store, likewise (R66) -/
  busy : SMap Nat := []
  /-- first-level sectors with data, under core * 2^80 + sector key (R160) -/
  l1 : SMap (List Byte) := []
  /-- instruction-cache words, under (core * 64 + context) * 2^56 + virtual address (R316) -/
  icache : SMap Word := []
  /-- TLB entries (R166): see tlbKey. Places 0 to 191 are the cores' TLBs, 192 to 207 the groups', 208 the last level -/
  tlb : SMap Trans := []
  links : SMap Link := []
  stores : List StoreOp := []
  side : List SideEntry := []
  faults : List FaultRec := []
  grids : SMap Grid := []
  blocks : SMap Block := []
  warps : SMap Warp := []
  /-- the warp that each quarter last issued from (R39), under 4 * core + quarter -/
  lastWarp : SMap Nat := []
  locks : List Lock := []
  copies : List CopyOp := []
  /-- by 4 * group + context -/
  fabs : SMap Fab := []
  /-- the context that each cell of a Huller last served, under 32 * group + cell (R220) -/
  served : SMap Nat := []
  mats : List MatOp := []
  forks : SMap Fork := []
  forkReqs : List ForkReq := []
  /-- effective pages, under ((context * 512) + revision) * 2^44 + page (R267) -/
  revmap : SMap RevPage := []
  /-- checkpoints by block (R248) -/
  ckpts : SMap Saved := []
  /-- saved blocks by block tag (R299) -/
  husks : SMap Saved := []
  /-- every control section that the device has written for a live context: the block and its record, by its number (R301,
log 14) -/
  saves : SMap (Nat × Saved) := []
  /-- MSI-X messages and management messages sent, newest first: (vector, 0) or (kind, value) -/
  sent : List (Nat × Nat) := []
  deriving DecidableEq, Repr

/-- R324, R331, R332, R256, R239, R286: the device right after reset. Every value without a reset value in the spec is
named in log 9. -/
def State.reset : State := {}

end Sys2Proof.Machine
end

