-- ==== Sys2Proof/Machine/Mem.lean ====
section
/-! DEFINITION. Memory at the home slices: bytes, sectors, check and poison, stamps, the channels' counters and the
structures that the device reads for itself by physical address (R160, R161, R194, R236 to R239, R255, R259, R260,
R509). -/

set_option Elab.async false

namespace Sys2Proof.Machine

/-- The key of byte 0 of host memory (R178). -/
def hostBase : Nat := 2 ^ 64

/-- The key of byte 0 of a peer's memory (R178). -/
def peerBase (p : Nat) : Nat := 2 ^ 65 + p * 2 ^ 52

/-- A key of local memory. -/
def isLocal (k : Nat) : Bool := k < 2 ^ 64

/-- The link that an access to a memory key needs: none for local memory, 4096 for the host link, or a peer number
(R178, R179). -/
def linkOf (k : Nat) : Option Nat :=
  if k < 2 ^ 64 then none else if k < 2 ^ 65 then some 4096 else some ((k - 2 ^ 65) / 2 ^ 52)

/-- The memory form: keys strictly rise and no listed byte is zero. -/
def Memory.wf (m : Memory) : Bool := keysRise m && m.all fun e => e.2 != 0

/-- The little-endian number of a list of bytes (R3). -/
def leNat : List Byte → Nat
  | [] => 0
  | b :: t => b.toNat + 256 * leNat t

/-- A number as n little-endian bytes (R3). -/
def leBytes : Nat → Nat → List Byte
  | 0, _ => []
  | n + 1, v => BitVec.ofNat 8 v :: leBytes n (v / 256)

/-- Writes bytes into a memory. -/
def Memory.write (m : Memory) (k : Nat) : List Byte → Memory
  | [] => m
  | b :: t => Memory.write (lset 0 k b m) (k + 1) t

/-- Writes bytes into memory itself: DRAM, the host or a peer. -/
def writeBytes (k : Nat) (bs : List Byte) (s : State) : State := { s with mem := Memory.write s.mem k bs }

/-- R235: usable bytes of a 2 GiB partition of a class. -/
def usable (cls : Nat) : Nat :=
  if cls = 2 then 1879048192 else if cls = 1 then 2080374784 else 2147483648

/-- The partition of a local physical address (R161). -/
def partOf (s : State) (pa : Nat) : Part := lget {} (pa / 2 ^ 31) s.parts

/-- 192 GiB. -/
def localSize : Nat := 192 * 2 ^ 30

/-- A local physical address inside the usable memory of an online partition (R239). -/
def paOnline (s : State) (pa : Nat) : Bool :=
  pa < localSize && (partOf s pa).state == 2 && pa % 2 ^ 31 < usable (partOf s pa).cls

/-- R161: the channel of a local physical address. -/
def chanOf (pa : Nat) : Nat := pa / 256 % 24

/-- R258: the row of a local physical address within its channel. -/
def rowOf (pa : Nat) : Nat := pa / 256 / 24 / 64

/-- Changes a channel. -/
def modChan (ch : Nat) (f : Chan → Chan) (s : State) : State :=
  { s with chans := lset {} ch (f (lget {} ch s.chans)) s.chans }

/-- R257: a 32-bit counter that saturates. -/
def satInc (n : Nat) : Nat := if n ≥ 0xFFFFFFFF then 0xFFFFFFFF else n + 1

/-- sr.time in nanoseconds: 6 cycles of 1.2 GHz are 5 ns (R6, R23). -/
def timeOf (s : State) : Nat := s.clock * 5 / 6

/-- A history entry (R260). -/
def histEntry (sec kind : Nat) (scrub : Bool) (row symbol : Nat) : BitVec 64 :=
  BitVec.ofNat 64 (sec % 2 ^ 24 * 2 ^ 40 + kind * 2 ^ 38 + (if scrub then 2 ^ 37 else 0) + row % 2 ^ 19 * 2 ^ 18 +
    symbol % 256 * 2 ^ 10)

/-- Appends to a history of 64 entries, replacing the oldest (R260). -/
def histPush (e : BitVec 64 × Bool) (h : List (BitVec 64 × Bool)) : List (BitVec 64 × Bool) :=
  (if h.length ≥ 64 then h.drop 1 else h) ++ [e]

/-- What an 8-byte word of the MSI-X table holds after reset: each vector masked, as PCI Express has it (log 24). -/
def msixReset (i : Nat) : BitVec 64 := if i % 2 = 1 then 0x100000000 else 0

/-- An interrupt: an MSI-X vector sent to the host (R323, R326). A masked vector stays pending (log 24). -/
def interrupt (v : Nat) (s : State) : State :=
  if ((lget (msixReset (2 * v + 1)) (2 * v + 1) s.rw.msix) >>> 32).toNat % 2 = 1 then
    { s with rw := { s.rw with pending := lset false v true s.rw.pending } }
  else { s with sent := (v, 0) :: s.sent }

/-- R260, R261: records errors found in a row; the third within the window marks the row lasting, writes an entry of
kind 2 and sends a retirement request (kind 1 of State.sent, with channel and row), a device error for which errvec
interrupts (R324). -/
def noteError (pa kind : Nat) (scrub : Bool) (symbol : Nat) (s : State) : State :=
  let ch := chanOf pa
  let row := rowOf pa
  let sec := timeOf s / 1000000000
  let c := lget {} ch s.chans
  let h := histPush (histEntry sec kind scrub row symbol, true) c.hist
  let mine := fun (e : BitVec 64 × Bool) =>
    e.2 && (e.1.toNat / 2 ^ 18 % 2 ^ 19 == row) && decide ((sec + 2 ^ 24 - e.1.toNat / 2 ^ 40) % 2 ^ 24 ≤ c.window)
  if (h.filter mine).length ≥ 3 then
    let h' := h.map fun e => if e.1.toNat / 2 ^ 18 % 2 ^ 19 == row then (e.1, false) else e
    let s := modChan ch (fun c => { c with hist := histPush (histEntry sec 2 scrub row symbol, false) h' }) s
    interrupt (s.rw.errvec.toNat % 256) { s with sent := (1000 + 1, ch * 2 ^ 19 + row) :: s.sent }
  else modChan ch (fun c => { c with hist := h }) s

/-- The bit polynomial step of a CRC, most significant bit first, over one byte. -/
def crcMsbByte (poly width : Nat) (crc : Nat) (b : Byte) : Nat :=
  (List.range 8).foldl (fun c _ =>
    let c2 := c * 2
    (if c / 2 ^ (width - 1) % 2 = 1 then Nat.xor (c2 % 2 ^ width) poly else c2 % 2 ^ width))
    (Nat.xor crc (b.toNat * 2 ^ (width - 8)))

/-- One step of CRC-32C over a byte. -/
def crc32cByte (c b : Nat) : Nat :=
  (List.range 8).foldl (fun c _ => if c % 2 = 1 then Nat.xor (c / 2) 0x82F63B78 else c / 2) (Nat.xor c b)

/-- CRC-32C of bytes, from the running value of the bytes before them. -/
def crc32cFrom (c : Nat) (bs : List Nat) : Nat := bs.foldl crc32cByte c

/-- CRC-32C. -/
def crc32c (bs : List Nat) : Nat := Nat.xor (crc32cFrom 0xFFFFFFFF bs) 0xFFFFFFFF

/-- R236: CRC-16 of polynomial 0x1021 from an initial value. -/
def crc16 (init : Nat) (bs : List Byte) : Nat := bs.foldl (crcMsbByte 0x1021 16) init

/-- The differences of a stored 64-byte unit's data and check bytes from those that were written. -/
def unitDamage (s : State) (u : Nat) : List Byte × List Byte :=
  ((List.range 64).map fun i => lget 0 (64 * u + i) s.dmgData, (List.range 8).map fun i => lget 0 (8 * u + i) s.dmgCheck)

/-- The wrong symbols of a codeword: the data and check bytes that differ from what was written. -/
def wrongSymbols (p : List Byte × List Byte) : List Nat :=
  let l := p.1 ++ p.2
  (List.range 72).filter fun i => l.getD i 0 != 0

/-- The stored unit differs somewhere from what was written. -/
def isDamaged (s : State) (u : Nat) : Bool :=
  (s.dmgData.any fun e => e.1 / 64 == u) || s.dmgCheck.any fun e => e.1 / 8 == u

/-- The unit's stored bytes are now what was written. -/
def clearDamage (u : Nat) (s : State) : State :=
  { s with dmgData := s.dmgData.filter fun e => e.1 / 64 != u
           dmgCheck := s.dmgCheck.filter fun e => e.1 / 8 != u }

/-- The stored bytes of memory. -/
def storedBytes (s : State) (k n : Nat) : List Byte := (List.range n).map fun i => lget 0 (k + i) s.mem

/-- What reading a codeword finds (R236): the data that it delivers; the symbol that it takes for corrected; or that it
is uncorrectable. -/
structure Codeword where
  data : List Byte
  fixed : Option Nat := none
  bad : Bool := false
  deriving DecidableEq, Repr

/-- R236: the reading of a stored unit of 64 bytes, by the class of its partition. Unprotected memory has no check. -/
def codeword (s : State) (u : Nat) : Codeword :=
  let raw := storedBytes s (64 * u) 64
  let dmg := unitDamage s u
  let bad := wrongSymbols dmg
  let cls := (partOf s (64 * u)).cls
  let sent := raw.zipWith (· ^^^ ·) dmg.1
  if bad.isEmpty ∨ cls = 0 then { data := raw }
  else if cls = 1 then { data := raw, bad := Nat.xor (crc16 0 dmg.1) (leNat (dmg.2.take 2)) != 0 }
  else if bad.length = 1 then { data := sent, fixed := some (bad.headD 0) }
  else if bad.length = 2 then { data := raw, bad := true }
  else
    match Config.miscorrect (raw ++ (Config.checkBytes sent).zipWith (· ^^^ ·) dmg.2) with
    | none => { data := raw, bad := true }
    | some (d, sym) => { data := (List.range 64).map fun i => d.getD i 0, fixed := some (sym % 72) }

/-- One byte as the home slice, the host or the peer delivers it: from the second-level cache where it holds the
sector, else as reading the codeword would give it. -/
def readByte (s : State) (k : Nat) : Byte :=
  if isLocal k then
    match lfind (k / 32) s.l2 with
    | some e => e.data.getD (k % 32) 0
    | none => if isDamaged s (k / 64) then (codeword s (k / 64)).data.getD (k % 64) 0 else lget 0 k s.mem
  else lget 0 k s.mem

/-- Consecutive bytes. -/
def readBytes (s : State) (k n : Nat) : List Byte := (List.range n).map fun i => readByte s (k + i)

/-- An unsigned little-endian number in memory. -/
def readNat (s : State) (k n : Nat) : Nat := leNat (readBytes s k n)

/-- Sets the poison bit of a sector of memory (R237). -/
def setPoison (sec : Nat) (b : Bool) (s : State) : State := { s with poison := lset false sec b s.poison }

/-- The poison bit of a sector: that of the second-level cache where it holds the sector (R237). -/
def poisoned (s : State) (sec : Nat) : Bool :=
  match lfind sec s.l2 with
  | some e => e.poison
  | none => lget false sec s.poison

/-- R257, R260: counts and records what a read of a codeword found. -/
def noteRead (u : Nat) (c : Codeword) (scrub : Bool) (s : State) : State :=
  let pa := 64 * u
  if c.bad then noteError pa 1 scrub 0xFF (modChan (chanOf pa) (fun x => { x with ucnt := satInc x.ucnt }) s)
  else
    match c.fixed with
    | some sym => noteError pa 0 scrub sym (modChan (chanOf pa) (fun x => { x with cecnt := satInc x.cecnt }) s)
    | none => s

/-- The other sector of a codeword (R236). -/
def siblingOf (sec : Nat) : Nat := if sec % 2 = 0 then sec + 1 else sec - 1

/-- The second-level entry that a read of a codeword brings for one of its sectors: a corrected one is dirty (R259), an
uncorrectable one poisoned (R237). -/
def filled (s : State) (c : Codeword) (sec : Nat) : L2Sec := {
  dirty := c.fixed.isSome
  poison := c.bad || lget false sec s.poison
  data := (c.data.drop (32 * (sec % 2))).take 32 }

/-- R160, R236: brings a local sector into the second-level cache, reading its codeword where it was not held. One read of
the codeword brings both its sectors; a sector that is held stays as it is. -/
def touch (sec : Nat) (s : State) : State :=
  if isLocal (32 * sec) = false ∨ (lfind sec s.l2).isSome then s
  else
    let c := codeword s (sec / 2)
    let sib := siblingOf sec
    let l2 := lput sec (filled s c sec) s.l2
    noteRead (sec / 2) c false { s with l2 := if (lfind sib l2).isSome then l2 else lput sib (filled s c sib) l2 }

/-- Changes the second-level entry of a sector. -/
def modL2 (sec : Nat) (f : L2Sec → L2Sec) (s : State) : State := { s with l2 := lmod sec f s.l2 }

/-- What a write does to the stamp of its sector (R194). -/
inductive StampOp where
  | keep
  | set (st : Option Stamp)
  deriving DecidableEq, Repr

/-- Bytes put over the 32 bytes of a sector from a place on. -/
def patch (d : List Byte) (o : Nat) (bs : List Byte) : List Byte :=
  (List.range 32).map fun i => if o ≤ i ∧ i < o + bs.length then bs.getD (i - o) 0 else d.getD i 0

/-- A second-level sector of zeros that no memory has filled: every byte is about to be written. -/
def L2Sec.blank : L2Sec := { data := List.replicate 32 0 }

/-- R206: what a write does to the stamp that a peer's home slice keeps; the host keeps none. -/
def peerStamp (k : Nat) (st : StampOp) (s : State) : State :=
  match st with
  | .keep => s
  | .set x =>
    if linkOf k = some 4096 then s
    else { s with pstamps := match x with | some v => lput (k / 32) v s.pstamps | none => ldel (k / 32) s.pstamps }

/-- R160, R194, R237: a write of bytes inside one sector, performed at the home slice, the host or the peer. A write
that covers the sector clears its poison; the sector is dirty and its stamp set. -/
def sliceWrite (k : Nat) (bs : List Byte) (st : StampOp) (s : State) : State :=
  if isLocal k then
    let sec := k / 32
    let s := if bs.length = 32 then (if (lfind sec s.l2).isSome then s else { s with l2 := lput sec .blank s.l2 }) else touch sec s
    modL2 sec (fun e => { e with
      data := patch e.data (k % 32) bs
      dirty := true
      poison := if bs.length = 32 then false else e.poison
      stamp := match st with | .keep => e.stamp | .set x => x }) s
  else peerStamp k st (writeBytes k bs s)

/-- R255: remembers whose write made a sector dirty. -/
def ownSector (sec ctx : Nat) (s : State) : State := modL2 sec (fun e => { e with ctx := ctx }) s

/-- A write of any length, split at sector boundaries. -/
def sliceWriteAll (k : Nat) (bs : List Byte) (st : StampOp) : Nat → State → State
  | 0, s => s
  | fuel + 1, s =>
    if bs.isEmpty then s
    else
      let n := 32 - k % 32
      sliceWriteAll (k + n) (bs.drop n) st fuel (sliceWrite k (bs.take n) st s)

/-- Writes bytes at home slices, plain (R194). -/
def devStore (k : Nat) (bs : List Byte) (s : State) : State := sliceWriteAll k bs (.set none) (bs.length + 1) s

/-- R237: a sector written poisoned; Unprotected memory takes zeros (R255). -/
def writePoison (sec : Nat) (s : State) : State :=
  if (partOf s (32 * sec)).cls = 0 then sliceWrite (32 * sec) (List.replicate 32 0) (.set none) s
  else
    let s := if (lfind sec s.l2).isSome then s else { s with l2 := lput sec .blank s.l2 }
    modL2 sec (fun e => { e with dirty := true, stamp := none, poison := true }) s

/-- R509: bytes of a structure named by a local physical address; ones where it lies outside usable memory. -/
def physRead (s : State) (pa n : Nat) : List Byte :=
  (List.range n).map fun i => if paOnline s (pa + i) then readByte s (pa + i) else 0xFF

/-- R509: writes to a structure named by a local physical address; dropped outside usable memory. -/
def physWrite (pa : Nat) (bs : List Byte) (s : State) : State :=
  (List.range bs.length).foldl
    (fun s i => if paOnline s (pa + i) then sliceWrite (pa + i) [bs.getD i 0] (.set none) s else s) s

/-- The poison bits of the sectors of a range. -/
def anyPoison (s : State) (k n : Nat) : Bool :=
  isLocal k && (List.range (n / 32 + 2)).any fun i => decide (32 * (k / 32 + i) < k + n) && poisoned s (k / 32 + i)

/-- Updates the sectors of a core's first-level cache that hold written bytes (R160). -/
def l1Update (core k : Nat) (bs : List Byte) (s : State) : State :=
  let key := core * 2 ^ 80 + k / 32
  { s with l1 := lmod key (fun d => (List.range 32).map fun i =>
      if k % 32 ≤ i ∧ i < k % 32 + bs.length then bs.getD (i - k % 32) 0 else d.getD i 0) s.l1 }

/-- Invalidates a core's first-level cache (R193). -/
def l1Clear (core : Nat) (s : State) : State := { s with l1 := s.l1.filter fun e => e.1 / 2 ^ 80 != core }

/-- Invalidates the lines of a range in every core's first-level cache. -/
def l1DropAll (k n : Nat) (s : State) : State :=
  { s with l1 := s.l1.filter fun e => !(decide (k / 128 ≤ e.1 % 2 ^ 80 / 4) && decide (e.1 % 2 ^ 80 / 4 ≤ (k + (n - 1)) / 128)) }

/-- Invalidates the lines of a range in a core's first-level cache (R176 of one line, R197). -/
def l1Drop (core k n : Nat) (s : State) : State :=
  { s with l1 := s.l1.filter fun e =>
      !(e.1 / 2 ^ 80 == core && decide (k / 128 ≤ e.1 % 2 ^ 80 / 4) && decide (e.1 % 2 ^ 80 / 4 ≤ (k + (n - 1)) / 128)) }

/-- A fresh identifier. -/
def freshId (s : State) : Nat × State := (s.nextId, { s with nextId := s.nextId + 1 })

/-- A free value of the spec (log 1). -/
def freeNat (s : State) : Nat × State := (s.frees, { s with frees := s.frees + 1 })

/-- Changes a context. -/
def modCtx (c : Nat) (f : Ctx → Ctx) (s : State) : State := { s with ctxs := lset {} c (f (lget {} c s.ctxs)) s.ctxs }

/-- The context record. -/
def ctxOf (s : State) (c : Nat) : Ctx := lget {} c s.ctxs

/-- R326: whether a record queue has a valid size and room: its indices are free-running counts of 64 bits. -/
def recRoom (size wr rd : Nat) : Bool := 4 ≤ size && size ≤ 16 && decide ((wr + 2 ^ 64 - rd) % 2 ^ 64 < 2 ^ size)

/-- R172, R326: writes the held fault records that fit and raises the fault interrupt for each. -/
def flushFaults (c : Nat) : Nat → State → State
  | 0, s => s
  | fuel + 1, s =>
    let x := ctxOf s c
    match x.fheld with
    | [] => s
    | r :: t =>
      if recRoom x.fqsize x.fqwr x.fqrd then
        let s := physWrite (x.fqbase + 16 * (x.fqwr % 2 ^ x.fqsize)) (leBytes 16 r.toNat) s
        let s := modCtx c (fun x => { x with fheld := t, fqwr := (x.fqwr + 1) % 2 ^ 64 }) s
        flushFaults c fuel (interrupt (x.vectors.toNat % 256) s)
      else s

/-- R311, R326: writes the held event records that fit and raises the event interrupt for each. -/
def flushEvents (c : Nat) : Nat → State → State
  | 0, s => s
  | fuel + 1, s =>
    let x := ctxOf s c
    match x.eheld with
    | [] => s
    | r :: t =>
      if recRoom x.eqsize x.eqwr x.eqrd then
        let s := physWrite (x.eqbase + 16 * (x.eqwr % 2 ^ x.eqsize)) (leBytes 16 r.toNat) s
        let s := modCtx c (fun x => { x with eheld := t, eqwr := (x.eqwr + 1) % 2 ^ 64 }) s
        flushEvents c fuel (interrupt (x.vectors.toNat / 256 % 256) s)
      else s

/-- R172: a fault record of a context. -/
def faultRecord (c kind core level va : Nat) (s : State) : State :=
  let x := ctxOf s c
  let r := BitVec.ofNat 128 (x.fseq % 2 ^ 32 * 2 ^ 96 + 2 ^ 95 + c % 64 * 2 ^ 89 + kind % 8 * 2 ^ 86 + core % 256 * 2 ^ 78 +
    level % 8 * 2 ^ 75 + va % 2 ^ 56)
  flushFaults c 2 (modCtx c (fun x => { x with fheld := x.fheld ++ [r], fseq := (x.fseq + 1) % 2 ^ 32 }) s)

/-- R311: an event record of a context. -/
def eventRecord (c kind cause core warp tpc addr : Nat) (s : State) : State :=
  let x := ctxOf s c
  let r := BitVec.ofNat 128 (x.eseq % 2 ^ 32 * 2 ^ 96 + 2 ^ 95 + c % 64 * 2 ^ 89 + cause % 256 * 2 ^ 81 + core % 256 * 2 ^ 73 +
    warp % 32 * 2 ^ 68 + kind % 16 * 2 ^ 64 + tpc % 2 ^ 32 * 2 ^ 32 + addr % 2 ^ 32)
  flushEvents c 2 (modCtx c (fun x => { x with eheld := x.eheld ++ [r], eseq := (x.eseq + 1) % 2 ^ 32 }) s)

end Sys2Proof.Machine
end

