-- ==== Sys2Proof/Machine/Translate.lean ====
section
/-! DEFINITION. Translation: the walk, revisioned pages, TLBs, dirty bits, and the faults that wait for an answer
(R163 to R172, R261, R263, R265, R267, R509). -/

set_option Elab.async false

namespace Sys2Proof.Machine

/-- Where a walk ends (R164); `table` where the region table that governs a revisioned leaf awaits its page (R263, R265,
R509). -/
inductive Walk where
  | absent (level : Nat)
  | table (level : Nat)
  | error
  | leaf (t : Trans) (level : Nat) (contig : Bool) (aperture : Nat)
  deriving DecidableEq, Repr

/-- The index of a level (R163). -/
def walkIndex (va level : Nat) : Nat := va / 2 ^ (12 + 9 * level) % (if level = 4 then 256 else 512)

/-- The page size of a leaf at a level (R163). -/
def leafSize (level : Nat) : Nat := 2 ^ (12 + 9 * level)

/-- R163, R164: the walk from a table, without the revision map. -/
def walkFrom (va : Nat) : Nat → Nat → State → State × Walk
  | 0, table, s => walkEntry va 0 table s (fun _ s => (s, Walk.error))
  | level + 1, table, s => walkEntry va (level + 1) table s (fun next s => walkFrom va level next s)
where
  /-- One level: the entry, its checks, and the walk of the table that it names. -/
  walkEntry (va level table : Nat) (s : State) (go : Nat → State → State × Walk) : State × Walk :=
    let addr := table + 8 * walkIndex va level
    if !(paOnline s addr) then (s, .error)
    else
      let s := touch (addr / 32) s
      if poisoned s (addr / 32) then (s, .error)
      else
        let e := readNat s addr 8
        let bit := fun i => decide (e / 2 ^ i % 2 = 1)
        let ap := e / 2 ^ 62
        let peer := e / 2 ^ 50 % 2 ^ 12
        let pa := e / 2 ^ 10 % 2 ^ 40 * 2 ^ 12
        if !bit 0 then (s, .absent level)
        else if bit 1 || ap == 3 || (ap != 2 && peer != 0) then (s, .error)
        else if bit 5 then
          if bit 6 || decide (level ≥ 3) || pa % leafSize level != 0 then (s, .error)
          else
            let off := va % leafSize level
            let page := (pa + off) / 4096 * 4096
            if ap = 0 ∧ (paOnline s (pa + off) = false ∨ s.retired.contains page = true) then (s, .error)
            else
              let k := if ap = 0 then page else if ap = 1 then hostBase + page else peerBase peer + page
              (s, .leaf { pa := k, r := bit 2, w := bit 3, x := bit 4, dirty := bit 8, rev := bit 7, own := true, pte := addr }
                level (bit 9) ap)
        else if ap != 0 then (s, .error)
        else go pa s

/-- R163: a valid page-table root. -/
def rootValid (root : Nat) : Bool := root != 0 && root % 4096 == 0

/-- The walk of a context, without the revision map. -/
def walkPlain (ctx va : Nat) (s : State) : State × Walk :=
  if rootValid (ctxOf s ctx).ptroot then walkFrom va 4 (ctxOf s ctx).ptroot s else (s, .error)

/-- The answer to an access of the device's own at a virtual address (R509): the memory key; an absent page, with its
level; the region table that governs it awaits its page (R263); a step of kind 8 or 9 that the device serves itself (R170,
R271); a refusal. -/
inductive DevRes where
  | ok (k : Nat)
  | fault (level : Nat)
  | table (level : Nat)
  | own (kind : Nat)
  | fail (cause : Nat)
  deriving DecidableEq, Repr

/-- R509: translates an address of the region table for its read, as an engine access. Of the checks of R265 on a revisioned
leaf it makes those that do not need the table itself (DESIGN CHOICE, log 33). -/
def tablePlace (ctx va : Nat) (s : State) : State × DevRes :=
  match walkPlain ctx va s with
  | (s, .absent l) => (s, .fault l)
  | (s, .table l) => (s, .table l)
  | (s, .error) => (s, .fail 0x07)
  | (s, .leaf t level contig ap) =>
    if t.rev && (level != 0 || contig || ap != 0) then (s, .fail 0x07)
    else
      let pa := if t.rev then (match lfind (ctx * 512 * 2 ^ 44 + va / 4096) s.revmap with | some p => p.pa | none => t.pa) else t.pa
      (s, if t.r && ap == 0 then .ok (pa + va % 4096) else .fail 0x08)

/-- Reads bytes at a virtual address in pieces that stay within a page, given the translation (R509). -/
def readPieces (tr : Nat → State → State × DevRes) (va : Nat) : Nat → Nat → State → State × Except DevRes (List Byte)
  | 0, _, s => (s, .ok [])
  | fuel + 1, n, s =>
    if n = 0 then (s, .ok [])
    else
      let m := min n (4096 - va % 4096)
      match tr va s with
      | (s, .ok k) =>
        let s := (List.range (m / 32 + 2)).foldl (fun s i => if 32 * (k / 32 + i) < k + m then touch (k / 32 + i) s else s) s
        let bs := readBytes s k m
        match readPieces tr (va + m) fuel (n - m) s with
        | (s, .ok t) => (s, .ok (bs ++ t))
        | (s, .error e) => (s, .error e)
      | (s, r) => (s, .error r)

/-- The pages of a range of n bytes, by their first byte in the range. -/
def rangePages (va n : Nat) : List Nat :=
  va :: (List.range ((va % 4096 + n + 4095) / 4096 - 1)).map fun i => (va / 4096 + i + 1) * 4096

/-- The first byte of a range whose page is absent. -/
def absentVa (ctx va n : Nat) (s : State) : Nat :=
  ((rangePages va n).find? fun a => match (walkPlain ctx a s).2 with | .absent _ => true | _ => false).getD va

/-- R263: one region-table entry; none where a field is invalid. Unused entries are kept with type 0. -/
def regionOf (bs : List Byte) : Option Region :=
  let n := leNat bs
  let type := n / 2 ^ 108 % 16
  let width := n / 2 ^ 106 % 4
  let cls := n / 2 ^ 104 % 4
  let pages := n / 2 ^ 64 % 2 ^ 32
  let vpn := n / 2 ^ 12 % 2 ^ 44
  if type = 0 then some ⟨0, width, cls, pages, vpn⟩
  else if n / 2 ^ 112 ≠ 0 ∨ n / 2 ^ 96 % 256 ≠ 0 ∨ n / 2 ^ 56 % 256 ≠ 0 ∨ n % 2 ^ 12 ≠ 0 ∨ type > 11 ∨ cls = 3 ∨ pages = 0 ∨
      (width = 3 ∧ (type = 4 ∨ type = 10 ∨ type = 11)) ∨ vpn + pages > 2 ^ 44 then none
  else some ⟨type, width, cls, pages, vpn⟩

/-- Two regions share no page. -/
def regionsApart (a b : Region) : Bool :=
  a.type == 0 || b.type == 0 || decide (a.vpn + a.pages ≤ b.vpn) || decide (b.vpn + b.pages ≤ a.vpn)

/-- The pairs of a list are apart. -/
def allApart : List Region → Bool
  | [] => true
  | a :: t => t.all (regionsApart a) && allApart t

/-- R263, R264: the region table as last written: none where it is invalid; a fault or a refusal where it cannot be
read. -/
def regionTable (ctx : Nat) (s : State) : State × Except DevRes (Option (List Region)) :=
  let x := ctxOf s ctx
  if x.regcount = 0 then (s, .ok (some []))
  else if x.regcount > 64 then (s, .ok none)
  else
    match readPieces (tablePlace ctx) x.regbase 3 (16 * x.regcount) s with
    | (s, .error e) => (s, .error e)
    | (s, .ok bs) =>
      let es := (List.range x.regcount).map fun i => regionOf ((bs.drop (16 * i)).take 16)
      if es.all (·.isSome) then
        let rs := es.filterMap id
        (s, .ok (if allApart rs then some (rs.filter fun r => r.type != 0) else none))
      else (s, .ok none)

/-- The region that holds a page. -/
def regionFor (rs : List Region) (vpn : Nat) : Option Region :=
  rs.find? fun r => decide (r.vpn ≤ vpn) && decide (vpn < r.vpn + r.pages)

/-- R265: the region table that governs a revision; an error where it must be read and cannot be (R263, R509). -/
def governing (ctx rev : Nat) (s : State) : State × Except DevRes (List Region) :=
  let live := s.forks.filter fun e => e.2.state != 0 && e.2.ctx == ctx && ((rev != 0 && e.1 == rev) || e.2.parentRev == rev)
  match live.foldl (fun (o : Option Fork) e => match o with
      | none => some e.2
      | some f => if e.2.order > f.order then some e.2 else o) none with
  | some f => (s, .ok f.regions)
  | none =>
    match regionTable ctx s with
    | (s, .ok rs) => (s, .ok (rs.getD []))
    | (s, .error e) => (s, .error e)

/-- The key of a page of a revision. -/
def pageKey (ctx rev vpn : Nat) : Nat := (ctx * 512 + rev) * 2 ^ 44 + vpn

/-- R267: the effective leaf of a revisioned page. -/
def effective (ctx rev vpn : Nat) (t : Trans) (s : State) : Trans :=
  match lfind (pageKey ctx rev vpn) s.revmap with
  | some p => { t with pa := p.pa, own := p.own }
  | none => { t with own := rev == 0 && !(ctxOf s ctx).rootForked }

/-- The walk of a revision (R164, R265, R267). -/
def walk (ctx rev va : Nat) (s : State) : State × Walk :=
  match walkPlain ctx va s with
  | (s, .leaf t level contig ap) =>
    if t.rev then
      match governing ctx rev s with
      | (s, .ok rs) =>
        if level = 0 ∧ contig = false ∧ ap = 0 ∧ (regionFor rs (va / 4096)).isSome then
          (s, .leaf (effective ctx rev (va / 4096) t s) level contig ap)
        else (s, .error)
      | (s, .error (.fault l)) => (s, .table l)
      | (s, .error _) => (s, .error)
    else (s, .leaf t level contig ap)
  | r => r

/-- What an access asks for. -/
inductive Want where
  | read | write | readWrite | fetch
  deriving DecidableEq, Repr

/-- What translation answers (R164, R170, R171): the translation; a fault of a kind (0 to 5 by the caller's table, 8
light, 9 copy-on-write, 11 the page of the region table) at a level; a trap. -/
inductive Tr where
  | ok (t : Trans)
  | fault (kind level : Nat)
  | trap (cause : Nat)
  deriving DecidableEq, Repr

/-- R168: the tracking bit of a local frame, where the host has given a dirty table. -/
def tracked (s : State) (pa : Nat) : Bool :=
  s.rw.dirtytab != 0 && isLocal pa &&
    ((physRead s (s.rw.trackmap + pa / 2 ^ 21 / 8) 1).headD 0).getLsbD (pa / 2 ^ 21 % 8)

/-- Permission, copy-on-write and dirty checks of a translation (R164, R170, R267). -/
def permit (s : State) (t : Trans) (w : Want) : Tr :=
  let wr := w == .write || w == .readWrite
  if ((w == .read || w == .readWrite) && !t.r) || (wr && !t.w) || (w == .fetch && !t.x) then .trap 0x08
  else if wr && t.rev && !t.own then .fault 9 0
  else if wr && !t.dirty && !tracked s t.pa then .fault 8 0
  else .ok t

/-- The key of a TLB entry: place, context, revision, size in address bits, and page number of that size (R166). -/
def tlbKey (place ctx rev size va : Nat) : Nat := (((place * 64 + ctx) * 512 + rev) * 64 + size) * 2 ^ 44 + va / 2 ^ size

/-- The place of a TLB key. -/
def tlbPlace (k : Nat) : Nat := k / 2 ^ 44 / 64 / 512 / 64

/-- The context of a TLB key. -/
def tlbCtx (k : Nat) : Nat := k / 2 ^ 44 / 64 / 512 % 64

/-- The revision of a TLB key. -/
def tlbRev (k : Nat) : Nat := k / 2 ^ 44 / 64 % 512

/-- A TLB entry covers an address of a context. -/
def tlbCovers (k ctx va : Nat) : Bool := tlbCtx k == ctx && k % 2 ^ 44 == va / 2 ^ (k / 2 ^ 44 % 64)

/-- The page sizes that a TLB holds, in address bits (R163, R165). -/
def tlbSizes : List Nat := [12, 16, 21, 30, 33]

/-- The entry of one TLB for an address. -/
def tlbFind (s : State) (ctx rev va place : Nat) : Option Trans :=
  tlbSizes.findSome? fun z => lfind (tlbKey place ctx rev z va) s.tlb

/-- R166: the TLBs that an access looks up, in order: a core's, its group's and the last level; an engine's begins with
its group's. -/
def tlbLevels (place : Nat) : List Nat := if place < 192 then [place, 192 + place / 12, 208] else [place, 208]

/-- Puts a translation into TLBs. -/
def tlbFill (ctx rev va : Nat) (t : Trans) (places : List Nat) (s : State) : State :=
  { s with tlb := places.foldl (fun m p => lput (tlbKey p ctx rev t.size va) t m) s.tlb }

/-- The translation of one page that an entry of any size gives. -/
def pageTrans (va : Nat) (t : Trans) : Trans := { t with pa := t.pa + va % 2 ^ t.size / 4096 * 4096, size := 12 }

/-- Every page of a local range is usable and none is retired: an entry of that size answers as each walk would. -/
def rangeUsable (s : State) (k size : Nat) : Bool :=
  !isLocal k ||
    (((List.range ((k + 2 ^ size - 1) / 2 ^ 31 - k / 2 ^ 31 + 1)).all fun i =>
        let p := k / 2 ^ 31 + i
        paOnline s (min (k + 2 ^ size) ((p + 1) * 2 ^ 31) - 1)) &&
      !s.retired.any fun r => decide (k ≤ r) && decide (r < k + 2 ^ size))

/-- R165: the entry at an address has n - 1 aligned neighbours that form a consistent group with it. -/
def groupWhole (n addr step : Nat) (s : State) : State × Bool :=
  let base := addr - addr % (8 * n)
  let s := (List.range (n / 4)).foldl (fun s i => touch (base / 32 + i) s) s
  let e := fun i => readNat s (base + 8 * i) 8
  let pa := fun i => e i / 2 ^ 10 % 2 ^ 40
  (s, ((List.range (n / 4)).all fun i => !poisoned s (base / 32 + i)) && pa 0 % (step * n) == 0 &&
    (List.range n).all fun i => e i % 2 == 1 && e i / 2 ^ 9 % 2 == 1 && e i % 2 ^ 10 == e 0 % 2 ^ 10 && e i / 2 ^ 50 == e 0 / 2 ^ 50 &&
      pa i == pa 0 + i * step)

/-- R163, R165: the entry that a walk's leaf installs: a whole consistent group, else the leaf, else one page of it. -/
def widen (va level : Nat) (contig : Bool) (t : Trans) (s : State) : State × Trans :=
  let at' := fun z => ({ t with pa := t.pa - va % 2 ^ z / 4096 * 4096, size := z } : Trans)
  let leaf := fun (s : State) =>
    if t.rev then (s, t) else (s, if rangeUsable s (at' (12 + 9 * level)).pa (12 + 9 * level) then at' (12 + 9 * level) else t)
  if t.rev || !contig || level == 1 then leaf s
  else
    let z := if level = 0 then 16 else 33
    let g := groupWhole (if level = 0 then 16 else 8) t.pte (if level = 0 then 1 else 2 ^ 18) s
    if g.2 && rangeUsable g.1 (at' z).pa z then (g.1, at' z) else leaf g.1

/-- R166: translation of a page through the TLBs of a place and the walk. A walk that ends in a translation fills the
TLBs; a page-table error or an absent page leaves them alone (R167). Where a TLB still holds an entry that the tables have
changed, the access uses the old one (log 33). -/
def translate (place ctx rev va : Nat) (w : Want) (kind : Nat) (s : State) : State × Tr :=
  let ls := tlbLevels place
  match ls.findSome? (tlbFind s ctx rev va) with
  | some t =>
    let s := tlbFill ctx rev va t (ls.takeWhile fun p => (tlbFind s ctx rev va p).isNone) s
    (s, permit s (pageTrans va t) w)
  | none =>
    match walk ctx rev va s with
    | (s, .absent l) => (s, .fault kind l)
    | (s, .table l) => (s, .fault 11 l)
    | (s, .error) => (s, .trap 0x07)
    | (s, .leaf t level contig _) =>
      let r := widen va level contig t s
      (tlbFill ctx rev va r.2 ls r.1, permit r.1 t w)

/-- Removes the TLB entries that cover a page of a revision. -/
def tlbDrop (ctx rev vpn : Nat) (s : State) : State :=
  { s with tlb := s.tlb.filter fun e => !(tlbRev e.1 == rev && tlbCovers e.1 ctx (vpn * 4096)) }

/-- R167: removes every TLB entry of a context. -/
def tlbClear (ctx : Nat) (s : State) : State := { s with tlb := s.tlb.filter fun e => tlbCtx e.1 != ctx }

/-- R509: translates a structure's address as an engine access of the root revision; `anyAp` where the structure may lie
in host or peer memory. -/
def devTranslate (ctx va : Nat) (wr anyAp : Bool) (s : State) : State × DevRes :=
  match walk ctx 0 va s with
  | (s, .absent l) => (s, .fault l)
  | (s, .table l) => (s, .table l)
  | (s, .error) => (s, .fail 0x07)
  | (s, .leaf t _ _ ap) =>
    if ap == 0 || anyAp then
      match permit s t (if wr then .write else .read) with
      | .ok t => (s, .ok (t.pa + va % 4096))
      | .fault k _ => (s, .own k)
      | .trap c => (s, .fail c)
    else (s, .fail 0x08)

/-- Reads bytes at a virtual address as the device does for itself, as the root revision sees them (R509). -/
def devReadVirt (ctx va : Nat) (anyAp : Bool) (fuel n : Nat) (s : State) : State × Except DevRes (List Byte) :=
  readPieces (fun a s => devTranslate ctx a false anyAp s) va fuel n s

/-- R271, R272: a waiting fault serves an access: one of its own kind, or a copy-on-write step that has become one for
revision space. -/
def sameFault (kind : Nat) (f : FaultRec) : Bool := f.kind == kind || (kind == 9 && f.kind == 10)

/-- R172: the waiting fault of a page and kind, made where none waits. Kinds 0 to 5 send a record to the host. The
answer is its key. -/
def pageFault (ctx rev va kind level core : Nat) (s : State) : Nat × State :=
  match s.faults.find? fun f => f.ctx == ctx && f.vpn == va / 4096 && sameFault kind f && !f.dead && (f.rev == rev || kind ≤ 5) with
  | some f => (f.key, s)
  | none =>
    let f : FaultRec := {
      key := s.nextId, ctx := ctx, rev := rev, vpn := va / 4096, kind := kind,
      seq := (ctxOf s ctx).fseq, core := core, level := level, clk := s.clock }
    let s' := { s with nextId := s.nextId + 1, faults := s.faults ++ [f] }
    (f.key, if kind ≤ 5 then faultRecord ctx kind core level va s' else s')

/-- Marks a fault as one that an access of the device's own waits for. -/
def ownFault (key : Nat) (s : State) : State :=
  { s with faults := s.faults.map fun f => if f.key == key then { f with own := true } else f }

/-- R172: the fault that an access waits for. One whose region table awaits its page waits for the record of that page,
of kind 4 and core 255 (R263, R509). -/
def raiseFault (ctx rev va kind level core : Nat) (s : State) : Nat × State :=
  if kind = 11 then
    let x := ctxOf s ctx
    let r := pageFault ctx 0 (absentVa ctx x.regbase (16 * x.regcount) s) 4 level 255 s
    (r.1, ownFault r.1 r.2)
  else pageFault ctx rev va kind level core s

/-- A fault of the device's own that was answered unresolvable (R509). -/
def deadFault (ctx va kind : Nat) (f : FaultRec) : Bool := f.ctx == ctx && f.vpn == va / 4096 && f.kind == kind && f.dead

/-- The page and kind of the fault that an access of the device's own waits for: kind 11 stands for the page of its region
table (R263). -/
def devFault (ctx va kind : Nat) (s : State) : Nat × Nat :=
  if kind = 11 then (absentVa ctx (ctxOf s ctx).regbase (16 * (ctxOf s ctx).regcount) s, 4) else (va, kind)

/-- R509: an access of the device's own finds its page absent: it sends a record and waits; or, where the answer was
unresolvable, fails for good. -/
def devWait (ctx va kind level : Nat) (s : State) : State × Bool :=
  let f := devFault ctx va kind s
  if s.faults.any (deadFault ctx f.1 f.2) then (s, false)
  else
    let r := raiseFault ctx 0 va kind level 255 s
    (ownFault r.1 r.2, true)

/-- R509: an access of the device's own awaits the page that its translation lacks, its own (a record of a kind) or that of its
region table (R263); or fails for good. -/
def devPage (ctx va kind : Nat) (r : DevRes) (s : State) : State × Bool :=
  match r with
  | .fault l => devWait ctx va kind l s
  | .table l => devWait ctx va 11 l s
  | .own k => ((devWait ctx va k 0 s).1, true)
  | _ => (s, false)

/-- R509: unresolvable answers that the device has acted on: another access asks again. -/
def devForget (ctx : Nat) (s : State) : State := { s with faults := s.faults.filter fun f => !(f.ctx == ctx && f.dead) }

/-- The place of a core's TLB, or of its group's. -/
def groupPlace (core : Nat) : Nat := 192 + core / 12

end Sys2Proof.Machine
end

