-- ==== Sys2Proof/Machine/Life.lean ====
section
/-! DEFINITION. The lives of grids, blocks and contexts: completion, the error budget, revision-space stacks, freeing a
block, ending a context, rollback and kill (R201, R251 to R256, R272, R273, R283, R292, R310, R508). -/

set_option Elab.async false

namespace Sys2Proof.Machine

/-- A block that does not exist: the value that accessors answer for an absent key. -/
def Block.nil : Block := { gid := 0, ctx := 0, core := 0 }

/-- A warp that does not exist. -/
def Warp.nil : Warp := { bid := 0, num := 0, role := 3, quarter := 0 }

/-- A grid that does not exist. -/
def Grid.nil : Grid := { gid := 0, ctx := 0, pkt := {}, queue := 0, idx := 0 }

/-- The block of a key. -/
def blkOf (s : State) (b : Nat) : Block := lget Block.nil b s.blocks

/-- The warp of a key. -/
def warpOf (s : State) (w : Nat) : Warp := lget Warp.nil w s.warps

/-- The grid of a task number. -/
def gridOf (s : State) (g : Nat) : Grid := lget Grid.nil g s.grids

/-- Changes a block. -/
def modBlk (b : Nat) (f : Block → Block) (s : State) : State := { s with blocks := lmod b f s.blocks }

/-- Changes a warp. -/
def modWarp (w : Nat) (f : Warp → Warp) (s : State) : State := { s with warps := lmod w f s.warps }

/-- Changes a grid. -/
def modGrid (g : Nat) (f : Grid → Grid) (s : State) : State := { s with grids := lmod g f s.grids }

/-- R266: the revision of a block's task: its fork slot, or 0 for the root revision. -/
def revOf (s : State) (b : Nat) : Nat := (gridOf s (blkOf s b).gid).fork

/-- R272: pushes a page onto the stack of a class. -/
def pushPage (ctx cls pa : Nat) (s : State) : State :=
  let x := ctxOf s ctx
  let n := lget 0 cls x.stackCount
  modCtx ctx (fun x => { x with stackCount := lset 0 cls (n + 1) x.stackCount })
    (physWrite (lget 0 cls x.stackBase + 8 * n) (leBytes 8 pa) s)

/-- A page that can hold a revision's copy: 4 KiB of the usable memory of an online partition (R12, R239, R272). -/
def pageUsable (s : State) (pa : Nat) : Bool := pa % 4096 == 0 && paOnline s pa && paOnline s (pa + 4095)

/-- R272: the topmost usable page of a stack's entries, and how many entries lie below it. An entry that names no usable page is
passed over, which the spec does not say (DESIGN CHOICE, log 13). -/
def popFrom (s : State) (base : Nat) : Nat → Option (Nat × Nat)
  | 0 => none
  | n + 1 =>
    let pa := leNat (physRead s (base + 8 * n) 8)
    if pageUsable s pa then some (pa, n) else popFrom s base n

/-- R272: pops a page of a class. -/
def popPage (ctx cls : Nat) (s : State) : Option (Nat × State) :=
  let x := ctxOf s ctx
  (popFrom s (lget 0 cls x.stackBase) (lget 0 cls x.stackCount)).map fun e =>
    (e.1, modCtx ctx (fun x => { x with stackCount := lset 0 cls e.2 x.stackCount }) s)

/-- The local page that the page table of a context gives a page number, if any. -/
def ptePage (ctx vpn : Nat) (s : State) : Option Nat :=
  match walkPlain ctx (vpn * 4096) s with
  | (_, .leaf t _ _ 0) => some t.pa
  | _ => none

/-- The page that a revision sees. -/
def viewPage (ctx rev vpn : Nat) (s : State) : Option Nat :=
  match lfind (pageKey ctx rev vpn) s.revmap with
  | some p => some p.pa
  | none => ptePage ctx vpn s

/-- R273: some revision or fork of the context still sees a page under a page number. -/
def pageSeen (ctx vpn pa : Nat) (s : State) : Bool :=
  viewPage ctx 0 vpn s == some pa ||
  s.forks.any (fun e => e.2.state != 0 && e.2.ctx == ctx &&
    (viewPage ctx e.1 vpn s == some pa || (match lfind vpn e.2.anc with | some a => a == pa | none => ptePage ctx vpn s == some pa)))

/-- Inserts at a place that a free value chooses. -/
def freeInsert {α : Type} (n : Nat) (x : α) (l : List α) : List α :=
  let i := (Config.freeWord n).toNat % (l.length + 1)
  l.take i ++ x :: l.drop i

/-- R283: discards every revision of a context without merging; the pages go back in an order that the spec leaves
open (log 13). -/
def discardRevisions (ctx : Nat) (s : State) : State :=
  let mine := s.revmap.filter fun e => e.1 / 2 ^ 44 / 512 == ctx
  let rootPages := (mine.filter fun e => e.1 / 2 ^ 44 % 512 == 0).map fun e => e.2.pa
  let kept := fun (vpn pa : Nat) => rootPages.contains pa ||
    ((lfind (pageKey ctx 0 vpn) s.revmap).isNone && ptePage ctx vpn s == some pa)
  let childPages := (mine.filter fun e => e.1 / 2 ^ 44 % 512 != 0).map fun e => (e.1 % 2 ^ 44, e.2.pa)
  let ancPages := ((s.forks.filter fun e => e.2.state != 0 && e.2.ctx == ctx).map fun e =>
    e.2.anc.map (fun a => (a.1, a.2)) ++ e.2.parentCopied.filterMap fun v =>
      if (lfind v e.2.anc).isSome then none else (ptePage ctx v s).map fun p => (v, p)).flatten
  let pages := (((childPages ++ ancPages).filter fun e => !kept e.1 e.2).map fun e => e.2).eraseDups
  let perm := pages.foldl (fun (acc : Nat × List Nat) p => (acc.1 + 1, freeInsert acc.1 p acc.2)) (s.frees, [])
  let s := { s with
    frees := perm.1
    revmap := s.revmap.filter fun e => !(e.1 / 2 ^ 44 / 512 == ctx && e.1 / 2 ^ 44 % 512 != 0)
    forks := s.forks.map fun e => if e.2.ctx == ctx then (e.1, { gen := e.2.gen }) else e
    forkReqs := s.forkReqs.filter fun r => (blkOf s (warpOf s r.wk).bid).ctx != ctx
    tlb := s.tlb.filter fun e => !(tlbCtx e.1 == ctx && tlbRev e.1 != 0) }
  perm.2.foldl (fun s p => pushPage ctx (partOf s p).cls p s) s

/-- R509: the place that the device writes at a completion: waiting for a page; dropped; or a memory key. -/
inductive Dest where
  | wait
  | drop
  | key (k : Nat)
  deriving DecidableEq, Repr

/-- R179: the link that a memory key needs is in recovery, or its far end is unreachable. -/
def linkState (s : State) (k : Nat) : Link := match linkOf k with | some n => lget {} n s.links | none => {}

/-- R179, R288, R509: translates the record's or the signal's address for its write; 0 gives none. A write waits for a link
in recovery and is dropped at an unreachable peer. -/
def completionDest (ctx va : Nat) (s : State) : State × Dest :=
  if va = 0 then (s, .drop)
  else
    match devTranslate ctx va true true s with
    | (s, .ok k) =>
      let l := linkState s k
      (s, if l.unreachable then .drop else if l.recovery.isSome then .wait else .key k)
    | (s, .fail _) => (s, .drop)
    | (s, r) =>
      let w := devPage ctx va 5 r s
      (w.1, if w.2 then .wait else .drop)

/-- R109, R110: sets sticky flags of a block, seen from the next cycle on; bits 31 to 8 stay zero. -/
def setFlags (b : Nat) (f : Word) (s : State) : State :=
  modBlk b (fun x => { x with flagsNow := x.flagsNow ||| (f &&& 0xFF) }) s

/-- R204: the reservations of a block are given up. -/
def unreserve (b : Nat) (s : State) : State := { s with resvs := s.resvs.filter fun e => e.2 != b }

/-- The sector that an uncommitted sector of a block is written to: a revisioned page is followed (R267, R270). -/
def commitSector (s : State) (b sec : Nat) : Nat :=
  match lfind sec (blkOf s b).uVpn with
  | some v => (match viewPage (blkOf s b).ctx (revOf s b) (v - 1) s with | some p => p / 32 + sec % 128 | none => sec)
  | none => sec

/-- Writes the uncommitted bytes of one sector at its home slice, with the stamp that its writes leave (R194, R205,
R250). -/
def writeThrough (b sec : Nat) (s : State) : State :=
  let x := blkOf s b
  let u := x.uncommitted.filter fun e => e.1 / 32 == sec
  let home := commitSector s b sec
  let st := match lfind sec x.uStamp with | some v => StampOp.set v | none => .keep
  let s := u.foldl (fun s e => l1Update x.core (32 * home + e.1 % 32) [e.2] s) s
  ownSector home x.ctx (if u.length = 32 then sliceWrite (32 * home) (u.map fun e => e.2) st s
    else u.foldl (fun s e => sliceWrite (32 * home + e.1 % 32) [e.2] st s) s)

/-- Writes uncommitted sectors through, in order, and forgets all that the block holds (R205, R250). -/
def flushSectors (b : Nat) (secs : List Nat) (s : State) : State :=
  unreserve b (modBlk b (fun x => { x with uncommitted := [], order1 := [], uStamp := [], uVpn := [] })
    (secs.foldl (fun s sec => writeThrough b sec s) s))

/-- The Assured blocks that reserve sectors to which another block is about to write its uncommitted lines through. -/
def rivals (b : Nat) (s : State) : List Nat :=
  (((blkOf s b).order1.filterMap fun sec => lfind (commitSector s b sec) s.resvs).filter fun r => r != b).eraseDups

/-- R205: an Assured interval becomes exposed, given what writes its lines through: EX is set. -/
def exposeWith (flush : Nat → State → State) (b : Nat) (s : State) : State :=
  if (blkOf s b).cls ≠ 2 ∨ (blkOf s b).exposed then s
  else modBlk b (fun x => { x with exposed := true }) (setFlags b 0x80 (flush b s))

/-- Writes every uncommitted sector through, in the order of its first write (R205, R250). Where another block reserves one,
no write may come between the read and the write of its read-modify-write (R187): it is exposed first, after the block's own
reserved sectors have gone (log 52). -/
def flushWith : Nat → Nat → State → State
  | 0, b, s => flushSectors b (blkOf s b).order1 s
  | fuel + 1, b, s =>
    match rivals b s with
    | [] => flushSectors b (blkOf s b).order1 s
    | rs =>
      let own := fun sec => lfind sec s.resvs == some b
      let s1 := unreserve b (((blkOf s b).order1.filter own).foldl (fun t sec => writeThrough b sec t) s)
      flushSectors b ((blkOf s b).order1.filter fun sec => !own sec) (rs.foldl (fun t r => exposeWith (flushWith fuel) r t) s1)

/-- R205, R250: a block's uncommitted lines are written through. -/
def flushUncommitted (b : Nat) (s : State) : State := flushWith s.blocks.length b s

/-- R205: an Assured interval becomes exposed: its uncommitted lines are written through and EX is set. -/
def exposeInterval (b : Nat) (s : State) : State := exposeWith flushUncommitted b s

/-- R187, R204: a write, or an ATOM or RED, of another agent reaches a reserved sector: the reserving interval becomes exposed
first (log 52). Agent 0 is no block. -/
def breakReservation (b sec : Nat) (s : State) : State :=
  match lfind sec s.resvs with
  | some r => if r = b then s else exposeInterval r s
  | none => s

/-- The stamp of the device's own release at system scope (R292; DESIGN CHOICE, log 51): no warp and no block. -/
def deviceStamp : Stamp := { scope := 4, dev := Config.peerNumber, warp := 0, block := 0, pod := 0xFFFFF }

/-- R292: the 128 bits of a completion record. -/
def completionRecord (pkt : Packet) (status reason : Nat) (s : State) : Nat :=
  timeOf s % 2 ^ 64 * 2 ^ 64 + (if pkt.deadline ≠ 0 ∧ timeOf s > pkt.deadline then 2 ^ 40 else 0) + reason % 256 * 2 ^ 32 +
    status % 2 ^ 32

/-- R201, R292: adds 1 to a completion signal with a release at system scope. -/
def addSignal (k : Nat) (s : State) : State := sliceWrite k (leBytes 8 ((readNat s k 8 + 1) % 2 ^ 64)) (.set (some deviceStamp)) s

/-- R288, R292, R509: writes a completion record, adds 1 to the signal, and raises the queue's interrupt. An address
that cannot be used drops its write. The answer is false where a page must be awaited, and nothing has been written. -/
def completionWrites (ctx : Nat) (pkt : Packet) (queue status reason : Nat) (s : State) : State × Bool :=
  match completionDest ctx pkt.record s with
  | (s, .wait) => (s, false)
  | (s, r) =>
    match completionDest ctx pkt.signal s with
    | (s, .wait) => (s, false)
    | (s, g) =>
      let s := match r with
        | .key k => sliceWrite k (leBytes 16 (completionRecord pkt status reason s)) (.set none) (breakReservation 0 (k / 32) s)
        | _ => s
      let s := match g with
        | .key k => addSignal k (touch (k / 32) (breakReservation 0 (k / 32) s))
        | _ => s
      let s := devForget ctx s
      (if pkt.irq then interrupt (((lget ({} : Queue) queue s.queues).control >>> 16).toNat % 256) s else s, true)

/-- R290: after a completion or a doorbell the wait words of every head are read again. -/
def repoll (s : State) : State := { s with polled := 0 }

/-- R292: a grid completes and leaves the device; a forked task's slot becomes complete (R278). A page that is absent
leaves the completion waiting with a fault record of kind 5 (R509). -/
def completeGrid (gid status : Nat) (s : State) : State :=
  match lfind gid s.grids with
  | none => s
  | some g =>
    match completionWrites g.ctx g.pkt g.queue status 0 s with
    | (s, false) => s
    | (s, true) => repoll { s with
        grids := ldel gid s.grids
        forks := if g.fork = 0 then s.forks else lmod g.fork (fun f => { f with state := if f.state = 1 then 2 else f.state }) s.forks }

/-- R250, R253, R310: stores of a block are uncommitted: they are performed into the lines of an interval that has not been
exposed. -/
def holdsStores (x : Block) : Bool := x.cls == 2 && !x.exposed

/-- Frees what a block holds on its core: warps, locks, engine operations, binding, checkpoint, uncommitted stores. -/
def dropBlock (b : Nat) (s : State) : State :=
  let wks := (blkOf s b).wks
  unreserve b { s with
    stores := s.stores.filter fun t => !(t.bid == b && holdsStores (blkOf s b))
    blocks := ldel b s.blocks
    warps := s.warps.filter fun e => e.2.bid != b
    locks := s.locks.filter fun l => l.bid != b
    copies := s.copies.filter fun c => c.bid != b
    mats := s.mats.filter fun m => m.bid != b
    fabs := lmap (fun _ f => { f with blocks := f.blocks.filter fun x => x != b }) s.fabs
    forkReqs := s.forkReqs.filter fun r => !wks.contains r.wk
    ckpts := ldel b s.ckpts }

/-- Cancels the engine operations of a block and frees its range locks (R251, R310). -/
def cancelEngines (b : Nat) (s : State) : State :=
  { s with
    locks := s.locks.filter fun l => l.bid != b
    copies := s.copies.filter fun c => c.bid != b
    mats := s.mats.filter fun m => m.bid != b }

/-- Changes a queue. -/
def modQueue (q : Nat) (f : Queue → Queue) (s : State) : State :=
  { s with queues := lset {} q (f (lget {} q s.queues)) s.queues }

/-- R286: the packet at the head of a queue leaves it. -/
def advanceQueue (q : Nat) (s : State) : State :=
  modQueue q (fun x => { x with
    rdidx := x.rdidx + 1, reported := false, act := none, sel := false, ready := false, verdict := none
    arrivals := x.arrivals.filter fun e => decide (e.1 > x.rdidx + 1) }) s

/-- R310: a queue of an ended context is disabled until the host enables it again. -/
def disableQueue (ctx : Nat) (q : Queue) : Queue :=
  if (q.control >>> 8).toNat % 64 = ctx then
    { q with control := q.control &&& ~~~(BitVec.ofNat 64 (2 ^ 31)), reported := false, act := none, sel := false, ready := false, verdict := none }
  else q

/-- R310: ends a context: its warps stop at once, its operations, uncommitted data, side-log entries, revisions and
husks go, its grids complete with status 3, and its queues are disabled. It then reads failed (R508; log 15). -/
def endContext (ctx : Nat) (s : State) : State :=
  let bids := (s.blocks.filter fun e => e.2.ctx == ctx).map fun e => e.1
  let s := bids.foldl (fun s b => dropBlock b s) s
  let s := { s with
    side := s.side.filter fun e => e.ctx != ctx
    faults := s.faults.filter fun f => f.ctx != ctx
    husks := s.husks.filter fun e => e.2.blk.ctx != ctx
    saves := s.saves.filter fun e => e.2.2.blk.ctx != ctx
    fabs := lmap (fun _ f => if f.ctx = ctx then { f with image := {} } else f) s.fabs }
  let waiting : SMap Grid := (s.forks.filter fun e => e.2.ctx == ctx).filterMap fun e =>
    e.2.pending.map fun p => (2 ^ 32 + e.1, { gid := 2 ^ 32 + e.1, ctx := ctx, pkt := p, queue := e.2.queue, idx := 0, fork := e.1 })
  let s := discardRevisions ctx s
  let begun := s.grids.filter fun e => e.2.ctx == ctx
  let s := { s with grids := s.grids.filter fun e => e.2.ctx != ctx }
  let s := (begun.filter fun e => e.2.fork == 0 && e.2.placed == 0 && e.2.final.isNone).foldl (fun s e => advanceQueue e.2.queue s) s
  let s := (begun ++ waiting).foldl (fun s (e : Nat × Grid) =>
    match completionWrites ctx e.2.pkt e.2.queue (e.2.final.getD 3) 0 s with
    | (s, true) => s
    | (s, false) => { s with grids := lput e.1 { e.2 with fork := 0, final := some (e.2.final.getD 3) } s.grids }) s
  let s := { s with queues := lmap (fun _ q => disableQueue ctx q) s.queues }
  repoll (modCtx ctx (fun x => { x with failed := true }) s)

/-- The contexts of a core group's Huller. -/
def groupFabs (core : Nat) : List Nat := (List.range 4).map fun i => 4 * (core / 12) + i

/-- R218: a context of the group that holds the image of a block's object, attached to or free. -/
def sameImage (s : State) (bid idx : Nat) : Option Nat :=
  let b := blkOf s bid
  (groupFabs b.core).find? fun f =>
    let x := lget {} f s.fabs
    !x.image.routes.isEmpty && x.ctx == b.ctx && x.object == (gridOf s b.gid).pkt.object && x.graph == idx

/-- R218: a free context of the group: the lowest, which the spec does not say (log 44). -/
def freeFab (s : State) (core : Nat) : Option Nat := (groupFabs core).find? fun f => (lget {} f s.fabs).blocks.isEmpty

/-- R219: an HBIND waits for a free context. -/
def hbindWaits (s : State) (op : CopyOp) : Bool :=
  op.kind == .hbind && op.started && op.err.isNone && (match op.graph with
    | some idx => decide (idx < (gridOf s (blkOf s op.bid).gid).obj.ngraphs) && (sameImage s op.bid idx).isNone &&
        (freeFab s op.core).isNone
    | none => false)

/-- R219: an HBIND is returned to issue: its counter's increment is withdrawn. A binding that no instruction asked for is
only given up: the block's binding stays in its state, and is made again. -/
def returnBind (op : CopyOp) (s : State) : State :=
  let s := { s with copies := s.copies.filter fun c => c.id != op.id, locks := s.locks.filter fun l => l.op != op.id }
  if op.auto then s
  else
    modBlk op.bid (fun b => { b with returned := sortBy (fun (c : CopyOp) => c.id) (b.returned ++ [op]) })
      (modWarp op.wk (fun w => { w with cnt := lset 0 op.cnt (lget 0 op.cnt w.cnt - 1) w.cnt }) s)

/-- R219: the first operation of copy queue 3 of a core waits for a free context, and so does what stands behind it. -/
def bindsWait (s : State) (core : Nat) : Bool :=
  match s.copies.find? fun c => c.core == core && c.queue == 3 with
  | some c => hbindWaits s c
  | none => false

/-- R219: where the bindings of a core wait for a free context, those of blocks that are to leave it return to issue. One
that begins to wait after the stop has been decided returns too (log 44). -/
def returnBinds (core : Nat) (s : State) : State :=
  if bindsWait s core then
    (s.copies.filter fun c => c.core == core && c.kind == .hbind && (blkOf s c.bid).stopAt.isSome && !(blkOf s c.bid).moveStop).foldl
      (fun s c => returnBind c s) s
  else s

/-- Orders a block to stop at its points (R298). -/
def stopBlock (b : Nat) (s : State) : State :=
  returnBinds (blkOf s b).core
    (modBlk b (fun x => if x.stopAt.isSome then { x with moveStop := false } else { x with stopAt := some s.clock }) s)

/-- Orders every block of a context to stop (R256, control[0] of R326). -/
def stopContext (ctx : Nat) (s : State) : State :=
  ((s.blocks.filter fun e => e.2.ctx == ctx).map fun e => e.1).foldl (fun s b => stopBlock b s) s

/-- R256: the budget reaches 0: the context's grids are pre-empted and the host told. -/
def exhaust (ctx : Nat) (s : State) : State :=
  if (ctxOf s ctx).exhausted then s
  else eventRecord ctx 3 0x21 0xFF 0 0 0 (stopContext ctx (modCtx ctx (fun x => { x with exhausted := true }) s))

/-- R256: one decrement of sr.ebud, never below 0. -/
def chargeBudget (ctx : Nat) (s : State) : State :=
  match (ctxOf s ctx).ebud with
  | 0 => s
  | 1 => exhaust ctx (modCtx ctx (fun x => { x with ebud := 0 }) s)
  | n + 1 => modCtx ctx (fun x => { x with ebud := n }) s

/-- R254, R257: a consumed uncorrectable error outside Assured kernels: counted and charged once. -/
def consume (ctx : Nat) (s : State) : State :=
  chargeBudget ctx (modCtx ctx (fun x => { x with uecnt := satInc x.uecnt }) s)

/-- R253, R262: kills an Assured block and tells the host; its context fails, and so ends as R310 gives (log 15). -/
def killBlock (b cause : Nat) (s : State) : State :=
  let x := blkOf s b
  let s := { s with side := s.side.filter fun e => e.bid != b }
  let s := dropBlock b s
  let s := modCtx x.ctx (fun c => { c with kcnt := satInc c.kcnt }) s
  endContext x.ctx (eventRecord x.ctx 4 cause x.core 0 0 b s)

/-- The key of a per-lane register. -/
def laneKey (reg lane : Nat) : Nat := 32 * reg + lane

/-- The key of a byte of a block's local store. -/
def storeKey (sp a : Nat) : Nat := sp * 2 ^ 20 + a

/-- Bytes of a block's local store (R138, R139). -/
def storeBytes (b : Block) (sp a n : Nat) : List Byte := (List.range n).map fun i => lget 0 (storeKey sp (a + i)) b.ls

/-- The journal unit of a byte of a store (R249). -/
def storeUnit (sp a : Nat) : Nat := 2 ^ 60 + sp * 2 ^ 20 + a / 128

/-- Writes bytes of a block's local store (R139). -/
def storePut (sp a : Nat) (bs : List Byte) (b : Block) : Block :=
  { b with
    ls := (List.range bs.length).foldl (fun m i => lset 0 (storeKey sp (a + i)) (bs.getD i 0) m) b.ls
    bad := if b.bad.isEmpty then [] else
      b.bad.filter fun e => decide (4 * e.1 + 4 ≤ storeKey sp a) || decide (storeKey sp a + bs.length ≤ 4 * e.1) }

/-- R249: the contents of a journal unit: a register across the lanes of a lead, or of a twin where the number is odd, or 128
bytes of a local store. -/
def unitWords (s : State) (b u : Nat) : List Word :=
  if u ≥ 2 ^ 60 then
    (List.range 32).map fun i => BitVec.ofNat 32 (leNat (storeBytes (blkOf s b) ((u - 2 ^ 60) / 2 ^ 20) (128 * (u % 2 ^ 20) + 4 * i) 4))
  else
    let w := warpOf s (u / 256)
    (List.range 32).map fun l => lget 0 (laneKey (u / 2 % 128) l) (if u % 2 = 0 then w.r.w else w.tw.w)

/-- Puts a register's old contents back; its words are written, and fail no more. -/
def undoReg (reg : Nat) (ws : List Word) (r : Regs) : Regs :=
  { r with
    w := (List.range 32).foldl (fun m l => lset 0 (laneKey reg l) (ws.getD l 0) m) r.w
    bad := r.bad.filter fun e => !(e.1 == 0 && e.2.1 == reg) }

/-- R251: puts a journal unit's old contents back. -/
def undoUnit (b u : Nat) (ws : List Word) (s : State) : State :=
  if u ≥ 2 ^ 60 then
    modBlk b (storePut ((u - 2 ^ 60) / 2 ^ 20) (128 * (u % 2 ^ 20)) (ws.map fun w => leBytes 4 w.toNat).flatten) s
  else
    modWarp (u / 256) (fun w =>
      if u % 2 = 0 then { w with r := undoReg (u / 2 % 128) ws w.r } else { w with tw := undoReg (u / 2 % 128) ws w.tw }) s

/-- R248, R251: a register copy at its checkpoint, but for the w registers, which the journal restores: a failing word of
theirs stays so until it is written. -/
def restoreRegs (c r : Regs) : Regs := { c with w := r.w, marks := [], bad := r.bad.filter fun e => e.1 == 0 }

/-- R248, R251: a warp at its checkpoint. Skip and pass counts are no part of it. -/
def restoreWarp (c w : Warp) : Warp :=
  { c with
    r := restoreRegs c.r w.r
    tw := restoreRegs c.tw w.tw
    lanes := lmap (fun l (x : Lane) => { x with skip := (lget {} l w.lanes).skip }) c.lanes
    cntSeen := c.cnt
    pass := w.pass
    twPass := w.twPass
    idle := w.idle
    trace := []
    cmps := [] }

/-- R248, R251: a block's control state at its checkpoint. Its local stores are the journal's, its tries go on, and a
stop that has been decided stays decided. -/
def restoreCtl (c x : Block) : Block :=
  { c with ls := x.ls, bad := x.bad, badLog := [], badCtl := [], badLines := [], stopAt := x.stopAt, moveStop := x.moveStop, tries := x.tries + 1 }

/-- R219: the device binds graph idx for a block before its warps issue (R248, R289): an HBIND that no instruction issues. -/
def autoBind (b idx : Nat) (s : State) : State :=
  let x := blkOf s b
  modBlk b (fun x => { x with bind := some idx }) { s with
    nextId := s.nextId + 1
    copies := s.copies ++ [{
      id := s.nextId, kind := .hbind, bid := b, wk := x.wks.headD 0, core := x.core, queue := 3, cnt := 15, graph := some idx
      auto := true }] }

/-- R248: the binding at the checkpoint is made again where the interval has changed it (log 34). -/
def restoreBind (b : Nat) (old new : Option Nat) (s : State) : State :=
  if old = new ∧ (new.isNone ∨ s.fabs.any (fun f => f.2.blocks.contains b) = true) then s
  else
    let s := { s with fabs := lmap (fun _ f => { f with blocks := f.blocks.filter fun x => x != b }) s.fabs }
    match new with
    | none => s
    | some g => autoBind b g s

/-- R251: rolls an unexposed Assured block back to its checkpoint, and kills it at the third rollback of the interval;
an exposed interval is killed at once (R252). A fork point that was performed before the checkpoint is not undone (R284). The cause is that of the condition. An interval whose journal holds an
uncorrectable unit cannot be undone: its block is killed (log 35). -/
def rollback (b cause : Nat) (s : State) : State :=
  let x := blkOf s b
  if x.exposed ∨ x.badLog.any (fun u => (lfind u x.journal).isSome) = true then killBlock b cause s
  else
    match lfind b s.ckpts with
    | none => killBlock b cause s
    | some c =>
      let s := cancelEngines b s
      let s := x.journal.foldl (fun s e => undoUnit b e.1 e.2 s) s
      let s := unreserve b { s with
        side := s.side.filter fun e => e.bid != b
        stores := s.stores.filter fun e => e.bid != b
        warps := c.warps.foldl (fun m e => lmod e.1 (fun w => restoreWarp e.2 w) m) s.warps
        mats := sortBy (fun m => m.id) (s.mats ++ c.mats)
        locks := s.locks ++ c.locks
        forkReqs := s.forkReqs.filter fun r => !x.wks.contains r.wk || r.done.isSome || r.refuse.isSome }
      let s := restoreBind b x.bind c.blk.bind (modBlk b (restoreCtl c.blk) s)
      let s := chargeBudget x.ctx (modCtx x.ctx (fun c => { c with rbcnt := satInc c.rbcnt }) s)
      if x.tries + 1 = 3 then killBlock b cause s else s

end Sys2Proof.Machine
end

