-- ==== Sys2Proof/Machine/Ops.lean ====
section
/-! DEFINITION. The named operations over registers, lanes and traps: reading and writing registers, the active lanes of
the issuing bundle, moving lanes, taking an exception and what Assured intervals add (R29 to R32, R35, R38, R41, R43,
R111, R195, R205, R244, R249, R252, R304, R305). -/

set_option Elab.async false

namespace Sys2Proof.Machine

/-- The warp of the issuing bundle. -/
def curWarp (s : State) : Warp := warpOf s s.iss.wk

/-- The block of the issuing bundle. -/
def curBlk (s : State) : Block := blkOf s s.iss.bid

/-- The grid of the issuing bundle. -/
def curGrid (s : State) : Grid := gridOf s (curBlk s).gid

/-- Changes the warp of the issuing bundle. -/
def modCur (f : Warp → Warp) (s : State) : State := modWarp s.iss.wk f s

/-- The registers that the issuing bundle reads (R244). -/
def regsOf (s : State) : Regs := if s.iss.side = .twin then (curWarp s).tw else (curWarp s).r

/-- Changes the registers of a warp that a side writes: the lead's, the twin's, or both (R244). -/
def sideRegs (d : Side) (f : Regs → Regs) (w : Warp) : Warp :=
  match d with
  | .lead => { w with r := f w.r }
  | .twin => { w with tw := f w.tw }
  | .both => { w with r := f w.r, tw := f w.tw }

/-- Changes the registers that the issuing bundle writes. -/
def modRegs (f : Regs → Regs) (s : State) : State := modCur (sideRegs s.iss.side f) s

/-- w register `reg` of a lane (R30, R42). -/
def readW (s : State) (reg lane : Nat) : Word := lget 0 (laneKey reg lane) (regsOf s).w

/-- A w pair of a lane as a 64-bit value, lower word first. -/
def readD (s : State) (reg lane : Nat) : BitVec 64 := readW s (reg + 1) lane ++ readW s reg lane

/-- p register of a lane; p0 is always true (R32, R342). -/
def readP (s : State) (reg lane : Nat) : Bool := reg == 0 || lget false (laneKey reg lane) (regsOf s).p

/-- e register of a lane (R107). -/
def readE (s : State) (reg lane : Nat) : Word := lget 0 (laneKey reg lane) (regsOf s).e

/-- q register of the warp (R30). -/
def readQ (s : State) (reg : Nat) : Word := lget 0 reg (regsOf s).q

/-- R238: the failing words that are left once a word is written. -/
def healed (kind reg lane : Nat) (bad : List (Nat × Nat × Nat)) : List (Nat × Nat × Nat) :=
  bad.filter fun e => !(e == (kind, reg, lane))

/-- Writes a w register of a lane. -/
def writeW (reg lane : Nat) (v : Word) (s : State) : State :=
  modRegs (fun r => { r with w := lset 0 (laneKey reg lane) v r.w, bad := healed 0 reg lane r.bad }) s

/-- Writes a w pair of a lane. -/
def writeD (reg lane : Nat) (v : BitVec 64) (s : State) : State :=
  writeW (reg + 1) lane (v.extractLsb' 32 32) (writeW reg lane (v.extractLsb' 0 32) s)

/-- Writes a p register of a lane; a write to p0 is discarded (R342). -/
def writeP (reg lane : Nat) (v : Bool) (s : State) : State :=
  if reg = 0 then s else modRegs (fun r => { r with p := lset false (laneKey reg lane) v r.p, bad := healed 2 reg lane r.bad }) s

/-- Writes an e register of a lane. -/
def writeE (reg lane : Nat) (v : Word) (s : State) : State :=
  modRegs (fun r => { r with e := lset 0 (laneKey reg lane) v r.e, bad := healed 3 reg lane r.bad }) s

/-- Writes a q register. -/
def writeQ (reg : Nat) (v : Word) (s : State) : State :=
  modRegs (fun r => { r with q := lset 0 reg v r.q, bad := healed 1 reg 0 r.bad }) s

/-- A lane of a warp; an absent lane is not launched. -/
def laneOf (w : Warp) (l : Nat) : Option Lane := lfind l w.lanes

/-- A helper lane of the issuing warp (R26, R47). -/
def isHelper (s : State) (l : Nat) : Bool := match laneOf (curWarp s) l with | some x => x.helper | none => false

/-- Mask mk of a warp (R43). -/
def maskOf (w : Warp) (k : Nat) : Word := lget 0 k w.r.masks

/-- Mask mk as the issuing bundle sees it: a twin has its own copy (R462). -/
def readMask (s : State) (k : Nat) : Word := lget 0 k (regsOf s).masks

/-- Writes mask mk, of the side that the bundle writes. -/
def writeMask (k : Nat) (v : Word) (s : State) : State := modRegs (fun r => { r with masks := lset 0 k v r.masks }) s

/-- The prefix of the issuing instruction. -/
def curPfx (s : State) : Pfx := if s.iss.hasPfx then pfxOf s.iss.pfx else Pfx.none

/-- R41, R343, R348: a lane of the bundle is active when both guards hold and the execution mask admits it. -/
def laneActive (s : State) (g l : Nat) : Bool :=
  s.iss.lanes.getLsbD l && readP s g l && (readP s (curPfx s).pg.toNat l != (curPfx s).neg) &&
    ((curPfx s).mask.toNat == 0 || (readMask s ((curPfx s).mask.toNat - 1)).getLsbD l)

/-- The active lanes of the bundle under a guard field (R41). -/
def active (s : State) (g : Nat) : Word := laneSet ((List.range 32).filter fun l => laneActive s g l)

/-- Changes the lanes of a set. -/
def modLanes (ls : Word) (f : Lane → Lane) (w : Warp) : Warp :=
  { w with lanes := lmap (fun l x => if ls.getLsbD l then f x else x) w.lanes }

/-- R200, R511: a warp's fetched words are gone: its lanes that stand inside a clause fetch the rest of it when they next
issue. -/
def staleWords (w : Warp) : Warp :=
  { w with fetched := [], lanes := lmap (fun _ (x : Lane) => { x with refetch := x.clause.isSome }) w.lanes }

/-- Applies an effect to each lane of a set in ascending order. -/
def eachLane (ls : Word) (f : Nat → State → State) (s : State) : State := (lanesOf ls).foldl (fun s l => f l s) s

/-- The result of a lane-wise function, written after every lane has read its operands: lane values computed on the
state before the instruction. -/
def writeLanes (ls : Word) (reg : Nat) (f : Nat → Word) (s : State) : State := eachLane ls (fun l => writeW reg l (f l)) s

/-- The same for pairs. -/
def writeLanesD (ls : Word) (reg : Nat) (f : Nat → BitVec 64) (s : State) : State := eachLane ls (fun l => writeD reg l (f l)) s

/-- The same for predicates. -/
def writeLanesP (ls : Word) (reg : Nat) (f : Nat → Bool) (s : State) : State := eachLane ls (fun l => writeP reg l (f l)) s

/-- R38: cycles that a stall code asks for. -/
def stallOf (hdr : Word) : Nat := match hdr.toNat % 4 with | 0 => 0 | 1 => 1 | 2 => 3 | _ => 7

/-- Moves lanes of the issuing warp to an offset: inside the clause, or to a header. `wait` is the number of further
cycles in which they are not ready, beside the clause's stall hint where the instruction is its last (R38). -/
def moveLanes (ls : Word) (pc : Word) (inside : Bool) (wait : Nat) (s : State) : State :=
  let stall := if s.iss.last then stallOf s.iss.hdr else 0
  modCur (modLanes ls fun x => { x with
    pc := pc
    clause := if inside then some (s.iss.hoff, s.iss.hdr) else none
    bubble := max wait stall + 1
    watch := if s.iss.last then s.clock * 1024 + s.slot + 1 else x.watch
    hold := .none
    refetch := x.refetch && inside
    group := 0 }) s

/-- The bundle goes on to the next word, or to the header that follows the clause. -/
def advance (ls : Word) (s : State) : State :=
  if s.iss.last then moveLanes ls s.iss.hnext false 0 s else moveLanes ls s.iss.next true 0 s

/-- Holds lanes of the issuing warp at their instruction (R36). The stall hint of a clause that it ends counts from this issue
(R38). -/
def holdLanes (ls : Word) (h : Hold) (s : State) : State :=
  modCur (modLanes ls fun x => { x with
    pc := s.iss.pc
    clause := some (s.iss.hoff, s.iss.hdr)
    hold := h
    len := if s.iss.hasPfx then 8 else 4
    bubble := (if s.iss.last then stallOf s.iss.hdr else 0) + 1
    watch := if s.iss.last then s.clock * 1024 + s.slot + 1 else x.watch
    group := 0 }) s

/-- Releases a held lane past its instruction: the offset and clause state that follow (R44, R383). What is left of the
clause's stall hint, which counts from the issue, still holds it (R38, R45). -/
def releaseLane (group : Nat) (x : Lane) : Lane :=
  match x.clause with
  | some (h, hw) =>
    let nx := x.pc + BitVec.ofNat 32 x.len
    let fin := h + BitVec.ofNat 32 (4 * ((hw.extractLsb' 25 4).toNat + 1))
    { x with
      pc := nx
      clause := if nx = fin then none else x.clause
      hold := .none
      group := group }
  | none => { x with hold := .none, group := group }

/-- Writes the four trap registers (R304). -/
def trapRegs (cause : Nat) (async : Bool) (tpc : Word) (addr : Nat) (w : Warp) : Warp :=
  { w with
    tcause := BitVec.ofNat 32 (cause % 256 + if async then 256 else 0)
    tpc := tpc &&& 0xFFFFFFFC
    taddr := BitVec.ofNat 32 addr
    taddrhi := BitVec.ofNat 32 (addr / 2 ^ 32) }

/-- The handler offset of a block's kernel, if its packet gave one (R288). -/
def handlerOf (s : State) (b : Nat) : Option Word :=
  let h := (gridOf s (blkOf s b).gid).pkt.handler
  if h = 0xFFFFFFFF then none else some (BitVec.ofNat 32 h)

/-- R244: the trace takes an entry of a bundle that enters a trap handler; a comparison that has agreed for lanes that
trap is made anew when they come back (R246). -/
def traceTrap (wk : Nat) (ls tpc : Word) (w : Warp) : Warp :=
  { w with
    trace := w.trace ++ [{ iss := { live := true, wk := wk, lanes := ls, pc := tpc }, instr := none, trap := true }]
    cmps := w.cmps.filter fun c => !(c.agreed && (c.iss.lanes &&& ls) != 0) }

/-- R340: offsets of the instruction words of prefixed pairs in a clause whose words the warp holds. -/
def pairWords (w : Warp) : Option (Word × Word) → List Nat
  | some (h, hw) => ((List.range ((headerOf hw).count.toNat - 1)).map fun i => (h + BitVec.ofNat 32 (4 * (i + 2))).toNat).filter fun o =>
      opPrefix (opByte (lget 0 (o - 4) w.fetched)) && !opPrefix (opByte (lget 0 o w.fetched))
  | none => []

/-- R304, R305: a warp takes a trap. Without a handler its context ends with an event record of kind 0. Inside the
handler an asynchronous cause is deferred, and a synchronous one rolls an Assured block back and ends any other
block's context with an event record of kind 1. Otherwise the registers are written and the trapping lanes enter the
handler; the warp's other lanes wait for TRET. -/
def takeTrap (wk : Nat) (ls : Word) (cause : Nat) (async : Bool) (tpc : Word) (addr : Nat) (cl : Option (Word × Word))
    (s : State) : State :=
  let w := warpOf s wk
  let b := blkOf s w.bid
  if w.inHandler ∧ async then
    modWarp wk (fun w => if (lfind cause w.deferred).isSome then w else { w with deferred := lput cause addr w.deferred }) s
  else if w.inHandler then
    if b.cls = 2 then rollback w.bid 0x26 s
    else endContext b.ctx (eventRecord b.ctx 1 0x26 b.core w.num tpc.toNat addr s)
  else
    match handlerOf s w.bid with
    | none => endContext b.ctx (eventRecord b.ctx 0 cause b.core w.num tpc.toNat addr s)
    | some h =>
      modWarp wk (fun w =>
        let w := trapRegs cause async tpc addr (if b.cls = 2 then traceTrap wk ls tpc w else w)
        modLanes ls (fun x => { x with pc := h, clause := none, hold := .none, bubble := 1, group := 0 })
          { w with inHandler := true, trapLanes := ls, trapClause := cl, trapPairs := pairWords w cl }) s

/-- A precise trap of the issuing bundle at its instruction, or at its prefix (R304, R339). -/
def trapHere (cause addr : Nat) (s : State) : State :=
  takeTrap s.iss.wk s.iss.lanes cause false s.iss.pc addr (some (s.iss.hoff, s.iss.hdr)) s

/-- R175, R179, R195, R252: an asynchronous cause that the warp takes before its next issue. -/
def raiseAsync (wk cause addr : Nat) (s : State) : State :=
  modWarp wk (fun w => if (lfind cause w.async).isSome then w else { w with async := lput cause addr w.async }) s

/-- R252: with sr.trapen[7], an exposure makes the warp take trap 0x0C before its next issue. -/
def exposureTrap (b wk lane : Nat) (s : State) : State :=
  if (blkOf s b).trapen.getLsbD 7 then raiseAsync wk 0x0C (0x80 + lane % 32 * 256) s else s

/-- R205, R252: an access of a warp that is being performed exposes its block's interval. -/
def expose (b wk lane : Nat) (s : State) : State :=
  let x := blkOf s b
  if x.cls ≠ 2 ∨ x.exposed then s else exposureTrap b wk lane (exposeInterval b s)

/-- R249: the journal units of the blocks of a core. -/
def journalUsed (s : State) (core : Nat) : Nat :=
  s.blocks.foldl (fun (n : Nat) e => if e.2.core = core then n + e.2.journal.length else n) 0

/-- R238: a journal unit's storage holds a failing word. -/
def unitFails (s : State) (b u : Nat) : Bool :=
  if u ≥ 2 ^ 60 then (blkOf s b).bad.any fun e => 4 * e.1 / 128 == u % 2 ^ 60 / 2 ^ 20 * 2 ^ 13 + u % 2 ^ 20
  else
    let w := warpOf s (u / 256)
    (if u % 2 = 0 then w.r else w.tw).bad.any fun e => e.1 == 0 && e.2.1 == u / 2 % 128

/-- R249: before the first write of an interval to each of some units, the journal takes their old contents; a failing word
makes its unit fail (log 35). A core has 1024, and an overflow exposes. -/
def journalAdd (b wk : Nat) (us : List Nat) (s : State) : State :=
  if (blkOf s b).cls ≠ 2 then s
  else
    let new := us.eraseDups.filter fun u => (lfind u (blkOf s b).journal).isNone
    let old := new.map fun u => (u, unitWords s b u)
    let fails := new.filter (unitFails s b)
    let s := modBlk b (fun x => { x with
      journal := old.foldl (fun j e => lput e.1 e.2 j) x.journal
      badLog := x.badLog ++ fails }) s
    if journalUsed s (blkOf s b).core > 1024 then expose b wk 0 s else s

/-- R238: the failing words that bytes of a store touch. They read as zero. -/
def badWords (b : Block) (sp a n : Nat) : List Nat :=
  (b.bad.filter fun e => decide (4 * e.1 < storeKey sp a + n) && decide (storeKey sp a < 4 * e.1 + 4)).map fun e => e.1

/-- R141, R159, R199: an engine operation of the block holds a range of a space that overlaps bytes lo to hi - 1. -/
def lockHit (s : State) (bid space lo hi : Nat) : Bool :=
  s.locks.any fun l => l.bid == bid && l.space == space && decide (lo < l.hi) && decide (l.lo < hi)

/-- What the body of an instruction answers: done, with the bundle going on; done, with the lanes already moved; a
precise trap after the state's permitted changes; a trap or a rollback already done; held at issue; held at issue with a fault record or a fork request
sent, which stays. -/
inductive Res where
  | next (s : State)
  | moved (s : State)
  /-- the bundle's warp has trapped or rolled back: nothing of the instruction remains to be done -/
  | gone (s : State)
  | trap (s : State) (cause addr : Nat)
  | hold
  | holdKeep (s : State)
  deriving DecidableEq, Repr

/-- The state that an outcome of a step holds, where it is a next state. -/
def nextOf {φ ρ : Type} : Host.Outcome State φ ρ → Option State
  | .next s => some s
  | _ => none

end Sys2Proof.Machine
end

