-- ==== Sys2Proof/Machine/Operands.lean ====
section
/-! DEFINITION. What each instruction names: its guard, the registers it reads and writes, and the prefix fields that
it honours (R342, R343, R348, R349, R372, R405, R435, R468); the checks of R339 on them; and the issue of a bundle. -/

set_option Elab.async false

namespace Sys2Proof.Machine

/-- An operand: kind 0 w, 1 q, 2 p, 3 e, 4 mask or counter; first register, count, alignment. `cross` marks a w or p register
that a cross-lane instruction reads, or writes, in lanes outside the executing one (R59). -/
inductive Arg where
  | rd (kind reg n al : Nat)
  | wr (kind reg n al : Nat)
  | cross (kind reg : Nat)
  deriving DecidableEq, Repr

/-- What an instruction names and honours. Mode 0: registers only, done by lead and twin alike; 1: control, which a
twin follows; 2: an action that an Assured twin compares (R246). -/
structure Info where
  g : Nat := 0
  args : List Arg := []
  op4 : Bool := false
  rnd : Bool := false
  sat : Bool := false
  ef : Bool := false
  mode : Nat := 0
  deriving DecidableEq, Repr

/-- Registers that a width code of R344 fills. -/
def regsOfWidth (w : Nat) : Nat := if 6 ≤ w then 4 else if w = 5 then 2 else 1

/-- Bytes of a width code (R344). -/
def bytesOfWidth (w : Nat) : Nat :=
  match w with | 0 => 1 | 1 => 1 | 2 => 2 | 3 => 2 | 4 => 4 | 5 => 8 | _ => 16

/-- The offset operand of format D: a pair for sg15 (R158). -/
def offArg (kind o seg : Nat) : Arg := if seg = 15 then .rd kind o 2 2 else .rd kind o 1 1

/-- Slots of a precision code (R74). -/
def slotsOfPrec (p : Nat) : Nat := if p = 0 then 1 else if p = 1 then 2 else 4

/-- The residue registers that error feedback names, which are read (R107). -/
def resArg (p : Pfx) (n : Nat) : Arg := if p.ef then .rd 3 p.op4.toNat n n else .rd 3 0 0 1

/-- The same as written (R59, R107). -/
def resOut (p : Pfx) (n : Nat) : Arg := if p.ef then .wr 3 p.op4.toNat n n else .wr 3 0 0 1

/-- Registers of a special register (R360). -/
def srRegs (n : Nat) : Nat := if n = 0x10 ∨ n = 0x12 ∨ n = 0x34 then 2 else 1

/-- The operands and honoured fields of each instruction, by the entries of the reference. Rows without a word name
nothing. -/
def info (p : Pfx) (has : Bool) : Instr → Info
  | .iadd d a b g => { g := g.toNat, args := [.wr 0 d.toNat 1 1, .rd 0 a.toNat 1 1, .rd 0 b.toNat 1 1] }
  | .iaddD d a b g => { g := g.toNat, args := [.wr 0 d.toNat 2 2, .rd 0 a.toNat 2 2, .rd 0 b.toNat 2 2] }
  | .isub d a b g => { g := g.toNat, args := [.wr 0 d.toNat 1 1, .rd 0 a.toNat 1 1, .rd 0 b.toNat 1 1] }
  | .isubD d a b g => { g := g.toNat, args := [.wr 0 d.toNat 2 2, .rd 0 a.toNat 2 2, .rd 0 b.toNat 2 2] }
  | .imul d a b g => { g := g.toNat, args := [.wr 0 d.toNat 1 1, .rd 0 a.toNat 1 1, .rd 0 b.toNat 1 1] }
  | .imulD d a b g => { g := g.toNat, args := [.wr 0 d.toNat 2 2, .rd 0 a.toNat 2 2, .rd 0 b.toNat 2 2] }
  | .imulh d a b g => { g := g.toNat, args := [.wr 0 d.toNat 1 1, .rd 0 a.toNat 1 1, .rd 0 b.toNat 1 1] }
  | .imulhU d a b g => { g := g.toNat, args := [.wr 0 d.toNat 1 1, .rd 0 a.toNat 1 1, .rd 0 b.toNat 1 1] }
  | .imad d a b g => { g := g.toNat, args := [.wr 0 d.toNat 1 1, .rd 0 d.toNat 1 1, .rd 0 a.toNat 1 1, .rd 0 b.toNat 1 1] }
  | .imin d a b g => { g := g.toNat, args := [.wr 0 d.toNat 1 1, .rd 0 a.toNat 1 1, .rd 0 b.toNat 1 1] }
  | .iminU d a b g => { g := g.toNat, args := [.wr 0 d.toNat 1 1, .rd 0 a.toNat 1 1, .rd 0 b.toNat 1 1] }
  | .imax d a b g => { g := g.toNat, args := [.wr 0 d.toNat 1 1, .rd 0 a.toNat 1 1, .rd 0 b.toNat 1 1] }
  | .imaxU d a b g => { g := g.toNat, args := [.wr 0 d.toNat 1 1, .rd 0 a.toNat 1 1, .rd 0 b.toNat 1 1] }
  | .iabs d a g => { g := g.toNat, args := [.wr 0 d.toNat 1 1, .rd 0 a.toNat 1 1] }
  | .ishl d a b g => { g := g.toNat, args := [.wr 0 d.toNat 1 1, .rd 0 a.toNat 1 1, .rd 0 b.toNat 1 1] }
  | .ishlD d a b g => { g := g.toNat, args := [.wr 0 d.toNat 2 2, .rd 0 a.toNat 2 2, .rd 0 b.toNat 1 1] }
  | .ishr d a b g => { g := g.toNat, args := [.wr 0 d.toNat 1 1, .rd 0 a.toNat 1 1, .rd 0 b.toNat 1 1] }
  | .ishrS d a b g => { g := g.toNat, args := [.wr 0 d.toNat 1 1, .rd 0 a.toNat 1 1, .rd 0 b.toNat 1 1] }
  | .ishrD d a b g => { g := g.toNat, args := [.wr 0 d.toNat 2 2, .rd 0 a.toNat 2 2, .rd 0 b.toNat 1 1] }
  | .ishrDs d a b g => { g := g.toNat, args := [.wr 0 d.toNat 2 2, .rd 0 a.toNat 2 2, .rd 0 b.toNat 1 1] }
  | .iext d a w _ _ => { args := [.wr 0 d.toNat (w.toNat + 1) (w.toNat + 1), .rd 0 a.toNat 1 1] }
  | .icmp _ p0 a b g => { g := g.toNat, args := [.wr 2 p0.toNat 1 1, .rd 0 a.toNat 1 1, .rd 0 b.toNat 1 1] }
  | .icmpD _ p0 a b g => { g := g.toNat, args := [.wr 2 p0.toNat 1 1, .rd 0 a.toNat 2 2, .rd 0 b.toNat 2 2] }
  | .isel d a b k => { args := [.wr 0 d.toNat 1 1, .rd 0 a.toNat 1 1, .rd 0 b.toNat 1 1, .rd 2 k.toNat 1 1] }
  | .and d a b g => { g := g.toNat, args := [.wr 0 d.toNat 1 1, .rd 0 a.toNat 1 1, .rd 0 b.toNat 1 1] }
  | .or d a b g => { g := g.toNat, args := [.wr 0 d.toNat 1 1, .rd 0 a.toNat 1 1, .rd 0 b.toNat 1 1] }
  | .xor d a b g => { g := g.toNat, args := [.wr 0 d.toNat 1 1, .rd 0 a.toNat 1 1, .rd 0 b.toNat 1 1] }
  | .andn d a b g => { g := g.toNat, args := [.wr 0 d.toNat 1 1, .rd 0 a.toNat 1 1, .rd 0 b.toNat 1 1] }
  | .popc d a g => { g := g.toNat, args := [.wr 0 d.toNat 1 1, .rd 0 a.toNat 1 1] }
  | .clz d a g => { g := g.toNat, args := [.wr 0 d.toNat 1 1, .rd 0 a.toNat 1 1] }
  | .brev d a g => { g := g.toNat, args := [.wr 0 d.toNat 1 1, .rd 0 a.toNat 1 1] }
  | .bfe d a _ _ => { args := [.wr 0 d.toNat 1 1, .rd 0 a.toNat 1 1] }
  | .bfeS d a _ _ => { args := [.wr 0 d.toNat 1 1, .rd 0 a.toNat 1 1] }
  | .bfi d a _ _ => { args := [.wr 0 d.toNat 1 1, .rd 0 d.toNat 1 1, .rd 0 a.toNat 1 1] }
  | .bdep d a b g => { g := g.toNat, args := [.wr 0 d.toNat 1 1, .rd 0 a.toNat 1 1, .rd 0 b.toNat 1 1] }
  | .bext d a b g => { g := g.toNat, args := [.wr 0 d.toNat 1 1, .rd 0 a.toNat 1 1, .rd 0 b.toNat 1 1] }
  | .bperm d a _ g => { g := g.toNat, args := [.wr 0 d.toNat 2 2, .rd 0 a.toNat 2 2] }
  | .bpset a _ => { args := [.rd 1 a.toNat 12 1] }
  | .bmm8 d a b g => { g := g.toNat, args := [.wr 0 d.toNat 2 2, .rd 0 a.toNat 2 2, .rd 0 b.toNat 2 2] }
  | .bytep d a b g => { g := g.toNat, args := [.wr 0 d.toNat 1 1, .rd 0 d.toNat 1 1, .rd 0 a.toNat 1 1, .rd 0 b.toNat 1 1] }
  | .mov d a g => { g := g.toNat, args := [.wr 0 d.toNat 1 1, .rd 0 a.toNat 1 1] }
  | .movD d a g => { g := g.toNat, args := [.wr 0 d.toNat 2 2, .rd 0 a.toNat 2 2] }
  | .movi d _ => { args := [.wr 0 d.toNat 1 1] }
  | .movhi d _ => { args := [.wr 0 d.toNat 1 1, .rd 0 d.toNat 1 1] }
  | .plop _ d a b g => { g := g.toNat, args := [.wr 2 d.toNat 1 1, .rd 2 a.toNat 1 1, .rd 2 b.toNat 1 1] }
  | .ptow d g => { g := g.toNat, args := [.wr 0 d.toNat 1 1, .rd 2 0 16 1] }
  | .wtop a g => { g := g.toNat, args := [.wr 2 1 15 1, .rd 0 a.toNat 1 1] }
  | .qadd d a b i => { args := [.wr 1 d.toNat 1 1, .rd 1 a.toNat 1 1, .rd 1 b.toNat (if i = 0 then 1 else 0) 1] }
  | .qsub d a b i => { args := [.wr 1 d.toNat 1 1, .rd 1 a.toNat 1 1, .rd 1 b.toNat (if i = 0 then 1 else 0) 1] }
  | .qmul d a b i => { args := [.wr 1 d.toNat 1 1, .rd 1 a.toNat 1 1, .rd 1 b.toNat (if i = 0 then 1 else 0) 1] }
  | .qlop d a b f => { args := [.wr 1 d.toNat 1 1, .rd 1 a.toNat 1 1, .rd 1 b.toNat (if f.toNat = 4 then 0 else 1) 1] }
  | .qshf d a b _ => { args := [.wr 1 d.toNat 1 1, .rd 1 a.toNat 1 1, .rd 1 b.toNat 1 1] }
  | .qcmp p0 a b _ => { args := [.wr 2 p0.toNat 1 1, .rd 1 a.toNat 1 1, .rd 1 b.toNat 1 1] }
  | .qmovi d _ => { args := [.wr 1 d.toNat 1 1] }
  | .qmovhi d _ => { args := [.wr 1 d.toNat 1 1, .rd 1 d.toNat 1 1] }
  | .vtoq d a g => { g := g.toNat, args := [.wr 1 d.toNat 1 1, .rd 0 a.toNat 1 1] }
  | .qtov d a g => { g := g.toNat, args := [.wr 0 d.toNat 1 1, .rd 1 a.toNat 1 1] }
  | .ladd d a b g => { g := g.toNat, args := [.wr 0 d.toNat 1 1, .rd 0 a.toNat 1 1, .rd 0 b.toNat 1 1], sat := true }
  | .laddL16 d a b g => { g := g.toNat, args := [.wr 0 d.toNat 1 1, .rd 0 a.toNat 1 1, .rd 0 b.toNat 1 1], sat := true }
  | .laddL8 d a b g => { g := g.toNat, args := [.wr 0 d.toNat 1 1, .rd 0 a.toNat 1 1, .rd 0 b.toNat 1 1], sat := true }
  | .lsub d a b g => { g := g.toNat, args := [.wr 0 d.toNat 1 1, .rd 0 a.toNat 1 1, .rd 0 b.toNat 1 1], sat := true }
  | .lsubL16 d a b g => { g := g.toNat, args := [.wr 0 d.toNat 1 1, .rd 0 a.toNat 1 1, .rd 0 b.toNat 1 1], sat := true }
  | .lsubL8 d a b g => { g := g.toNat, args := [.wr 0 d.toNat 1 1, .rd 0 a.toNat 1 1, .rd 0 b.toNat 1 1], sat := true }
  | .lmul d a b g => { g := g.toNat, args := [.wr 0 d.toNat 1 1, .rd 0 a.toNat 1 1, .rd 0 b.toNat 1 1], sat := true }
  | .lmulL16 d a b g => { g := g.toNat, args := [.wr 0 d.toNat 1 1, .rd 0 a.toNat 1 1, .rd 0 b.toNat 1 1], sat := true }
  | .lmulL8 d a b g => { g := g.toNat, args := [.wr 0 d.toNat 1 1, .rd 0 a.toNat 1 1, .rd 0 b.toNat 1 1], sat := true }
  | .ldiv d a b g => { g := g.toNat, args := [.wr 0 d.toNat 1 1, .rd 0 a.toNat 1 1, .rd 0 b.toNat 1 1], sat := true }
  | .ldivL16 d a b g => { g := g.toNat, args := [.wr 0 d.toNat 1 1, .rd 0 a.toNat 1 1, .rd 0 b.toNat 1 1], sat := true }
  | .ldivL8 d a b g => { g := g.toNat, args := [.wr 0 d.toNat 1 1, .rd 0 a.toNat 1 1, .rd 0 b.toNat 1 1], sat := true }
  | .lmad d a b g => { g := g.toNat, args := [.wr 0 d.toNat 1 1, .rd 0 (if has then p.op4.toNat else d.toNat) 1 1, .rd 0 a.toNat 1 1, .rd 0 b.toNat 1 1], op4 := true, sat := true }
  | .lmadL16 d a b g => { g := g.toNat, args := [.wr 0 d.toNat 1 1, .rd 0 (if has then p.op4.toNat else d.toNat) 1 1, .rd 0 a.toNat 1 1, .rd 0 b.toNat 1 1], op4 := true, sat := true }
  | .lmadL8 d a b g => { g := g.toNat, args := [.wr 0 d.toNat 1 1, .rd 0 (if has then p.op4.toNat else d.toNat) 1 1, .rd 0 a.toNat 1 1, .rd 0 b.toNat 1 1], op4 := true, sat := true }
  | .lmin d a b g => { g := g.toNat, args := [.wr 0 d.toNat 1 1, .rd 0 a.toNat 1 1, .rd 0 b.toNat 1 1] }
  | .lminL16 d a b g => { g := g.toNat, args := [.wr 0 d.toNat 1 1, .rd 0 a.toNat 1 1, .rd 0 b.toNat 1 1] }
  | .lminL8 d a b g => { g := g.toNat, args := [.wr 0 d.toNat 1 1, .rd 0 a.toNat 1 1, .rd 0 b.toNat 1 1] }
  | .lmax d a b g => { g := g.toNat, args := [.wr 0 d.toNat 1 1, .rd 0 a.toNat 1 1, .rd 0 b.toNat 1 1] }
  | .lmaxL16 d a b g => { g := g.toNat, args := [.wr 0 d.toNat 1 1, .rd 0 a.toNat 1 1, .rd 0 b.toNat 1 1] }
  | .lmaxL8 d a b g => { g := g.toNat, args := [.wr 0 d.toNat 1 1, .rd 0 a.toNat 1 1, .rd 0 b.toNat 1 1] }
  | .lcmp _ p0 a b g => { g := g.toNat, args := [.wr 2 p0.toNat 1 1, .rd 0 a.toNat 1 1, .rd 0 b.toNat 1 1] }
  | .lcmpL16 _ p0 a b g => { g := g.toNat, args := [.wr 2 p0.toNat 1 1, .rd 0 a.toNat 1 1, .rd 0 b.toNat 1 1] }
  | .lcmpL8 _ p0 a b g => { g := g.toNat, args := [.wr 2 p0.toNat 1 1, .rd 0 a.toNat 1 1, .rd 0 b.toNat 1 1] }
  | .lscale d a _ _ => { args := [.wr 0 d.toNat 1 1, .rd 0 a.toNat 1 1], sat := true }
  | .ldot4 d a b g => { g := g.toNat, args := [.wr 0 d.toNat 1 1, .rd 0 d.toNat 1 1, .rd 0 a.toNat 1 1, .rd 0 b.toNat 1 1], sat := true }
  | .lsqrt d a _ g => { g := g.toNat, args := [.wr 0 d.toNat 1 1, .rd 0 a.toNat 1 1] }
  | .lrcp d a _ g => { g := g.toNat, args := [.wr 0 d.toNat 1 1, .rd 0 a.toNat 1 1], sat := true }
  | .lsgn d a s _ g => { g := g.toNat, args := [.wr 0 d.toNat 1 1, .rd 0 a.toNat 1 1, .rd 0 p.op4.toNat (if s.toNat = 2 then 1 else 0) 1], op4 := s.toNat == 2 }
  | .lclass d a _ g => { g := g.toNat, args := [.wr 0 d.toNat 1 1, .rd 0 a.toNat 1 1] }
  | .lexp2 d a _ g => { g := g.toNat, args := [.wr 0 d.toNat 1 1, .rd 0 a.toNat 1 1], sat := true }
  | .llog2 d a _ g => { g := g.toNat, args := [.wr 0 d.toNat 1 1, .rd 0 a.toNat 1 1] }
  | .lsin d a _ g => { g := g.toNat, args := [.wr 0 d.toNat 1 1, .rd 0 a.toNat 1 1] }
  | .lcos d a _ g => { g := g.toNat, args := [.wr 0 d.toNat 1 1, .rd 0 a.toNat 1 1] }
  | .ltanh d a _ g => { g := g.toNat, args := [.wr 0 d.toNat 1 1, .rd 0 a.toNat 1 1] }
  | .lnarrow d a _ _ t g => { g := g.toNat, args := [.wr 0 d.toNat 1 1, .rd 0 d.toNat 1 1, .rd 0 a.toNat 1 1, resArg p (slotsOfPrec t.toNat), resOut p (slotsOfPrec t.toNat)], sat := true, rnd := true, op4 := p.ef, ef := true }
  | .lwiden d a _ _ _ g => { g := g.toNat, args := [.wr 0 d.toNat 1 1, .rd 0 a.toNat 1 1] }
  | .lcvi d a _ p0 g => { g := g.toNat, args := [.wr 0 d.toNat 1 1, .rd 0 a.toNat 1 1, resArg p (slotsOfPrec p0.toNat), resOut p (slotsOfPrec p0.toNat)], sat := true, rnd := true, op4 := p.ef, ef := true }
  | .lcvx d a _ _ g => { g := g.toNat, args := [.wr 0 d.toNat 1 1, .rd 0 a.toNat 1 1], rnd := true }
  | .lcvf d a _ p0 g => { g := g.toNat, args := [.wr 0 d.toNat 1 1, .rd 0 a.toNat 1 1, resArg p (slotsOfPrec p0.toNat), resOut p (slotsOfPrec p0.toNat)], sat := true, rnd := true, op4 := p.ef, ef := true }
  | .lcve d a _ _ g => { g := g.toNat, args := [.wr 0 d.toNat 1 1, .rd 0 a.toNat 1 1], sat := true, rnd := true }
  | .rand d a s _ g => { g := g.toNat, args := [.wr 0 d.toNat (if s.toNat = 2 then 0 else 1) 1, .rd 0 a.toNat (if s.toNat = 2 then 2 else 0) 2] }
  | .shflLane d a b g => { g := g.toNat, args := [.wr 0 d.toNat 1 1, .rd 0 a.toNat 1 1, .rd 0 b.toNat 1 1, .cross 0 a.toNat] }
  | .shflFlip d a b g => { g := g.toNat, args := [.wr 0 d.toNat 1 1, .rd 0 a.toNat 1 1, .rd 0 b.toNat 1 1, .cross 0 a.toNat] }
  | .shflLower d a b g => { g := g.toNat, args := [.wr 0 d.toNat 1 1, .rd 0 a.toNat 1 1, .rd 0 b.toNat 1 1, .cross 0 a.toNat] }
  | .shflHigher d a b g => { g := g.toNat, args := [.wr 0 d.toNat 1 1, .rd 0 a.toNat 1 1, .rd 0 b.toNat 1 1, .cross 0 a.toNat] }
  | .shwr d a b g => { g := g.toNat, args := [.wr 0 d.toNat 1 1, .rd 0 a.toNat 1 1, .rd 0 b.toNat 1 1, .cross 0 a.toNat, .cross 0 b.toNat, .cross 0 d.toNat] }
  | .quadx d a _ => { args := [.wr 0 d.toNat 1 1, .rd 0 a.toNat 1 1, .cross 0 a.toNat] }
  | .vote m p0 _ a q g => { g := g.toNat, args := [.wr 2 p0.toNat (if m.toNat = 0 then 0 else 1) 1, .wr 1 q.toNat (if m.toNat = 0 then 1 else 0) 1, .rd 2 a.toNat 1 1, .cross 2 a.toNat] }
  | .mjoin m => { args := [.rd 4 m.toNat 1 1], mode := 1 }
  | .mleave m => { args := [.rd 4 m.toNat 1 1], mode := 1 }
  | .mwait m => { args := [.rd 4 m.toNat 1 1], mode := 1 }
  | .mread d m => { args := [.wr 1 d.toNat 1 1, .rd 4 m.toNat 1 1] }
  | .mset m b => { args := [.rd 4 m.toNat 1 1, .rd 1 b.toNat 1 1], mode := 1 }
  | .ld d o s w _ => { args := [.wr 0 d.toNat (regsOfWidth w.toNat) (regsOfWidth w.toNat), offArg 0 o.toNat s.toNat], mode := 2 }
  | .lda d o s w _ => { args := [.wr 0 d.toNat (regsOfWidth w.toNat) (regsOfWidth w.toNat), offArg 0 o.toNat s.toNat], mode := 2 }
  | .st d o s w _ => { args := [.rd 0 d.toNat (regsOfWidth w.toNat) (regsOfWidth w.toNat), offArg 0 o.toNat s.toNat], mode := 2 }
  | .str d o s w _ => { args := [.rd 0 d.toNat (regsOfWidth w.toNat) (regsOfWidth w.toNat), offArg 0 o.toNat s.toNat], mode := 2 }
  | .ldq d o s w _ => { args := [.wr 1 d.toNat (regsOfWidth w.toNat) (regsOfWidth w.toNat), offArg 1 o.toNat s.toNat], mode := 2 }
  | .ldl d o _ w _ => { args := [.wr 0 d.toNat (regsOfWidth w.toNat) (regsOfWidth w.toNat), .rd 0 o.toNat 1 1], mode := 2 }
  | .stl d o _ w _ => { args := [.rd 0 d.toNat (regsOfWidth w.toNat) (regsOfWidth w.toNat), .rd 0 o.toNat 1 1], mode := 2 }
  | .fenceAcqrel _ => { mode := 1 }
  | .fenceSc _ => { mode := 1 }
  | .cctl o s p0 => { args := [if p0.toNat = 1 then .rd 0 0 0 1 else offArg 0 o.toNat s.toNat], mode := 1 }
  | .ifence => { mode := 1 }
  | .atomAdd d o s w _ _ => { args := [.wr 0 d.toNat (w.toNat + 1) (w.toNat + 1), .rd 0 d.toNat (w.toNat + 1) (w.toNat + 1), offArg 0 o.toNat s.toNat], mode := 2 }
  | .atomMin d o s w _ _ => { args := [.wr 0 d.toNat (w.toNat + 1) (w.toNat + 1), .rd 0 d.toNat (w.toNat + 1) (w.toNat + 1), offArg 0 o.toNat s.toNat], mode := 2 }
  | .atomMinu d o s w _ _ => { args := [.wr 0 d.toNat (w.toNat + 1) (w.toNat + 1), .rd 0 d.toNat (w.toNat + 1) (w.toNat + 1), offArg 0 o.toNat s.toNat], mode := 2 }
  | .atomMax d o s w _ _ => { args := [.wr 0 d.toNat (w.toNat + 1) (w.toNat + 1), .rd 0 d.toNat (w.toNat + 1) (w.toNat + 1), offArg 0 o.toNat s.toNat], mode := 2 }
  | .atomMaxu d o s w _ _ => { args := [.wr 0 d.toNat (w.toNat + 1) (w.toNat + 1), .rd 0 d.toNat (w.toNat + 1) (w.toNat + 1), offArg 0 o.toNat s.toNat], mode := 2 }
  | .atomAnd d o s w _ _ => { args := [.wr 0 d.toNat (w.toNat + 1) (w.toNat + 1), .rd 0 d.toNat (w.toNat + 1) (w.toNat + 1), offArg 0 o.toNat s.toNat], mode := 2 }
  | .atomOr d o s w _ _ => { args := [.wr 0 d.toNat (w.toNat + 1) (w.toNat + 1), .rd 0 d.toNat (w.toNat + 1) (w.toNat + 1), offArg 0 o.toNat s.toNat], mode := 2 }
  | .atomXor d o s w _ _ => { args := [.wr 0 d.toNat (w.toNat + 1) (w.toNat + 1), .rd 0 d.toNat (w.toNat + 1) (w.toNat + 1), offArg 0 o.toNat s.toNat], mode := 2 }
  | .atomExch d o s w _ _ => { args := [.wr 0 d.toNat (w.toNat + 1) (w.toNat + 1), .rd 0 d.toNat (w.toNat + 1) (w.toNat + 1), offArg 0 o.toNat s.toNat], mode := 2 }
  | .atomCas d o s w _ _ => { args := [.wr 0 d.toNat (w.toNat + 1) (w.toNat + 1), .rd 0 d.toNat (2 * (w.toNat + 1)) (2 * (w.toNat + 1)), offArg 0 o.toNat s.toNat], mode := 2 }
  | .atomIncw d o s _ _ => { args := [.wr 0 d.toNat 1 1, .rd 0 d.toNat 1 1, offArg 0 o.toNat s.toNat], mode := 2 }
  | .atomAddb d o s _ _ => { args := [.wr 0 d.toNat 1 1, .rd 0 d.toNat 2 2, offArg 0 o.toNat s.toNat], mode := 2 }
  | .atomLadd d o s _ _ => { args := [.wr 0 d.toNat 1 1, .rd 0 d.toNat 1 1, offArg 0 o.toNat s.toNat], mode := 2 }
  | .redAdd d o s w _ _ => { args := [.rd 0 d.toNat (w.toNat + 1) (w.toNat + 1), offArg 0 o.toNat s.toNat], mode := 2 }
  | .redMin d o s w _ _ => { args := [.rd 0 d.toNat (w.toNat + 1) (w.toNat + 1), offArg 0 o.toNat s.toNat], mode := 2 }
  | .redMinu d o s w _ _ => { args := [.rd 0 d.toNat (w.toNat + 1) (w.toNat + 1), offArg 0 o.toNat s.toNat], mode := 2 }
  | .redMax d o s w _ _ => { args := [.rd 0 d.toNat (w.toNat + 1) (w.toNat + 1), offArg 0 o.toNat s.toNat], mode := 2 }
  | .redMaxu d o s w _ _ => { args := [.rd 0 d.toNat (w.toNat + 1) (w.toNat + 1), offArg 0 o.toNat s.toNat], mode := 2 }
  | .redAnd d o s w _ _ => { args := [.rd 0 d.toNat (w.toNat + 1) (w.toNat + 1), offArg 0 o.toNat s.toNat], mode := 2 }
  | .redOr d o s w _ _ => { args := [.rd 0 d.toNat (w.toNat + 1) (w.toNat + 1), offArg 0 o.toNat s.toNat], mode := 2 }
  | .redXor d o s w _ _ => { args := [.rd 0 d.toNat (w.toNat + 1) (w.toNat + 1), offArg 0 o.toNat s.toNat], mode := 2 }
  | .redLadd d o s _ _ => { args := [.rd 0 d.toNat 1 1, offArg 0 o.toNat s.toNat], mode := 2 }
  | .midx a b _ => { args := [.rd 1 a.toNat 1 1, .rd 1 b.toNat 1 1], mode := 2 }
  | .mloop d _ => { args := [.rd 1 d.toNat 4 4], mode := 2 }
  | .mclr _ _ => { mode := 2 }
  | .mscl a b => { args := [.rd 1 a.toNat 1 1, .rd 1 b.toNat 1 1], mode := 2 }
  | .mstat d _ _ => { args := [.wr 1 d.toNat 1 1], mode := 2 }
  | .tdesc _ a => { args := [.rd 1 a.toNat 2 1], mode := 2 }
  | .tstate d _ => { args := [.wr 1 d.toNat 1 1], mode := 2 }
  | .trel _ => { mode := 2 }
  | .cpyin d _ => { args := [.rd 1 d.toNat 8 8], mode := 2 }
  | .cpyout d _ => { args := [.rd 1 d.toNat 8 8], mode := 2 }
  | .cpyx d _ => { args := [.rd 1 d.toNat 8 8], mode := 2 }
  | .cpyp d _ => { args := [.rd 1 d.toNat 8 8], mode := 2 }
  | .hbind x n _ => { args := [.rd 1 x.toNat (if n = 1 then 0 else 1) 1], mode := 2 }
  | .hstat d _ _ => { args := [.wr 1 d.toNat 1 1], mode := 2 }
  | .bra _ g => { g := g.toNat, mode := 1 }
  | .brx a g => { g := g.toNat, args := [.rd 0 a.toNat 1 1], mode := 1 }
  | .call _ g => { g := g.toNat, mode := 1 }
  | .ret g => { g := g.toNat, mode := 1 }
  | .exit g => { g := g.toNat, mode := 1 }
  | .trap _ => { mode := 1 }
  | .tret g => { g := g.toNat, mode := 1 }
  | .bkpt _ => { mode := 1 }
  | .nop g => { g := g.toNat, mode := 1 }
  | .yield g => { g := g.toNat, mode := 1 }
  | .bar _ => { mode := 1 }
  | .bardrop _ _ => { mode := 1 }
  | .pbar _ _ => { mode := 1 }
  | .waitc c _ => { args := [.rd 4 c.toNat 1 1], mode := 1 }
  | .rgsig i a _ _ => { args := [.rd 1 a.toNat (if i = 1 then 1 else 0) 1], mode := 1 }
  | .rgwait _ i a _ _ => { args := [.rd 1 a.toNat (if i = 1 then 1 else 0) 1], mode := 1 }
  | .trigger g => { g := g.toNat, mode := 2 }
  | .tfork d a b => { args := [.wr 1 d.toNat 1 1, .rd 1 a.toNat 2 2, .rd 1 b.toNat 2 2], mode := 2 }
  | .tjoin a _ => { args := [.rd 1 a.toNat 1 1], mode := 2 }
  | .tpoll d a => { args := [.wr 1 d.toNat 1 1, .rd 1 a.toNat 1 1], mode := 2 }
  | .sread d n => { args := [.wr 0 d.toNat (srRegs n.toNat) (srRegs n.toNat)], mode := 2 }
  | .swrite a n => { args := [.rd 0 a.toNat (srRegs n.toNat) (srRegs n.toNat)], mode := 2 }
  | .loadSectorReturn .. => {}
  | .storeAck .. => {}
  | .pageWalkComplete .. => {}
  | .lightFault .. => {}
  | .faultResolve .. => {}
  | .sideLogReplay .. => {}
  | .l2LineWriteback .. => {}
  | .linkRecoveryStart .. => {}
  | .linkRecoveryEnd .. => {}
  | .peerUnreachable .. => {}
  | .patrolScrubRow .. => {}
  | .copyStart .. => {}
  | .hullerCellFire .. => {}
  | .copyComplete .. => {}
  | .hbindComplete .. => {}
  | .matrixOpStart .. => {}
  | .midxComplete .. => {}
  | .mclrComplete .. => {}
  | .mloopComplete .. => {}
  | .mloopNanStop .. => {}
  | .forkPoint .. => {}
  | .joinMerge .. => {}
  | .copyOnWrite .. => {}
  | .revisionSpaceTimeout .. => {}
  | .twinCompare .. => {}
  | .assuredCheckpoint .. => {}
  | .queueDoorbell .. => {}
  | .waitWordPoll => {}
  | .dispatchDecision => {}
  | .warpStopped .. => {}
  | .forcedStop .. => {}
  | .blockSave .. => {}
  | .blockEnd .. => {}
  | .gridCompletion .. => {}
  | .hangWatchdog .. => {}
  | .barrierTimeout .. => {}
  | .podBarrierTimeout .. => {}
  | .powerLimitExceeded => {}
  | .thermalShutdown => {}
  | .perstnRise => {}
  | .firmwareVerification .. => {}
  | .port0LinkTraining => {}
  | .memoryTraining => {}
  | .hostWindowAccess .. => {}
  | .deviceResetWrite .. => {}
  | .l2wb .. => {}
  | .l2wbDone => {}
  | .queueControlWrite .. => {}
  | .tlbinv .. => {}
  | .tlbinvDone .. => {}
  | .contextSuspend .. => {}
  | .contextEndRequest .. => {}
  | .fqrdWrite .. => {}
  | .eqrdWrite .. => {}
  | .fqsizeWrite .. => {}
  | .eqsizeWrite .. => {}
  | .revisionStackPush .. => {}
  | .contextCounterClear .. => {}
  | .hintshortClear .. => {}
  | .channelCounterClear .. => {}
  | .registerWrite .. => {}
  | .partoff .. => {}
  | .partoffDone => {}
  | .partfmt .. => {}
  | .partfmtDone => {}
  | .parton .. => {}
  | .scrubset .. => {}
  | .retire .. => {}
  | .budget .. => {}
  | .resume .. => {}
  | .histread .. => {}
  | .schedset .. => {}
  | .huskexp .. => {}
  | .huskimp .. => {}
  | .lateact .. => {}
  | .codemove .. => {}
  | .codemoveCopy => {}
  | .powerset .. => {}
  | .ident .. => {}
  | .attest .. => {}
  | .fwload .. => {}
  | .mailboxUnassigned .. => {}
  | .illegalInstruction .. => {}
  | .perstnFall => {}
  | .supplyLoss => {}
  | .supplyReturn => {}
  | .linkRestore .. => {}
  | .storageError .. => {}
  | .powerBelowLimit => {}

/-- The instruction writes w, p or e registers, so it honours zero (R349). -/
def writesLane (a : Arg) : Bool := match a with | .wr k _ n _ => k != 1 && n != 0 | _ => false

/-- R349: the prefix holds no illegal code and no field that the instruction does not honour. LSGN.copy needs one
(R455). -/
def honoured (p : Pfx) (has : Bool) (i : Instr) : Bool :=
  let f := info p has i
  (p.op4 == 0 || f.op4) && (p.rnd == 0 || f.rnd) && (!p.sat || f.sat) && (!p.ef || f.ef) &&
    (!p.zero || f.args.any writesLane) &&
    (match i with | .lsgn _ _ s _ _ => has || s.toNat != 2 | _ => true)

/-- R31, R342: the register lies inside its limits. -/
def argOk (wregs qregs : Nat) : Arg → Bool
  | .rd k r n al | .wr k r n al =>
    n == 0 || (r % al == 0 &&
      (match k with
       | 0 => decide (r + n ≤ wregs)
       | 1 => decide (r + n ≤ qregs)
       | 2 => true
       | 3 => decide (r + n ≤ 8)
       | _ => decide (r + n ≤ 12)))
  | .cross _ _ => true

/-- R66: the latency of an instruction that acts at its issue: the cycles from its issue to the first in which a dependent
instruction may issue. `n` is the number of its active lanes, for the port of a local store. The table names no row for MREAD,
MSTAT, TSTATE, HSTAT, TPOLL and TFORK, which take 2 as the instructions that write a q register do, and none for an LDL from
scale memory, which takes 24 as one from ab or cb (DESIGN CHOICE, log 37). -/
def latency (n : Nat) : Instr → Nat
  | .iadd .. | .isub .. | .imul .. | .imad .. | .imin .. | .iminU .. | .imax .. | .imaxU .. | .iabs .. | .ishl .. | .ishr ..
  | .ishrS .. | .icmp .. | .isel .. | .and .. | .or .. | .xor .. | .andn .. | .popc .. | .clz .. | .brev .. | .bfe ..
  | .bfeS .. | .bfi .. | .bdep .. | .bext .. | .bytep .. | .mov .. | .movi .. | .movhi .. | .plop .. | .ptow .. | .wtop .. => 4
  | .iaddD .. | .isubD .. | .imulD .. | .ishlD .. | .ishrD .. | .ishrDs .. | .icmpD .. | .movD .. | .imulh .. | .imulhU ..
  | .bmm8 .. | .bperm .. => 6
  | .iext _ _ w _ _ => if w = 1 then 6 else 4
  | .qadd .. | .qsub .. | .qmul .. | .qlop .. | .qshf .. | .qcmp .. | .qmovi .. | .qmovhi .. | .mread .. | .mstat .. | .tstate ..
  | .hstat .. | .tpoll .. | .tfork .. => 2
  | .lmul .. | .lmulL16 .. | .lmulL8 .. | .ldiv .. | .ldivL16 .. | .ldivL8 .. | .lsqrt .. | .lrcp .. | .lscale .. | .lsgn ..
  | .lmin .. | .lminL16 .. | .lminL8 .. | .lmax .. | .lmaxL16 .. | .lmaxL8 .. | .lcmp .. | .lcmpL16 .. | .lcmpL8 .. | .lclass .. => 4
  | .ladd .. | .laddL16 .. | .laddL8 .. | .lsub .. | .lsubL16 .. | .lsubL8 .. | .lmad .. | .lmadL16 .. | .lmadL8 .. | .lnarrow ..
  | .lwiden .. | .lcvi .. | .lcvx .. | .rand .. => 8
  | .ldot4 .. | .lcvf .. | .lcve .. => 10
  | .lexp2 .. | .llog2 .. | .lsin .. | .lcos .. | .ltanh .. => 20
  | .shflLane .. | .shflFlip .. | .shflLower .. | .shflHigher .. | .shwr .. | .quadx .. | .vote .. | .vtoq .. | .qtov .. => 6
  | .ldl _ _ k w _ | .stl _ _ k w _ => (if k.toNat = 0 then 20 else 24) + (portCycles k.toNat (n * bytesOfWidth w.toNat) - 1)
  | .sread .. | .swrite .. => 8
  | _ => 0
where
  /-- R14, R66: the cycles for which bytes of one access occupy the port of a local store; the spec gives no port width of
  scale memory, and one cycle serves any access to it (log 37). -/
  portCycles (sp bytes : Nat) : Nat :=
    match sp with
    | 0 => max 1 ((bytes + 127) / 128)
    | 1 => max 1 ((bytes + 255) / 256)
    | 2 => max 1 ((bytes + 255) / 256)
    | 3 => max 1 ((bytes + 511) / 512)
    | _ => 1

/-- R66: the cycles for which a bundle occupies its quarter's issue. -/
def issueCycles : Instr → Nat
  | .iaddD .. | .isubD .. | .imulD .. | .ishlD .. | .ishrD .. | .ishrDs .. | .icmpD .. | .movD .. | .imulh .. | .imulhU ..
  | .bmm8 .. | .bperm .. => 2
  | .iext _ _ w _ _ => if w = 1 then 2 else 1
  | .lexp2 .. | .llog2 .. | .lsin .. | .lcos .. | .ltanh .. => 4
  | _ => 1

/-- R14, R66: the local store whose port an instruction uses, and the cycles for which n lanes occupy it. -/
def portUse (n : Nat) : Instr → Option (Nat × Nat)
  | .ldl _ _ k w _ => some (k.toNat, latency.portCycles k.toNat (n * bytesOfWidth w.toNat))
  | .stl _ _ k w _ => some (k.toNat, latency.portCycles k.toNat (n * bytesOfWidth w.toNat))
  | _ => none

/-- Two ranges of register numbers meet. -/
def rangesMeet (r n r' n' : Nat) : Bool := decide (r < r' + n') && decide (r' < r + n)

/-- R59: the register carries a pending mark in some lane of a set: that of a short instruction's result, or that of an
outstanding load or atomic. An instruction that reads or writes q registers waits for every one of them. -/
def argPending (now : Nat) (rs : Regs) (loads : List LoadOp) (ls : Word) : Arg → Bool
  | .rd k r n _ | .wr k r n _ =>
    n != 0 &&
      ((rs.marks.any fun m => decide (now < m.till) && m.kind == k && (k == 1 || (rangesMeet r n m.reg m.n && (m.lanes &&& ls) != 0))) ||
        loads.any fun o => (k == 0 && !o.uniform && rangesMeet r n o.dst o.nreg && (o.lanes &&& ls) != 0) || (k == 1 && o.uniform))
  | .cross k r =>
    (rs.marks.any fun m => decide (now < m.till) && m.kind == k && rangesMeet r 1 m.reg m.n) ||
      loads.any fun o => k == 0 && !o.uniform && rangesMeet r 1 o.dst o.nreg

/-- R59, R244: the outstanding loads and atomics whose destinations the issuing side finds pending: every one of the lead's;
of the twin's, those that it has passed. -/
def pendingLoads (s : State) : List LoadOp :=
  let w := curWarp s
  if s.iss.side = .twin then
    w.loads.filter fun o => o.both && (o.await == 0 || w.cmps.any fun c => c.id == o.await && c.twin.isSome)
  else w.loads

/-- R59: a register of an instruction is pending for lanes of the issuing bundle. -/
def isPending (s : State) (ls : Word) (a : Arg) : Bool := argPending s.clock (regsOf s) (pendingLoads s) ls a

/-- The predicates that guard an instruction: its guard field's, and its prefix's (R41, R343, R348). -/
def guardArgs (p : Pfx) (f : Info) : List Arg := [.rd 2 f.g (if f.g = 0 then 0 else 1) 1, .rd 2 p.pg.toNat (if p.pg = 0 then 0 else 1) 1]

/-- Every register that an instruction reads or writes (R59). -/
def Info.all (p : Pfx) (f : Info) : List Arg := f.args ++ guardArgs p f

/-- R41: writes zero into the destinations of the bundle's lanes that are not active. -/
def zeroPolicy (f : Info) (act : Word) (s : State) : State :=
  if (curPfx s).zero then
    eachLane (s.iss.lanes &&& ~~~act) (fun l s => f.args.foldl (fun s a =>
      match a with
      | .wr 0 r n _ => (List.range n).foldl (fun s i => writeW (r + i) l 0 s) s
      | .wr 2 r n _ => (List.range n).foldl (fun s i => writeP (r + i) l false s) s
      | _ => s) s) s
  else s

/-- R36: the instruction is held at issue: nothing has been done. -/
def heldAtIssue (s : State) : State := { s with iss := { s.iss with held := true } }

/-- The journal units of the w registers that an instruction writes on one side, where some lane writes (R41, R249). -/
def regUnits (twin : Bool) (f : Info) (act : Word) (s : State) : List Nat :=
  if act = 0 ∧ (curPfx s).zero = false then []
  else (f.args.map fun a => match a with
    | .wr 0 r n _ => (List.range n).map fun i => 2 * (s.iss.wk * 128 + r + i) + if twin then 1 else 0
    | _ => []).flatten

/-- R59: the lanes whose w and p registers an instruction writes: its active lanes; for SHWR the launched lanes that w(b)
names, after the bundle's inactive lanes where the zero policy writes them (R489). -/
def destLanes (i : Instr) (act : Word) (s : State) : Word :=
  match i with
  | .shwr _ _ b _ =>
    laneSet (((lanesOf act).map fun l => (readW s b.toNat l).toNat % 32).filter fun k => (laneOf (curWarp s) k).isSome) |||
      (if (curPfx s).zero then s.iss.lanes &&& ~~~act else 0)
  | _ => act

/-- R59, R66: the destinations of an instruction that has written them are pending until its latency has passed. `dst` are the
lanes that its effect has written, to which the zero policy adds the bundle's inactive ones. -/
def markDests (i : Instr) (f : Info) (act dst : Word) (s : State) : State :=
  let ls := if (curPfx s).zero then dst ||| (s.iss.lanes &&& ~~~act) else dst
  let till := s.clock + latency (laneCount act) i
  let ms := f.args.filterMap fun a => match a with
    | .wr k r n _ =>
      let ls := if k = 1 ∨ k = 3 then act else ls
      if n = 0 ∨ k > 3 ∨ (k = 2 ∧ r = 0) ∨ ls = 0 then none else some { kind := k, reg := r, n := n, lanes := ls, till := till }
    | _ => none
  if till = s.clock ∨ ms.isEmpty then s else modRegs (fun r => { r with marks := r.marks ++ ms }) s

/-- Ends an issue by what its body answered. The active lanes are those found before the body acted. -/
def finish (i : Instr) (f : Info) (act : Word) (s : State) : Res → State
  | .next t => advance s.iss.lanes (zeroPolicy f act (markDests i f act (destLanes i act s) t))
  | .moved t => t
  | .gone t => t
  | .trap t c a => trapHere c a t
  | .hold => heldAtIssue s
  | .holdKeep t => heldAtIssue { t with iss := { s.iss with keep := true } }

/-- Sets whose registers the bundle reads and writes (R244). -/
def withSide (d : Side) (s : State) : State := { s with iss := { s.iss with side := d } }

/-- What an answer holds of the state, changed where the instruction has done its part. -/
def Res.onDone (f : State → State) : Res → Res
  | .next t => .next (f t)
  | .moved t => .moved (f t)
  | r => r

/-- What an answer holds of the state, changed unless nothing has been done. -/
def Res.onEnd (f : State → State) : Res → Res
  | .next t => .next (f t)
  | .moved t => .moved (f t)
  | .trap t c a => .trap (f t) c a
  | .gone t => .gone (f t)
  | r => r

/-- R246: how an Assured lead's action is compared: reads are made by the lead, and their addresses compared; writes and
atomics are performed once the twin has agreed; so are the writes of an STL; any other action holds its lanes. -/
def cmpKind : Instr → CmpKind
  | .ld .. | .lda .. | .ldq .. | .ldl .. | .sread .. | .tstate .. | .mstat .. | .hstat .. | .tpoll .. => .read
  | .st .. | .str .. | .atomAdd .. | .atomMin .. | .atomMinu .. | .atomMax .. | .atomMaxu .. | .atomAnd .. | .atomOr .. | .atomXor ..
  | .atomExch .. | .atomCas .. | .atomIncw .. | .atomAddb .. | .atomLadd .. | .redAdd .. | .redMin .. | .redMinu .. | .redMax ..
  | .redMaxu .. | .redAnd .. | .redOr .. | .redXor .. | .redLadd .. => .flight
  | .stl .. => .stl
  | _ => .held

/-- The values of a load come back later: LD, LDA, LDQ. -/
def loadsLater : Instr → Bool
  | .ld .. | .lda .. | .ldq .. => true
  | _ => false

/-- R246: the bits of a store's data register that its access compares. -/
def dataMask : Instr → Word
  | .st _ _ _ w _ => if w.toNat ≤ 1 then 0xFF else if w.toNat ≤ 3 then 0xFFFF else 0xFFFFFFFF
  | .str _ _ _ w _ => if w.toNat ≤ 1 then 0xFF else if w.toNat ≤ 3 then 0xFFFF else 0xFFFFFFFF
  | .stl _ _ _ w _ => if w.toNat ≤ 1 then 0xFF else if w.toNat ≤ 3 then 0xFFFF else 0xFFFFFFFF
  | _ => 0xFFFFFFFF

/-- The values of an operand in the lanes of a set, on the side that the bundle reads. -/
def argVals (s : State) (act m : Word) : Arg → List Word
  | .rd k r n _ => ((List.range n).map fun i => match k with
    | 0 => (lanesOf act).map fun l => readW s (r + i) l &&& m
    | 1 => [readQ s (r + i)]
    | 2 => (lanesOf act).map fun l => if readP s (r + i) l then 1 else 0
    | 3 => (lanesOf act).map fun l => readE s (r + i) l
    | _ => []).flatten
  | _ => []

/-- R246: the operands that a compared action compares. -/
def opVals (i : Instr) (f : Info) (act : Word) (s : State) : List Word :=
  match f.args with
  | [] => []
  | a :: t => argVals s act (dataMask i) a ++ (t.map (argVals s act 0xFFFFFFFF)).flatten

/-- R245: the values that a read has left in its destinations: kind of register, key, value. -/
def destVals (f : Info) (act : Word) (s : State) : List (Nat × Nat × Word) :=
  (f.args.map fun a => match a with
    | .wr 0 r n _ => ((List.range n).map fun i => (lanesOf act).map fun l => (0, laneKey (r + i) l, readW s (r + i) l)).flatten
    | .wr 1 r n _ => (List.range n).map fun i => (1, r + i, readQ s (r + i))
    | _ => []).flatten

/-- R245: values of the load-value queue enter registers. -/
def putVals (vs : List (Nat × Nat × Word)) (r : Regs) : Regs :=
  vs.foldl (fun r v =>
    if v.1 = 0 then { r with w := lset 0 v.2.1 v.2.2 r.w, bad := healed 0 (v.2.1 / 32) (v.2.1 % 32) r.bad }
    else { r with q := lset 0 v.2.1 v.2.2 r.q, bad := healed 1 v.2.1 0 r.bad }) r

/-- R245: entries of the load-value queue that an action takes: one for each destination register across the warp. -/
def valueEntries (f : Info) : Nat := f.args.foldl (fun n a => match a with | .wr _ _ k _ => n + k | _ => n) 0

/-- The warps of the quarter of a warp. -/
def sameQuarter (s : State) (wk : Nat) : List Warp :=
  (s.warps.filter fun e => (blkOf s e.2.bid).core == (blkOf s (warpOf s wk).bid).core && e.2.quarter == (warpOf s wk).quarter).map (·.2)

/-- R244: entries of a quarter's trace. -/
def traceUsed (s : State) (wk : Nat) : Nat := (sameQuarter s wk).foldl (fun n w => n + w.trace.length) 0

/-- R246: entries of a quarter's compare buffer. -/
def cmpUsed (s : State) (wk : Nat) : Nat := (sameQuarter s wk).foldl (fun n w => n + w.cmps.length) 0

/-- R245: entries of a quarter's load-value queue that the twins have not taken yet. -/
def valueUsed (s : State) (wk : Nat) : Nat :=
  (sameQuarter s wk).foldl (fun n w =>
    n + (w.cmps.foldl (fun n c => if c.kind = .read ∧ c.twin.isSome then n else n + c.nreg) 0) +
      w.loads.foldl (fun n o => if o.both ∧ o.await = 0 then n + o.nreg else n) 0) 0

/-- The compare-buffer entry of the issuing bundle whose comparison has agreed. -/
def agreedCmp (s : State) : Option Cmp :=
  (curWarp s).cmps.find? fun c => c.agreed && c.iss.pc == s.iss.pc && c.iss.lanes == s.iss.lanes

/-- R244, R245, R246: the lead is held while its quarter's trace, compare buffer or load-value queue lacks room for it. -/
def assuredRoom (f : Info) (act : Word) (s : State) : Bool :=
  (agreedCmp s).isSome ||
    (decide (traceUsed s s.iss.wk < 512) &&
      (f.mode != 2 || act == 0 || (decide (cmpUsed s s.iss.wk < 64) && decide (valueUsed s s.iss.wk + valueEntries f ≤ 256))))

/-- The launched lanes of a warp that have not exited. -/
def livingLanes (w : Warp) : Word := laneSet ((w.lanes.filter fun e => !e.2.exited).map fun e => e.1)

/-- R244: the trace takes the bundle, with the lanes that live at its issue. -/
def pushTrace (iss : Iss) (alive : Word) (i : Instr) (s : State) : State :=
  modWarp iss.wk (fun w => { w with trace := w.trace ++ [{ iss := { iss with alive := some alive }, instr := some i }] }) s

/-- Removes an entry of the compare buffer. -/
def dropCmp (wk id : Nat) (s : State) : State := modWarp wk (fun w => { w with cmps := w.cmps.filter fun c => c.id != id }) s

/-- Changes an entry of the compare buffer. -/
def modCmp (wk id : Nat) (f : Cmp → Cmp) (s : State) : State :=
  modWarp wk (fun w => { w with cmps := w.cmps.map fun c => if c.id == id then f c else c }) s

/-- R244: the lead's bundle may take a trap: the trace of its quarter has room for that entry. -/
def trapRoom (s : State) : Bool := (curBlk s).cls != 2 || decide (traceUsed s s.iss.wk < 512)

/-- R111, R249: the body of an instruction after the journal has taken what it is to write. A trap comes before any other
effect, and an instruction that is held does nothing: neither adds to the journal. -/
def journalled (us : List Nat) (s : State) (body : State → Res) : Res :=
  match body s with
  | .trap t c a => .trap t c a
  | .hold => .hold
  | .holdKeep t => .holdKeep t
  | _ => body (journalAdd s.iss.bid s.iss.wk us s)

/-- R244, R246: an action that is held until the comparison. Once it has agreed it is performed, and writes lead and twin
alike. -/
def heldAction (i : Instr) (f : Info) (act : Word) (s : State) (body : State → Res) : State :=
  match agreedCmp s with
  | some c =>
    match journalled (regUnits false f act s ++ regUnits true f act s) (withSide .both s) body with
    | .hold => heldAtIssue s
    | .trap t k a => if trapRoom s then finish i f act (withSide .both s) ((Res.trap t k a).onEnd (dropCmp s.iss.wk c.id)) else heldAtIssue s
    | .holdKeep t => finish i f act s (.holdKeep t)
    | r => finish i f act (withSide .both s) (r.onEnd (dropCmp s.iss.wk c.id))
  | none =>
    let id := freshId s
    let iss := { s.iss with cmp := id.1 }
    let c : Cmp := { id := id.1, iss := iss, instr := i, kind := .held, act := act, ops := opVals i f act s }
    holdLanes s.iss.lanes .compare (pushTrace iss (livingLanes (curWarp s)) i
      (modWarp s.iss.wk (fun w => { w with cmps := w.cmps ++ [c] }) id.2))

/-- R244 to R246: an action that enters the compare buffer while the lead runs on. Its accesses carry the entry's number,
and await the comparison where they write. -/
def passedAction (i : Instr) (f : Info) (act : Word) (s : State) (body : State → Res) : State :=
  let id := freshId s
  let iss := { s.iss with cmp := id.1 }
  let c : Cmp := {
    id := id.1, iss := iss, instr := i, kind := cmpKind i, act := act, ops := opVals i f act s, nreg := valueEntries f }
  let s' := { pushTrace iss (livingLanes (curWarp s)) i
    (modWarp s.iss.wk (fun w => { w with cmps := w.cmps ++ [c] }) id.2) with iss := iss }
  match journalled (regUnits false f act s) s' body with
  | .trap t c a => finish i f act s (.trap (modWarp s.iss.wk (fun w => { w with trace := w.trace.dropLast }) (dropCmp s.iss.wk id.1 t)) c a)
  | .hold => heldAtIssue s
  | .holdKeep _ => heldAtIssue s
  | r =>
    finish i f act s (r.onDone fun t =>
      if cmpKind i = .read ∧ loadsLater i = false then modCmp s.iss.wk id.1 (fun c => { c with vals := some (destVals f act t) }) t else t)

/-- R244, R249: any other instruction of an Assured lead: it acts, and the trace takes it. -/
def leadIssue (i : Instr) (f : Info) (act : Word) (s : State) (body : State → Res) : State :=
  match journalled (regUnits false f act s) s body with
  | .hold => heldAtIssue s
  | r => finish i f act s (r.onDone (pushTrace s.iss (livingLanes (curWarp s)) i))

/-- The ring slot that RGSIG and RGWAIT name (R486): 8 * ring + slot. -/
def ringSlot (i : BitVec 1) (a : BitVec 6) (r k : BitVec 3) (s : State) : Nat :=
  if i = 1 then (readQ s a.toNat).toNat % 64 else 8 * r.toNat + k.toNat

/-- R487: twins keep their own ring phases and signal them as their leads do; a wait of the twin follows the trace (R244;
log 50). -/
def twinRings (i : Instr) (act : Word) (s : State) : State :=
  match i with
  | .rgsig im a r k =>
    if act = 0 then s
    else
      let n := ringSlot im a r k s
      modBlk s.iss.bid (fun x => { x with twRings := lset false n (!lget false n x.twRings) x.twRings }) s
  | _ => s

/-- R244 to R246: the twin issues the same bundle: a compared action gives its operands and takes the queue's values; any
other acts on the twin's registers alone. An action of the twin that its lead has not made is a difference (R251); the cause
that a kill would then report, the spec leaves open (log 1). -/
def twinPass (i : Instr) (f : Info) (act : Word) (s : State) (body : State → Res) : State :=
  let wk := s.iss.wk
  let s := journalAdd s.iss.bid wk (regUnits true f act s) s
  if s.iss.cmp ≠ 0 then
    let vs := match (curWarp s).cmps.find? fun c => c.id == s.iss.cmp with | some c => c.vals.getD [] | none => []
    let t := modCmp wk s.iss.cmp (fun c => { c with twin := some (act, opVals i f act s) }) s
    modWarp wk (fun w => { w with tw := putVals vs (curWarp (zeroPolicy f act s)).tw }) t
  else if f.mode = 2 ∧ act ≠ 0 then
    let r := freeNat s
    rollback s.iss.bid ((Config.freeWord r.1).toNat % 256) r.2
  else
    let u := twinRings i act s
    let done := fun (t : State) => match lfind wk t.warps with
      | some w => modWarp wk (fun v => { v with tw := w.tw }) u
      | none => u
    match body s with
    | .next t => done (zeroPolicy f act (markDests i f act (destLanes i act s) t))
    | .moved t => done t
    | _ => u

/-- Assured kernels: a block of class 2 (R242). -/
def isAssured (s : State) : Bool := (curBlk s).cls == 2

/-- The checks of R339 on prefix and registers, and the interlock of R59, pass. -/
def issueOk (i : Instr) (s : State) : Bool :=
  let f := info (curPfx s) s.iss.hasPfx i
  honoured (curPfx s) s.iss.hasPfx i && f.args.all (argOk (curBlk s).wregs (curBlk s).qregs) &&
    !(f.all (curPfx s)).any (isPending s s.iss.lanes)

/-- R244 to R246: the issue of an instruction by an Assured lead. -/
def assuredIssue (i : Instr) (f : Info) (act : Word) (s : State) (body : State → Res) : State :=
  if assuredRoom f act s = false then heldAtIssue s
  else if f.mode = 2 ∧ act ≠ 0 then
    if cmpKind i = .held then heldAction i f act s body else passedAction i f act s body
  else leadIssue i f act s body

/-- R36, R339, R349, R350: the issue of an instruction by the bundle: its checks in order, then its body. A twin's bundle
has passed them as its lead's. -/
def issue (i : Instr) (s : State) (body : State → Res) : Out State :=
  if s.iss.live = false then .fault .noBundle
  else
    let f := info (curPfx s) s.iss.hasPfx i
    let act := active s f.g
    if s.iss.side = .twin then .next (twinPass i f act s body)
    else if !honoured (curPfx s) s.iss.hasPfx i then .next (if trapRoom s then trapHere 0x01 0 s else heldAtIssue s)
    else if !f.args.all (argOk (curBlk s).wregs (curBlk s).qregs) then .next (if trapRoom s then trapHere 0x03 0 s else heldAtIssue s)
    else if (f.all (curPfx s)).any (isPending s s.iss.lanes) then .next (heldAtIssue s)
    else if !isAssured s then .next (finish i f act s (body s))
    else .next (assuredIssue i f act s body)

/-- A warp-uniform body: it acts once with at least one active lane, and not at all with none (R350). -/
def uniformly (g : Nat) (s : State) (f : State → Res) : Res := if active s g = 0 then .next s else f s

end Sys2Proof.Machine
end

