-- ==== Sys2Proof/Machine/Flags.lean ====
section
/-! DEFINITION. Flags and arithmetic traps (R109 to R112), and the conditions of the compare instructions (R416, R476). -/

set_option Elab.async false

namespace Sys2Proof.Machine

/-- Flag bits of R109. -/
def flOV : Nat := 1
/-- Underflow. -/
def flUF : Nat := 2
/-- Invalid. -/
def flIV : Nat := 4
/-- Division by zero. -/
def flDZ : Nat := 8
/-- Cancellation. -/
def flCX : Nat := 16
/-- Non-uniform operand of VTOQ. -/
def flNU : Nat := 32
/-- Scope mismatch. -/
def flSC : Nat := 64
/-- Exposed interval. -/
def flEX : Nat := 128

/-- The union of flag sets. -/
def flUnion (l : List Nat) : Nat := l.foldl Nat.lor 0

/-- R47, R111: ends an arithmetic instruction whose lanes raised flags: an enabled one in a lane that is not a helper
traps with 0x0C before any other effect, all flags being set; otherwise the flags are set and the results written. -/
def arith (rs : List (Nat × Nat)) (write : State → State) (s : State) : Res :=
  let rs := rs.filter fun e => !isHelper s e.1
  let fl := flUnion (rs.map fun e => e.2)
  let en := (curBlk s).trapen.toNat % 32
  let t := setFlags s.iss.bid (BitVec.ofNat 32 fl) s
  match rs.find? fun e => Nat.land e.2 en != 0 with
  | some e => .trap t 0x0C (fl + 256 * e.1)
  | none => .next (write t)

/-- The conditions of ICMP and QCMP: signed and unsigned comparisons. -/
def cmpCond {n : Nat} (c : Nat) (x y : BitVec n) : Bool :=
  match c with
  | 0 => x == y
  | 1 => x != y
  | 2 => x.slt y
  | 3 => x.sle y
  | 4 => y.slt x
  | 5 => y.sle x
  | 6 => x.ult y
  | _ => y.ule x

end Sys2Proof.Machine
end

