-- ==== Sys2Proof/Machine/Integer.lean ====
section
/-! DEFINITION. The integer, logic, bit and predicate instructions (R352): AND to BYTEP (R373, R386 to R397), IABS to
ISHR (R414 to R423), MOV (R465), PLOP, PTOW and WTOP (R472, R473). -/

set_option Elab.async false

namespace Sys2Proof.Machine

/-- A word of the bits that a function gives. -/
def ofBits (n : Nat) (f : Nat → Bool) : BitVec n :=
  BitVec.ofNat n ((List.range n).foldl (fun v i => if f i then v + 2 ^ i else v) 0)

/-- The high half of a signed product. -/
def mulHighS (x y : Word) : Word := ((x.signExtend 64) * (y.signExtend 64)).extractLsb' 32 32

/-- The high half of an unsigned product. -/
def mulHighU (x y : Word) : Word := ((x.setWidth 64) * (y.setWidth 64)).extractLsb' 32 32

/-- R423: left shift, zero from the width on. -/
def shlBy {n : Nat} (x : BitVec n) (c : Nat) : BitVec n := if c ≥ n then 0 else x <<< c

/-- R423: logical right shift, zero from the width on. -/
def shrBy {n : Nat} (x : BitVec n) (c : Nat) : BitVec n := if c ≥ n then 0 else x >>> c

/-- R423: arithmetic right shift, by at most the width less one. -/
def sarBy {n : Nat} (x : BitVec n) (c : Nat) : BitVec n := x.sshiftRight (min c (n - 1))

/-- The low n bits of a word, extended to 64 bits (R417). -/
def extend (x : Word) (n : Nat) (signed : Bool) : BitVec 64 :=
  let v := x.toNat % 2 ^ n
  BitVec.ofNat 64 (if signed && decide (v ≥ 2 ^ (n - 1)) then v + 2 ^ 64 - 2 ^ n else v)

/-- A field of a 64-bit value, as a word (R387). -/
def bitField (x : BitVec 64) (pos len : Nat) : Word := BitVec.ofNat 32 (x.toNat / 2 ^ pos % 2 ^ len)

/-- POPC (R395). -/
def popCount (x : Word) : Word := BitVec.ofNat 32 ((List.range 32).filter fun i => x.getLsbD i).length

/-- CLZ (R395). -/
def leadingZeros (x : Word) : Word := if x = 0 then 32 else BitVec.ofNat 32 (31 - Nat.log2 x.toNat)

/-- BREV (R395). -/
def bitReverse (x : Word) : Word := ofBits 32 fun i => x.getLsbD (31 - i)

/-- The set bits of a mask, ascending. -/
def setBits (m : Word) : List Nat := (List.range 32).filter fun i => m.getLsbD i

/-- BDEP (R386): bit k of x goes to the k-th set bit of the mask. -/
def bitDeposit (x m : Word) : Word :=
  BitVec.ofNat 32 (((setBits m).zipIdx).foldl (fun v e => if x.getLsbD e.2 then v + 2 ^ e.1 else v) 0)

/-- BEXT (R386): the k-th set bit of the mask selects bit k of the result. -/
def bitExtract (x m : Word) : Word :=
  BitVec.ofNat 32 (((setBits m).zipIdx).foldl (fun v e => if x.getLsbD e.1 then v + 2 ^ e.2 else v) 0)

/-- BMM8 (R390): the product of two 8 by 8 matrices over GF(2). -/
def bitMatMul (x y : BitVec 64) : BitVec 64 :=
  ofBits 64 fun i => (List.range 8).foldl (fun b k => b ^^ (x.getLsbD (8 * (i / 8) + k) && y.getLsbD (8 * k + i % 8))) false

/-- BYTEP (R397). -/
def bytePerm (a b sel : Word) : Word :=
  let pool := b ++ a
  BitVec.ofNat 32 ((List.range 4).foldl (fun r i =>
    let n := sel.toNat / 2 ^ (4 * i) % 16
    let y := pool.toNat / 2 ^ (8 * (n % 8)) % 256
    r + 2 ^ (8 * i) * (if n ≥ 8 then (if y ≥ 128 then 255 else 0) else y)) 0)

/-- PLOP's operations (R472). -/
def predOp (c : Nat) (a b : Bool) : Bool :=
  match c with
  | 0 => a && b
  | 1 => a || b
  | 2 => a ^^ b
  | 3 => a && !b
  | 4 => a || !b
  | 5 => !(a && b)
  | 6 => !(a || b)
  | _ => !(a ^^ b)

/-- A lane-wise function of two words. -/
def wop2 (g : BitVec 3) (d a b : BitVec 7) (f : Word → Word → Word) (s : State) : Res :=
  .next (writeLanes (active s g.toNat) d.toNat (fun l => f (readW s a.toNat l) (readW s b.toNat l)) s)

/-- A lane-wise function of two pairs. -/
def dop2 (g : BitVec 3) (d a b : BitVec 7) (f : BitVec 64 → BitVec 64 → BitVec 64) (s : State) : Res :=
  .next (writeLanesD (active s g.toNat) d.toNat (fun l => f (readD s a.toNat l) (readD s b.toNat l)) s)

/-- A lane-wise function of one word. -/
def wop1 (g : Nat) (d a : BitVec 7) (f : Word → Word) (s : State) : Res :=
  .next (writeLanes (active s g) d.toNat (fun l => f (readW s a.toNat l)) s)

/-- IADD: 32-bit sum, wrapping (R415). -/
def execIadd (d a b : BitVec 7) (g : BitVec 3) (s : State) : Out State :=
  issue (.iadd d a b g) s fun s => wop2 g d a b (fun x y => x + y) s

/-- IADD.d: 64-bit sum on even pairs (R415). -/
def execIaddD (d a b : BitVec 7) (g : BitVec 3) (s : State) : Out State :=
  issue (.iaddD d a b g) s fun s => dop2 g d a b (fun x y => x + y) s

/-- ISUB (R415). -/
def execIsub (d a b : BitVec 7) (g : BitVec 3) (s : State) : Out State :=
  issue (.isub d a b g) s fun s => wop2 g d a b (fun x y => x - y) s

/-- ISUB.d (R415). -/
def execIsubD (d a b : BitVec 7) (g : BitVec 3) (s : State) : Out State :=
  issue (.isubD d a b g) s fun s => dop2 g d a b (fun x y => x - y) s

/-- IMUL: low half (R421). -/
def execImul (d a b : BitVec 7) (g : BitVec 3) (s : State) : Out State :=
  issue (.imul d a b g) s fun s => wop2 g d a b (fun x y => x * y) s

/-- IMUL.d (R421). -/
def execImulD (d a b : BitVec 7) (g : BitVec 3) (s : State) : Out State :=
  issue (.imulD d a b g) s fun s => dop2 g d a b (fun x y => x * y) s

/-- IMULH: high half of the signed product (R421). -/
def execImulh (d a b : BitVec 7) (g : BitVec 3) (s : State) : Out State :=
  issue (.imulh d a b g) s fun s => wop2 g d a b mulHighS s

/-- IMULH.u: high half of the unsigned product (R421). -/
def execImulhU (d a b : BitVec 7) (g : BitVec 3) (s : State) : Out State :=
  issue (.imulhU d a b g) s fun s => wop2 g d a b mulHighU s

/-- IMAD: product plus w(d) (R419). -/
def execImad (d a b : BitVec 7) (g : BitVec 3) (s : State) : Out State :=
  issue (.imad d a b g) s fun s => .next (writeLanes (active s g.toNat) d.toNat (fun l => readW s a.toNat l * readW s b.toNat l + readW s d.toNat l) s)

/-- IMIN, signed (R420). -/
def execImin (d a b : BitVec 7) (g : BitVec 3) (s : State) : Out State :=
  issue (.imin d a b g) s fun s => wop2 g d a b (fun x y => if x.slt y then x else y) s

/-- IMIN.u (R420). -/
def execIminU (d a b : BitVec 7) (g : BitVec 3) (s : State) : Out State :=
  issue (.iminU d a b g) s fun s => wop2 g d a b (fun x y => if x.ult y then x else y) s

/-- IMAX, signed (R420). -/
def execImax (d a b : BitVec 7) (g : BitVec 3) (s : State) : Out State :=
  issue (.imax d a b g) s fun s => wop2 g d a b (fun x y => if x.slt y then y else x) s

/-- IMAX.u (R420). -/
def execImaxU (d a b : BitVec 7) (g : BitVec 3) (s : State) : Out State :=
  issue (.imaxU d a b g) s fun s => wop2 g d a b (fun x y => if x.ult y then y else x) s

/-- IABS (R414). -/
def execIabs (d a : BitVec 7) (g : BitVec 3) (s : State) : Out State :=
  issue (.iabs d a g) s fun s => wop1 g.toNat d a (fun x => if x.msb then -x else x) s

/-- ISHL (R423). -/
def execIshl (d a b : BitVec 7) (g : BitVec 3) (s : State) : Out State :=
  issue (.ishl d a b g) s fun s => wop2 g d a b (fun x y => shlBy x y.toNat) s

/-- ISHL.d (R423). -/
def execIshlD (d a b : BitVec 7) (g : BitVec 3) (s : State) : Out State :=
  issue (.ishlD d a b g) s fun s => .next (writeLanesD (active s g.toNat) d.toNat (fun l => shlBy (readD s a.toNat l) (readW s b.toNat l).toNat) s)

/-- ISHR, logical (R423). -/
def execIshr (d a b : BitVec 7) (g : BitVec 3) (s : State) : Out State :=
  issue (.ishr d a b g) s fun s => wop2 g d a b (fun x y => shrBy x y.toNat) s

/-- ISHR.s, arithmetic (R423). -/
def execIshrS (d a b : BitVec 7) (g : BitVec 3) (s : State) : Out State :=
  issue (.ishrS d a b g) s fun s => wop2 g d a b (fun x y => sarBy x y.toNat) s

/-- ISHR.d (R423). -/
def execIshrD (d a b : BitVec 7) (g : BitVec 3) (s : State) : Out State :=
  issue (.ishrD d a b g) s fun s => .next (writeLanesD (active s g.toNat) d.toNat (fun l => shrBy (readD s a.toNat l) (readW s b.toNat l).toNat) s)

/-- ISHR.ds (R423). -/
def execIshrDs (d a b : BitVec 7) (g : BitVec 3) (s : State) : Out State :=
  issue (.ishrDs d a b g) s fun s => .next (writeLanesD (active s g.toNat) d.toNat (fun l => sarBy (readD s a.toNat l) (readW s b.toNat l).toNat) s)

/-- IEXT: keeps n bits, sign- or zero-extended to 32 or 64 bits (R417). -/
def execIext (d a : BitVec 7) (w sg : BitVec 1) (n : BitVec 5) (s : State) : Out State :=
  issue (.iext d a w sg n) s fun s => 
    let f := fun l => extend (readW s a.toNat l) (n.toNat + 1) (sg == 1)
    if w = 1 then .next (writeLanesD (active s 0) d.toNat f s)
    else .next (writeLanes (active s 0) d.toNat (fun l => (f l).extractLsb' 0 32) s)

/-- ICMP (R416). -/
def execIcmp (c : BitVec 3) (p : BitVec 4) (a b : BitVec 7) (g : BitVec 3) (s : State) : Out State :=
  issue (.icmp c p a b g) s fun s => .next (writeLanesP (active s g.toNat) p.toNat (fun l => cmpCond c.toNat (readW s a.toNat l) (readW s b.toNat l)) s)

/-- ICMP.d (R416). -/
def execIcmpD (c : BitVec 3) (p : BitVec 4) (a b : BitVec 7) (g : BitVec 3) (s : State) : Out State :=
  issue (.icmpD c p a b g) s fun s => .next (writeLanesP (active s g.toNat) p.toNat (fun l => cmpCond c.toNat (readD s a.toNat l) (readD s b.toNat l)) s)

/-- ISEL: the guard field is the selector (R422). -/
def execIsel (d a b : BitVec 7) (k : BitVec 3) (s : State) : Out State :=
  issue (.isel d a b k) s fun s => .next (writeLanes (active s 0) d.toNat (fun l => if readP s k.toNat l then readW s a.toNat l else readW s b.toNat l) s)

/-- AND (R373). -/
def execAnd (d a b : BitVec 7) (g : BitVec 3) (s : State) : Out State :=
  issue (.and d a b g) s fun s => wop2 g d a b (fun x y => x &&& y) s

/-- OR (R373). -/
def execOr (d a b : BitVec 7) (g : BitVec 3) (s : State) : Out State :=
  issue (.or d a b g) s fun s => wop2 g d a b (fun x y => x ||| y) s

/-- XOR (R373). -/
def execXor (d a b : BitVec 7) (g : BitVec 3) (s : State) : Out State :=
  issue (.xor d a b g) s fun s => wop2 g d a b (fun x y => x ^^^ y) s

/-- ANDN (R373). -/
def execAndn (d a b : BitVec 7) (g : BitVec 3) (s : State) : Out State :=
  issue (.andn d a b g) s fun s => wop2 g d a b (fun x y => x &&& ~~~y) s

/-- POPC (R395). -/
def execPopc (d a : BitVec 7) (g : BitVec 3) (s : State) : Out State :=
  issue (.popc d a g) s fun s => wop1 g.toNat d a popCount s

/-- CLZ (R395). -/
def execClz (d a : BitVec 7) (g : BitVec 3) (s : State) : Out State :=
  issue (.clz d a g) s fun s => wop1 g.toNat d a leadingZeros s

/-- BREV (R395). -/
def execBrev (d a : BitVec 7) (g : BitVec 3) (s : State) : Out State :=
  issue (.brev d a g) s fun s => wop1 g.toNat d a bitReverse s

/-- BFE (R387). -/
def execBfe (d a : BitVec 7) (len pos : BitVec 5) (s : State) : Out State :=
  issue (.bfe d a len pos) s fun s => wop1 0 d a (fun x => bitField (x.setWidth 64) pos.toNat (len.toNat + 1)) s

/-- BFE.s (R387). -/
def execBfeS (d a : BitVec 7) (len pos : BitVec 5) (s : State) : Out State :=
  issue (.bfeS d a len pos) s fun s => wop1 0 d a (fun x => (extend (bitField (x.signExtend 64) pos.toNat (len.toNat + 1)) (len.toNat + 1) true).extractLsb' 0 32) s

/-- BFI (R388). -/
def execBfi (d a : BitVec 7) (len pos : BitVec 5) (s : State) : Out State :=
  issue (.bfi d a len pos) s fun s => 
    let m : Word := BitVec.ofNat 32 ((2 ^ (len.toNat + 1) - 1) * 2 ^ pos.toNat)
    .next (writeLanes (active s 0) d.toNat
      (fun l => (readW s d.toNat l &&& ~~~m) ||| (BitVec.ofNat 32 ((readW s a.toNat l).toNat * 2 ^ pos.toNat) &&& m)) s)

/-- BDEP (R386). -/
def execBdep (d a b : BitVec 7) (g : BitVec 3) (s : State) : Out State :=
  issue (.bdep d a b g) s fun s => wop2 g d a b bitDeposit s

/-- BEXT (R386). -/
def execBext (d a b : BitVec 7) (g : BitVec 3) (s : State) : Out State :=
  issue (.bext d a b g) s fun s => wop2 g d a b bitExtract s

/-- BPERM (R391, R392). -/
def execBperm (d a : BitVec 7) (k : BitVec 2) (g : BitVec 3) (s : State) : Out State :=
  issue (.bperm d a k g) s fun s => 
    .next (writeLanesD (active s g.toNat) d.toNat (fun l =>
      let x := readD s a.toNat l
      ofBits 64 fun i => x.getLsbD ((lfind (64 * k.toNat + i) (regsOf s).perm).getD i)) s)

/-- BPSET: the 384 bits of twelve q registers fill a slot (R393). -/
def execBpset (a : BitVec 6) (k : BitVec 2) (s : State) : Out State :=
  issue (.bpset a k) s fun s => 
    uniformly 0 s fun s =>
      let q := (List.range 12).foldl (fun n j => n + (readQ s (a.toNat + j)).toNat * 2 ^ (32 * j)) 0
      .next (modRegs (fun r => { r with perm := (List.range 64).foldl (fun m i =>
        let v := q / 2 ^ (6 * i) % 64
        if v = i then ldel (64 * k.toNat + i) m else lput (64 * k.toNat + i) v m) r.perm }) s)

/-- BMM8 (R390). -/
def execBmm8 (d a b : BitVec 7) (g : BitVec 3) (s : State) : Out State :=
  issue (.bmm8 d a b g) s fun s => dop2 g d a b bitMatMul s

/-- BYTEP: w(d) is the selector (R397). -/
def execBytep (d a b : BitVec 7) (g : BitVec 3) (s : State) : Out State :=
  issue (.bytep d a b g) s fun s => .next (writeLanes (active s g.toNat) d.toNat (fun l => bytePerm (readW s a.toNat l) (readW s b.toNat l) (readW s d.toNat l)) s)

/-- MOV (R465). -/
def execMov (d a : BitVec 7) (g : BitVec 3) (s : State) : Out State :=
  issue (.mov d a g) s fun s => wop1 g.toNat d a (fun x => x) s

/-- MOV.d (R465). -/
def execMovD (d a : BitVec 7) (g : BitVec 3) (s : State) : Out State :=
  issue (.movD d a g) s fun s => .next (writeLanesD (active s g.toNat) d.toNat (fun l => readD s a.toNat l) s)

/-- MOVI (R465). -/
def execMovi (d : BitVec 7) (i : BitVec 17) (s : State) : Out State :=
  issue (.movi d i) s fun s => .next (writeLanes (active s 0) d.toNat (fun _ => i.signExtend 32) s)

/-- MOVHI (R465). -/
def execMovhi (d : BitVec 7) (i : BitVec 16) (s : State) : Out State :=
  issue (.movhi d i) s fun s => .next (writeLanes (active s 0) d.toNat (fun l => i ++ (readW s d.toNat l).extractLsb' 0 16) s)

/-- PLOP (R472). -/
def execPlop (c : BitVec 3) (d a b : BitVec 4) (g : BitVec 3) (s : State) : Out State :=
  issue (.plop c d a b g) s fun s => .next (writeLanesP (active s g.toNat) d.toNat (fun l => predOp c.toNat (readP s a.toNat l) (readP s b.toNat l)) s)

/-- PTOW (R473). -/
def execPtow (d : BitVec 7) (g : BitVec 3) (s : State) : Out State :=
  issue (.ptow d g) s fun s => .next (writeLanes (active s g.toNat) d.toNat (fun l => ofBits 32 fun i => decide (i < 16) && readP s i l) s)

/-- WTOP (R473). -/
def execWtop (a : BitVec 7) (g : BitVec 3) (s : State) : Out State :=
  issue (.wtop a g) s fun s => 
    .next (eachLane (active s g.toNat) (fun l t =>
      (List.range 15).foldl (fun t i => writeP (i + 1) l ((readW s a.toNat l).getLsbD (i + 1)) t) t) s)

end Sys2Proof.Machine
end

