-- ==== Sys2Proof/Machine/Uniform.lean ====
section
/-! DEFINITION. The uniform instructions and the moves between lane and uniform registers (R353, R474 to R478). -/

set_option Elab.async false

namespace Sys2Proof.Machine

/-- R474: the second operand of QADD, QSUB and QMUL: an immediate, or q(b). -/
def qOperand (b i : BitVec 6) (s : State) : Word := if i = 0 then readQ s b.toNat else i.setWidth 32

/-- A uniform result, written once with at least one active lane (R350, R475). -/
def qWrite (d : BitVec 6) (v : Word) (s : State) : Res := uniformly 0 s fun s => .next (writeQ d.toNat v s)

/-- QADD (R475). -/
def execQadd (d a b i : BitVec 6) (s : State) : Out State :=
  issue (.qadd d a b i) s fun s => qWrite d (readQ s a.toNat + qOperand b i s) s

/-- QSUB (R475). -/
def execQsub (d a b i : BitVec 6) (s : State) : Out State :=
  issue (.qsub d a b i) s fun s => qWrite d (readQ s a.toNat - qOperand b i s) s

/-- QMUL (R475). -/
def execQmul (d a b i : BitVec 6) (s : State) : Out State :=
  issue (.qmul d a b i) s fun s => qWrite d (readQ s a.toNat * qOperand b i s) s

/-- QLOP's functions (R474, R475). -/
def qlopFn (f : Nat) (x y : Word) : Word :=
  match f with
  | 0 => x &&& y
  | 1 => x ||| y
  | 2 => x ^^^ y
  | 3 => x &&& ~~~y
  | _ => ~~~x

/-- QLOP (R475). -/
def execQlop (d a b : BitVec 6) (f : BitVec 3) (s : State) : Out State :=
  issue (.qlop d a b f) s fun s => qWrite d (qlopFn f.toNat (readQ s a.toNat) (readQ s b.toNat)) s

/-- QSHF (R475). -/
def execQshf (d a b : BitVec 6) (k : BitVec 2) (s : State) : Out State :=
  issue (.qshf d a b k) s fun s =>
    let x := readQ s a.toNat
    let c := (readQ s b.toNat).toNat
    qWrite d (match k.toNat with | 0 => shlBy x c | 1 => shrBy x c | _ => sarBy x c) s

/-- QCMP: evaluated once, written by each active lane (R476). -/
def execQcmp (p : BitVec 4) (a b : BitVec 6) (c : BitVec 3) (s : State) : Out State :=
  issue (.qcmp p a b c) s fun s =>
    .next (writeLanesP (active s 0) p.toNat (fun _ => cmpCond c.toNat (readQ s a.toNat) (readQ s b.toNat)) s)

/-- QMOVI (R475). -/
def execQmovi (d : BitVec 6) (i : BitVec 18) (s : State) : Out State :=
  issue (.qmovi d i) s fun s => qWrite d (i.signExtend 32) s

/-- QMOVHI (R475). -/
def execQmovhi (d : BitVec 6) (i : BitVec 16) (s : State) : Out State :=
  issue (.qmovhi d i) s fun s => qWrite d (i ++ (readQ s d.toNat).extractLsb' 0 16) s

/-- VTOQ: the value of the lowest active lane; another value in an active lane that is no helper raises NU, and traps
with 0x0E where NU is enabled (R478). -/
def execVtoq (d : BitVec 6) (a : BitVec 7) (g : BitVec 3) (s : State) : Out State :=
  issue (.vtoq d a g) s fun s =>
    uniformly g.toNat s fun s =>
      let act := lanesOf (active s g.toNat)
      let v := readW s a.toNat (act.headD 0)
      let dif := act.filter fun l => !isHelper s l && readW s a.toNat l != v
      let t := if dif.isEmpty then s else setFlags s.iss.bid 0x20 s
      if !dif.isEmpty && (curBlk s).trapen.getLsbD 5 then .trap t 0x0E (0x20 + 256 * dif.headD 0)
      else .next (writeQ d.toNat v t)

/-- QTOV (R477). -/
def execQtov (d : BitVec 7) (a : BitVec 6) (g : BitVec 3) (s : State) : Out State :=
  issue (.qtov d a g) s fun s => .next (writeLanes (active s g.toNat) d.toNat (fun _ => readQ s a.toNat) s)

end Sys2Proof.Machine
end

