-- ==== Sys2Proof/Machine/CrossLane.lean ====
section
/-! DEFINITION. The cross-lane and mask instructions (R356, R460, R461, R479, R488, R489, R504; R42 to R46). -/

set_option Elab.async false

namespace Sys2Proof.Machine

/-- R488: the source lane of SHFL, where there is one: forms lane, flip, lower, higher. -/
def laneSource (form l : Nat) (x : Word) : Option Nat :=
  match form with
  | 0 => some (x.toNat % 32)
  | 1 => some (Nat.xor l (x.toNat % 32))
  | 2 => if x.toNat ≤ l then some (l - x.toNat) else none
  | _ => if l + x.toNat ≤ 31 then some (l + x.toNat) else none

/-- SHFL: lane l takes w(a) of its source lane, or its own (R488). -/
def shuffle (g : BitVec 3) (d a b : BitVec 7) (form : Nat) (s : State) : Res :=
  .next (writeLanes (active s g.toNat) d.toNat
    (fun l => readW s a.toNat ((laneSource form l (readW s b.toNat l)).getD l)) s)

/-- SHFL.lane (R488). -/
def execShflLane (d a b : BitVec 7) (g : BitVec 3) (s : State) : Out State :=
  issue (.shflLane d a b g) s fun s => shuffle g d a b 0 s

/-- SHFL.flip (R488). -/
def execShflFlip (d a b : BitVec 7) (g : BitVec 3) (s : State) : Out State :=
  issue (.shflFlip d a b g) s fun s => shuffle g d a b 1 s

/-- SHFL.lower (R488). -/
def execShflLower (d a b : BitVec 7) (g : BitVec 3) (s : State) : Out State :=
  issue (.shflLower d a b g) s fun s => shuffle g d a b 2 s

/-- SHFL.higher (R488). -/
def execShflHigher (d a b : BitVec 7) (g : BitVec 3) (s : State) : Out State :=
  issue (.shflHigher d a b g) s fun s => shuffle g d a b 3 s

/-- SHWR: each active lane, ascending, writes w(a) into w(d) of the launched lane that w(b) names, after the zero policy
has written the bundle's inactive lanes (R489). -/
def execShwr (d a b : BitVec 7) (g : BitVec 3) (s : State) : Out State :=
  issue (.shwr d a b g) s fun s =>
    let act := active s g.toNat
    let z := if (curPfx s).zero then writeLanes (s.iss.lanes &&& ~~~act) d.toNat (fun _ => 0) s else s
    let t := eachLane act (fun l t =>
      let k := (readW s b.toNat l).toNat % 32
      if (laneOf (curWarp s) k).isSome then writeW d.toNat k (readW s a.toNat l) t else t) z
    .next { t with iss := { t.iss with pfx := t.iss.pfx &&& ~~~0x400#32 } }

/-- The source lane of QUADX (R479). -/
def quadSource (m l : Nat) : Nat :=
  let q := l % 4
  4 * (l / 4) + (match m with | 0 => Nat.xor q 1 | 1 => Nat.xor q 2 | 2 => Nat.xor q 3 | _ => (m - 3) % 4)

/-- QUADX (R479). -/
def execQuadx (d a : BitVec 7) (m : BitVec 3) (s : State) : Out State :=
  issue (.quadx d a m) s fun s =>
    .next (writeLanes (active s 0) d.toNat (fun l => readW s a.toNat (quadSource m.toNat l)) s)

/-- VOTE (R504). -/
def execVote (m : BitVec 3) (p : BitVec 4) (i : BitVec 1) (a : BitVec 4) (q : BitVec 7) (g : BitVec 3) (s : State) : Out State :=
  issue (.vote m p i a q g) s fun s =>
    uniformly g.toNat s fun s =>
      let act := active s g.toNat
      let v := laneSet ((lanesOf act).filter fun l => readP s a.toNat l != (i == 1))
      match m.toNat with
      | 0 => .next (writeQ q.toNat v s)
      | 1 => .next (writeLanesP act p.toNat (fun _ => v == act) s)
      | 2 => .next (writeLanesP act p.toNat (fun _ => v != 0) s)
      | _ => .next (writeLanesP act p.toNat (fun _ => v == act || v == 0) s)

/-- Sets a mask of the issuing warp (R43). -/
def setMask (m : Nat) (f : Word → Word) (s : State) : State :=
  writeMask m (f (readMask s m)) s

/-- MJOIN: adds the active lanes (R461). -/
def execMjoin (m : BitVec 6) (s : State) : Out State :=
  issue (.mjoin m) s fun s => .next (setMask m.toNat (fun x => x ||| active s 0) s)

/-- MLEAVE: removes the active lanes (R461). -/
def execMleave (m : BitVec 6) (s : State) : Out State :=
  issue (.mleave m) s fun s => .next (setMask m.toNat (fun x => x &&& ~~~(active s 0)) s)

/-- MWAIT: holds the active members; the others pass (R44, R461). -/
def execMwait (m : BitVec 6) (s : State) : Out State :=
  issue (.mwait m) s fun s =>
    let hold := active s 0 &&& readMask s m.toNat
    .moved (advance (s.iss.lanes &&& ~~~hold) (holdLanes hold (.mwait m.toNat) s))

/-- MREAD (R461). -/
def execMread (d m : BitVec 6) (s : State) : Out State :=
  issue (.mread d m) s fun s => uniformly 0 s fun s => .next (writeQ d.toNat (readMask s m.toNat) s)

/-- The launched lanes of the bundle's warp that had not exited when its lead issued it: a twin comes later (R244, R462). -/
def aliveLanes (s : State) : Word := if s.iss.side = .twin then s.iss.alive.getD (livingLanes (curWarp s)) else livingLanes (curWarp s)

/-- MSET: the mask becomes q(b), less the lanes that are not launched or have exited (R461). -/
def execMset (m b : BitVec 6) (s : State) : Out State :=
  issue (.mset m b) s fun s =>
    uniformly 0 s fun s => .next (setMask m.toNat (fun _ => readQ s b.toNat &&& aliveLanes s) s)

end Sys2Proof.Machine
end

