-- ==== Sys2Proof/Machine/Control.lean ====
section
/-! DEFINITION. The control, barrier, ring, trap and special-register instructions (R359, R360, R382 to R385, R389,
R394, R396, R398, R406, R408, R469 to R471, R485 to R487, R490, R500 to R503, R505). -/

set_option Elab.async false

namespace Sys2Proof.Machine

/-- R246: the warp has an STL whose writes await their comparison. -/
def stlWaits (w : Warp) : Bool := w.cmps.any fun c => c.kind == .stl

/-- R192: a release of the warp is held until its store count is zero and its loads have read their values; the writes of
an STL that await their comparison are earlier events too (R189, R246). -/
def releaseReady (w : Warp) : Bool := w.rsc == 0 && w.loads.isEmpty && !stlWaits w

/-- Holds a release at issue until R192 lets it go. -/
def whenReleased (s : State) (f : State → Res) : Res := if releaseReady (curWarp s) then f s else .hold

/-- The target of a format E branch (R347). -/
def branchTarget (o : BitVec 21) (s : State) : Word := s.iss.hnext + (o.signExtend 32) * 4#32

/-- R38, R394: active lanes go to their targets, inactive lanes of the bundle to the next header, with the branch
bubble. -/
def branchLanes (act : Word) (target : Nat → Word) (s : State) : State :=
  eachLane act (fun l t => moveLanes (laneSet [l]) (target l) false 1 t)
    (moveLanes (s.iss.lanes &&& ~~~act) s.iss.hnext false 1 s)

/-- BRA (R394). -/
def execBra (o : BitVec 21) (g : BitVec 3) (s : State) : Out State :=
  issue (.bra o g) s fun s => .moved (branchLanes (active s g.toNat) (fun _ => branchTarget o s) s)

/-- BRX: each active lane goes to its own w(a); a value that is not a multiple of 4 traps with 0x05 (R396). -/
def execBrx (a : BitVec 7) (g : BitVec 3) (s : State) : Out State :=
  issue (.brx a g) s fun s =>
    let act := active s g.toNat
    match (lanesOf act).find? fun l => (readW s a.toNat l).toNat % 4 != 0 with
    | some l => .trap s 0x05 (readW s a.toNat l).toNat
    | none => .moved (branchLanes act (fun l => readW s a.toNat l) s)

/-- Writes sr.link of a lane. -/
def writeLink (l : Nat) (v : Word) (s : State) : State := modRegs (fun r => { r with link := lset 0 l v r.link }) s

/-- CALL (R398). -/
def execCall (o : BitVec 21) (g : BitVec 3) (s : State) : Out State :=
  issue (.call o g) s fun s =>
    let act := active s g.toNat
    .moved (branchLanes act (fun _ => branchTarget o s) (eachLane act (fun l t => writeLink l s.iss.hnext t) s))

/-- RET (R485). -/
def execRet (g : BitVec 3) (s : State) : Out State :=
  issue (.ret g) s fun s =>
    .moved (branchLanes (active s g.toNat) (fun l => lget 0 l (regsOf s).link) s)

/-- R408, R502: the handler has ended: every other lane of the warp is released where it stands, as one group (R45);
with a deferred cause pending and the end by exits, those lanes enter the handler at once with the lowest cause. -/
def endHandler (wk : Nat) (reenter : Bool) (s : State) : State :=
  let w := warpOf s wk
  let free := laneSet ((w.lanes.filter fun e => !e.2.exited).map fun e => e.1)
  let s := modWarp wk (fun w => modLanes free (fun x => { x with group := w.groups + 1 })
    { w with inHandler := false, trapLanes := 0, groups := w.groups + 1 }) s
  match reenter, w.deferred, handlerOf s w.bid with
  | true, (c, addr) :: t, some h =>
    if free = 0 then s
    else modWarp wk (fun w => modLanes free (fun x => { x with pc := h, clause := none, hold := .none, bubble := 1, group := 0 })
      { trapRegs c true w.tpc addr w with inHandler := true, trapLanes := free, deferred := t }) s
  | _, _, _ => s

/-- R43, R406, R408: active lanes exit: they leave every mask and are never ready again. -/
def exitLanes (act : Word) (s : State) : State :=
  let s := modCur (fun w => modLanes act (fun x => { x with pc := s.iss.pc, clause := none, hold := .none, exited := true })
    w) (modRegs (fun r => { r with masks := lmap (fun _ m => m &&& ~~~act) r.masks }) s)
  let w := curWarp s
  if w.inHandler then
    let left := w.trapLanes &&& ~~~act
    let s := modCur (fun w => { w with trapLanes := left }) s
    if left = 0 then endHandler s.iss.wk true s else s
  else s

/-- EXIT (R406). -/
def execExit (g : BitVec 3) (s : State) : Out State :=
  issue (.exit g) s fun s =>
    let act := active s g.toNat
    .moved (exitLanes act (advance (s.iss.lanes &&& ~~~act) s))

/-- TRAP: the active lanes take 0x11; the bundle's inactive lanes go to the next header (R500). -/
def execTrap (c : BitVec 10) (s : State) : Out State :=
  issue (.trap c) s fun s =>
    let act := active s 0
    if act = 0 then .next s
    else .moved (takeTrap s.iss.wk act 0x11 false s.iss.hnext c.toNat none (advance (s.iss.lanes &&& ~~~act) s))

/-- R502: re-enters the handler for the lowest deferred cause. -/
def reenterHandler (act : Word) (cause addr : Nat) (rest : SMap Nat) (s : State) : State :=
  match handlerOf s s.iss.bid with
  | none => s
  | some h =>
    modCur (fun w => modLanes act (fun x => { x with pc := h, clause := none, hold := .none, bubble := 2, group := 0 })
      { trapRegs cause true w.tpc addr w with trapLanes := act, deferred := rest }) s

/-- The place of an offset that a trap return gives: inside the trapping bundle's clause, or a header (R511). -/
def resumeClause (w : Warp) : Option (Word × Word) :=
  match w.trapClause with
  | some (h, hw) =>
    if (h + 4#32).toNat ≤ w.tpc.toNat ∧ w.tpc.toNat < h.toNat + 4 * ((hw.extractLsb' 25 4).toNat + 1) then some (h, hw) else none
  | none => none

/-- The offset to which a trap return goes: sr.tpc, but to the prefix of a pair whose instruction word it names, which no
counter may name (R340; DESIGN CHOICE, log 21). -/
def returnPc (w : Warp) : Word := if (resumeClause w).isSome ∧ w.trapPairs.contains w.tpc.toNat then w.tpc - 4#32 else w.tpc

/-- TRET (R501, R502). -/
def execTret (g : BitVec 3) (s : State) : Out State :=
  issue (.tret g) s fun s =>
    let act := active s g.toNat
    let w := curWarp s
    if !w.inHandler then .trap s 0x01 0
    else if act = 0 then .moved (branchLanes 0 (fun _ => 0) s)
    else
      match w.deferred with
      | (c, addr) :: t => .moved (reenterHandler act c addr t (branchLanes act (fun _ => w.tpc) s))
      | [] =>
        let s1 := branchLanes act (fun _ => returnPc w) s
        let s2 := modCur (fun w => modLanes act (fun x => { x with clause := resumeClause w, refetch := (resumeClause w).isSome })
          { w with trapLanes := w.trapLanes &&& ~~~act }) s1
        .moved (if (curWarp s2).trapLanes = 0 then endHandler s.iss.wk false s2 else s2)

/-- BKPT: the active lanes take 0x12 with sr.tpc at the following word (R389). -/
def execBkpt (t : BitVec 10) (s : State) : Out State :=
  issue (.bkpt t) s fun s =>
    let act := active s 0
    if act = 0 then .next s
    else
      let cl := if s.iss.last then none else some (s.iss.hoff, s.iss.hdr)
      .moved (takeTrap s.iss.wk act 0x12 false s.iss.next t.toNat cl (advance (s.iss.lanes &&& ~~~act) s))

/-- NOP (R469). -/
def execNop (g : BitVec 3) (s : State) : Out State := issue (.nop g) s fun s => .next s

/-- YIELD: counts for rule 2 of R39 (R469). -/
def execYield (g : BitVec 3) (s : State) : Out State :=
  issue (.yield g) s fun s => uniformly g.toNat s fun s => .next (modCur (fun w => { w with yielded := true }) s)

/-- A lane stands held at barrier b of the block, or at its pod barrier b. -/
def atBarrier (pod : Bool) (b : Nat) (x : Lane) : Bool :=
  match x.hold with
  | .bar c => !pod && c == b
  | .pbar c => pod && c == b
  | _ => false

/-- Changes a block barrier, or the block's part of a pod barrier. -/
def modBarrier (pod : Bool) (b : Nat) (f : Barrier → Barrier) (x : Block) : Block :=
  if pod then { x with pbars := lset {} b (f (lget {} b x.pbars)) x.pbars }
  else { x with bars := lset {} b (f (lget {} b x.bars)) x.bars }

/-- R382, R471: a BAR returns its warp to the participating set, and holds the active lanes; the arrival is a release
(R189, R192). -/
def barrierHold (pod : Bool) (b : Nat) (s : State) : Res :=
  let act := active s 0
  if act = 0 then .next s
  else whenReleased s fun s =>
    let bit := laneSet [(curWarp s).num]
    let s := modBlk s.iss.bid (modBarrier pod b fun x => { x with dropped := x.dropped &&& ~~~bit }) s
    .moved (advance (s.iss.lanes &&& ~~~act) (holdLanes act (if pod then .pbar b else .bar b) s))

/-- R385, R471: removes the warp from the set of a barrier; its lanes held there are released at the end of the
cycle. -/
def barrierDrop (pod : Bool) (b : Nat) (s : State) : State :=
  let bit := laneSet [(curWarp s).num]
  modBlk s.iss.bid (modBarrier pod b fun x => { x with dropped := x.dropped ||| bit, arrived := x.arrived &&& ~~~bit }) s

/-- BAR (R381 to R384). -/
def execBar (b : BitVec 4) (s : State) : Out State := issue (.bar b) s fun s => barrierHold false b.toNat s

/-- BARDROP (R385). -/
def execBardrop (a : BitVec 1) (b : BitVec 4) (s : State) : Out State :=
  issue (.bardrop a b) s fun s =>
    uniformly 0 s fun s =>
      .next (if a = 1 then (List.range 16).foldl (fun s b => barrierDrop false b s) s else barrierDrop false b.toNat s)

/-- PBAR and PBAR.drop (R470, R471). -/
def execPbar (d : BitVec 1) (b : BitVec 2) (s : State) : Out State :=
  issue (.pbar d b) s fun s =>
    if d = 1 then uniformly 0 s fun s => .next (barrierDrop true b.toNat s) else barrierHold true b.toNat s

/-- R54: a warp takes the trap of a counter's error bit, which clears; an Assured block rolls back for 0x20 (R251). -/
def counterTrap (wk : Nat) (ls : Word) (c : Nat) (tpc : Word) (cl : Option (Word × Word)) (s : State) : State :=
  match lfind c (warpOf s wk).cerr with
  | none => s
  | some (cause, addr) =>
    let b := (warpOf s wk).bid
    if cause = 0x20 ∧ (blkOf s b).cls = 2 then rollback b 0x20 s
    else takeTrap wk ls cause false tpc addr cl (modWarp wk (fun w => { w with cerr := ldel c w.cerr }) s)

/-- R203, R275: a wait that observes a TJOIN's completion on a counter is an acquire at device scope (R193). -/
def observeJoin (wk c : Nat) (s : State) : State :=
  let w := warpOf s wk
  if w.joined.contains c then
    l1Clear (blkOf s w.bid).core (modWarp wk (fun w => { w with joined := w.joined.filter fun x => x != c }) s)
  else s

/-- WAITC, which sees the counter's value at the end of the last cycle (R52, R505). -/
def execWaitc (c n : BitVec 6) (s : State) : Out State :=
  issue (.waitc c n) s fun s =>
    let act := active s 0
    let w := curWarp s
    if act = 0 then .next s
    else if (lfind c.toNat w.cerr).isSome then
      .gone (counterTrap s.iss.wk s.iss.lanes c.toNat s.iss.pc (some (s.iss.hoff, s.iss.hdr)) s)
    else if lget 0 c.toNat w.cntSeen ≤ n.toNat then .next (observeJoin s.iss.wk c.toNat s)
    else .moved (advance (s.iss.lanes &&& ~~~act) (holdLanes act (.waitc c.toNat n.toNat) s))

/-- RGSIG flips a slot's phase, as a block-scope release (R56, R58, R487). -/
def execRgsig (i : BitVec 1) (a : BitVec 6) (r k : BitVec 3) (s : State) : Out State :=
  issue (.rgsig i a r k) s fun s =>
    uniformly 0 s fun s => whenReleased s fun s =>
      let n := ringSlot i a r k s
      .next (modBlk s.iss.bid (fun x => { x with rings := lset false n (!lget false n x.rings) x.rings }) s)

/-- RGWAIT compares with the phase at the end of the last cycle, and holds (R487). -/
def execRgwait (p i : BitVec 1) (a : BitVec 6) (r k : BitVec 3) (s : State) : Out State :=
  issue (.rgwait p i a r k) s fun s =>
    uniformly 0 s fun s =>
      let n := ringSlot i a r k s
      let act := active s 0
      if lget false n (curBlk s).ringsSeen = (p == 1) then .next s
      else .moved (advance (s.iss.lanes &&& ~~~act) (holdLanes act (.rgwait n (p == 1)) s))

/-- R202: a block is triggered, once; its grid counts the blocks that have been (log 38). -/
def triggerBlock (b : Nat) (s : State) : State :=
  if (blkOf s b).triggered then s
  else modGrid (blkOf s b).gid (fun g => { g with triggers := g.triggers + 1 }) (modBlk b (fun x => { x with triggered := true }) s)

/-- TRIGGER: the block's first one triggers it, as a device-scope release, which exposes an Assured interval; a later one
has no effect (R202, R503). -/
def execTrigger (g : BitVec 3) (s : State) : Out State :=
  issue (.trigger g) s fun s =>
    uniformly g.toNat s fun s => if (curBlk s).triggered then .next s else whenReleased s fun s =>
      .next (triggerBlock s.iss.bid (expose s.iss.bid s.iss.wk (lowestLane (active s g.toNat)) s))

/-- The value of a special register in a lane (R29, R360). -/
def srValue (n l : Nat) (s : State) : BitVec 64 :=
  let w := curWarp s
  let b := curBlk s
  let g := curGrid s
  match n with
  | 0x000 => BitVec.ofNat 64 l
  | 0x001 => BitVec.ofNat 64 (l % 4)
  | 0x002 => BitVec.ofNat 64 w.num
  | 0x003 => BitVec.ofNat 64 w.role
  | 0x004 => BitVec.ofNat 64 b.x
  | 0x005 => BitVec.ofNat 64 b.y
  | 0x006 => BitVec.ofNat 64 b.z
  | 0x007 => BitVec.ofNat 64 b.pod
  | 0x008 => BitVec.ofNat 64 b.gid
  | 0x009 => if isHelper s l then 1 else 0
  | 0x010 => BitVec.ofNat 64 s.clock
  | 0x012 => BitVec.ofNat 64 (timeOf s)
  | 0x020 => (b.flags ||| w.raised).setWidth 64
  | 0x021 => b.trapen.setWidth 64
  | 0x022 => BitVec.ofNat 64 (ctxOf s b.ctx).ebud
  | 0x023 => BitVec.ofNat 64 b.cls
  | 0x024 => BitVec.ofNat 64 (g.depth * 4096 + g.fork)
  | 0x030 => w.tcause.setWidth 64
  | 0x031 => w.tpc.setWidth 64
  | 0x032 => w.taddr.setWidth 64
  | 0x033 => (lget 0 l (regsOf s).link).setWidth 64
  | 0x034 => w.mnan
  | 0x035 => w.taddrhi.setWidth 64
  | _ => 0

/-- R110: an earlier operation of the warp may still raise a flag: a load or atomic, a RED.ladd in flight or logged, or, where it
may expose an Assured interval, any store or reduction (EX, R205). -/
def flagsOpen (s : State) (wk : Nat) : Bool :=
  let ex := holdsStores (blkOf s (warpOf s wk).bid)
  !(warpOf s wk).loads.isEmpty || (s.stores.any fun t => t.wk == wk && (ex || t.rmw == some .ladd)) ||
    s.side.any fun e => e.wk == wk && (ex || e.rmw == some .ladd)

/-- SREAD (R490); a read of sr.flags waits for the warp's earlier results (R110). -/
def execSread (d : BitVec 7) (n : BitVec 10) (s : State) : Out State :=
  issue (.sread d n) s fun s =>
    let act := active s 0
    if n = 0x020 ∧ act ≠ 0 ∧ flagsOpen s s.iss.wk = true then .hold
    else if srRegs n.toNat = 2 then .next (writeLanesD act d.toNat (fun l => srValue n.toNat l s) s)
    else .next (writeLanes act d.toNat (fun l => (srValue n.toNat l s).setWidth 32) s)

/-- Writes a special register of the warp or the block from one value (R360, R109, R110, R131). -/
def srSet (n : Nat) (v : BitVec 64) (s : State) : State :=
  let lo : Word := v.setWidth 32
  match n with
  | 0x020 => modBlk s.iss.bid (fun b => { b with flags := lo &&& 0xFF }) s
  | 0x021 => modBlk s.iss.bid (fun b => { b with trapen := lo &&& 0xFF }) s
  | 0x030 => modCur (fun w => { w with tcause := lo }) s
  | 0x031 => modCur (fun w => { w with tpc := lo &&& 0xFFFFFFFC }) s
  | 0x032 => modCur (fun w => { w with taddr := lo }) s
  | 0x034 => modCur (fun w => { w with mnan := v &&& 0x1FFFFFFFFF }) s
  | 0x035 => modCur (fun w => { w with taddrhi := lo }) s
  | _ => s

/-- SWRITE: sr.link per active lane, any other register once from the lowest active lane (R490). -/
def execSwrite (a : BitVec 7) (n : BitVec 10) (s : State) : Out State :=
  issue (.swrite a n) s fun s =>
    let act := active s 0
    if act = 0 then .next s
    else if n = 0x033 then .next (eachLane act (fun l t => writeLink l (readW s a.toNat l &&& 0xFFFFFFFC) t) s)
    else
      let l := lowestLane act
      .next (srSet n.toNat (if n = 0x034 then readD s a.toNat l else (readW s a.toNat l).setWidth 64) s)

end Sys2Proof.Machine
end

