-- ==== Sys2Proof/Machine/LogMath.lean ====
section
/-! DEFINITION. Logarithmic arithmetic as functions of values: formats and codes (R67 to R70, R82), range handling and
NaNs (R90, R91), the exact operations (R93, R94), the sum (R95 to R100), logarithms and values (R101 to R103), rounding
(R105, R106, R108), the sine, cosine and hyperbolic tangent (R428, R429, R456, R457). The nodes of R98 are computed in
integers of 128 fraction bits; log 22 says why their rounding is exact. -/

set_option Elab.async false

namespace Sys2Proof.Machine

/-- A logarithmic format: its width and its fraction bits (R68, R82). -/
structure Fmt where
  n : Nat
  f : Nat
  deriving DecidableEq, Repr

/-- L32. -/
def fL32 : Fmt := ⟨32, 22⟩
/-- L16. -/
def fL16 : Fmt := ⟨16, 9⟩
/-- L8. -/
def fL8 : Fmt := ⟨8, 3⟩
/-- L6. -/
def fL6 : Fmt := ⟨6, 2⟩
/-- TQ12. -/
def fTQ12 : Fmt := ⟨22, 12⟩

/-- The format of a precision code (R74, R355). -/
def fmtOf (p : Nat) : Fmt := if p = 0 then fL32 else if p = 1 then fL16 else fL8

/-- A logarithmic value (R67): sign and logarithm in units of 2^-f, or sign and payload of a NaN. -/
inductive LV where
  | fin (s : Bool) (e : Int)
  | zero (s : Bool)
  | inf (s : Bool)
  | nan (s : Bool) (p : Nat)
  deriving DecidableEq, Repr

/-- An L value is finite and not zero. -/
def LV.isFin : LV → Bool
  | .fin _ _ => true
  | _ => false

/-- The largest logarithm of a format. -/
def Fmt.eMax (F : Fmt) : Int := 2 ^ (F.n - 3) - 1

/-- The smallest logarithm of a format. -/
def Fmt.eMin (F : Fmt) : Int := -(2 ^ (F.n - 3) : Int)

/-- The value of a code (R67). -/
def lval (F : Fmt) (w : Nat) : LV :=
  let s := w / 2 ^ (F.n - 1) % 2 = 1
  let e := w % 2 ^ (F.n - 2)
  if w / 2 ^ (F.n - 2) % 2 = 0 then .fin s (if e < 2 ^ (F.n - 3) then e else (e : Int) - 2 ^ (F.n - 2))
  else if e = 0 then .zero s
  else if e = 2 ^ (F.n - 3) then .inf s
  else .nan s e

/-- The sign bit of a value. -/
def LV.sign : LV → Bool
  | .fin s _ => s
  | .zero s => s
  | .inf s => s
  | .nan s _ => s

/-- The value with another sign. -/
def LV.withSign (b : Bool) : LV → LV
  | .fin _ e => .fin b e
  | .zero _ => .zero b
  | .inf _ => .inf b
  | .nan _ p => .nan b p

/-- The code of a value inside the format's range (R67). -/
def lcode (F : Fmt) (v : LV) : Nat :=
  (if v.sign then 2 ^ (F.n - 1) else 0) +
    match v with
    | .fin _ e => (e % 2 ^ (F.n - 2)).toNat
    | .zero _ => 2 ^ (F.n - 2)
    | .inf _ => 2 ^ (F.n - 2) + 2 ^ (F.n - 3)
    | .nan _ p => 2 ^ (F.n - 2) + p % 2 ^ (F.n - 2)

/-- The canonical NaN (R70). -/
def lnan : LV := .nan false 1

/-- R91: range handling, with the flags raised. -/
def rangeFit (F : Fmt) (sat s : Bool) (e : Int) : LV × Nat :=
  if e > F.eMax then (if sat then .fin s F.eMax else .inf s, flOV)
  else if e < F.eMin then (.zero s, flUF)
  else (.fin s e, 0)

/-- R90: the NaN of two operands. -/
def nanPick : LV → LV → LV
  | .nan s p, .nan t q => if p > q then .nan s p else if q > p then .nan t q else .nan (s && t) p
  | .nan s p, _ => .nan s p
  | _, y => y

/-- A NaN. -/
def LV.isNan : LV → Bool
  | .nan _ _ => true
  | _ => false

/-- R72: widening by a difference of fraction bits. -/
def lwidenBy (k : Nat) : LV → LV
  | .fin s e => .fin s (e * 2 ^ k)
  | v => v

/-- The fraction bits kept by the constants below. -/
def nodeBits : Nat := 128

/-- 2^(2^-k) for k from 1 to 8, with 128 fraction bits. -/
def rootsOfTwo : List Nat :=
  [0x16a09e667f3bcc908b2fb1366ea957d3e, 0x1306fe0a31b7152de8d5a46305c85edec, 0x1172b83c7d517adcdf7c8c50eb14a791f,
   0x10b5586cf9890f6298b92b71842a98363, 0x1059b0d31585743ae7c548eb68ca417fd, 0x102c9a3e778060ee6f7caca4f7a29bde8,
   0x10163da9fb33356d84a66ae336dcdfa3f, 0x100b1afa5abcbed6129ab13ec11dc9543]

/-- exp(-2^k / 128) for k from 0 to 12, with 128 fraction bits. -/
def expConsts : List Nat :=
  [0xfe01feab551127cbfe5f89994c44216f, 0xfc07f55ff77d2493e885eeaa756ad523, 0xf81fab5445aebc8a58055fcbbb139ae8,
   0xf07d5fde38151e72f18ff03049ac5d7e, 0xe1eb51276c110c3c3eb1269f2f5d4afa, 0xc75f7cf564105743415cbc9d6368f3b9,
   0x9b4597e37cb04ff3d675a35530cdd767, 0x5e2d58d8b3bcdf1abadec7829054f90d, 0x22a555477f03973fb6edd5c25a052ae3,
   0x04b0556e084f3d1dfa2bc04cb0ab88f5, 0x0015fc21041027acbbfcd46780fee71e, 0x1e355bbaee85cada65f73f32e88,
   0x3908c9eec2c8d03c53340]

/-- 2 pi, with 128 fraction bits. -/
def twoPi : Nat := 0x6487ed5110b4611a62633145c06e0e688

/-- ln 2, with 128 fraction bits. -/
def lnTwo : Nat := 0xb17217f7d1cf79abc9e3b39803f2f6af

/-- The bits of log2 of x / 2^128 in [1, 2), most significant first. -/
def log2Frac : Nat → Nat → Nat → Nat
  | 0, _, r => r
  | k + 1, x, r =>
    let y := x * x / 2 ^ 128
    if y ≥ 2 ^ 129 then log2Frac k (y / 2) (2 * r + 1) else log2Frac k y (2 * r)

/-- log2 of a ratio, in units of 2^-48. -/
def log2Ratio (num den : Nat) : Int :=
  let e0 : Int := (Nat.log2 num : Int) - Nat.log2 den
  let e : Int := if num * 2 ^ (-e0).toNat < den * 2 ^ e0.toNat then e0 - 1 else e0
  let x := num * 2 ^ (128 - e).toNat / (den * 2 ^ (e - 128).toNat)
  e * 2 ^ 48 + log2Frac 48 x 0

/-- The product of the constants that the bits of a number select. -/
def powBits (cs : List Nat) (bit : Nat → Bool) : Nat :=
  (cs.zipIdx).foldl (fun r c => if bit c.2 then r * c.1 / 2 ^ 128 else r) (2 ^ 128)

/-- 2^(j / 256) for j below 256, with 128 fraction bits. -/
def pow2Frac (j : Nat) : Nat := powBits rootsOfTwo fun k => j / 2 ^ (7 - k) % 2 = 1

/-- 2^(v / 256) for v at most 0, as a ratio. -/
def pow2Ratio (v : Int) : Nat × Nat := (pow2Frac (v % 256).toNat, 2 ^ (128 - v / 256).toNat)

/-- The sine of a fixed-point angle with 128 fraction bits, by its series. -/
def sinSeries (x : Int) : Nat → Int → Int → Int
  | 0, _, acc => acc
  | k + 1, t, acc =>
    let i : Int := 41 - (k + 1)
    let t' := -(t * (x * x / 2 ^ 128) / 2 ^ 128) / ((2 * i) * (2 * i + 1))
    sinSeries x k t' (acc + t')

/-- sin(2 pi j / 256). -/
def sinTurn (j : Nat) : Nat :=
  let x : Int := twoPi * j / 256
  (sinSeries x 40 x x).toNat

/-- The interpolated functions (R97, R429, R457). -/
inductive Curve where
  | sb | db | h | lg | pow2 | g | t
  deriving DecidableEq, Repr

/-- A function at v / 256, in units of 2^-48. -/
def curveAt (F : Curve) (v : Int) : Int :=
  match F with
  | .sb => let r := pow2Ratio v; log2Ratio (r.2 + r.1) r.2
  | .db => let r := pow2Ratio v; log2Ratio (r.2 - r.1) r.2
  | .h => if v = 0 then log2Ratio lnTwo (2 ^ 128) else let r := pow2Ratio v; log2Ratio ((r.2 - r.1) * 256) (r.2 * (-v).toNat)
  | .lg => log2Ratio (256 + v.toNat) 256
  | .pow2 => (pow2Frac (v.toNat % 256) * 2 ^ (v.toNat / 256) / 2 ^ 80 : Nat)
  | .g => if v = 0 then log2Ratio twoPi (2 ^ 128) else log2Ratio (sinTurn v.toNat * 256) (v.toNat * 2 ^ 128)
  | .t =>
    if v = 0 then 0
    else
      let e := powBits expConsts fun k => v.toNat / 2 ^ k % 2 = 1
      log2Ratio ((2 ^ 128 - e) * 256) ((2 ^ 128 + e) * v.toNat)

/-- R98: the node of a function at v / 256, rounded to n fraction bits. -/
def node (F : Curve) (n : Nat) (v : Int) : Int := (curveAt F v + 2 ^ (47 - n)) / 2 ^ (48 - n)

/-- R97: the segment bits of a precision. -/
def segBits (f : Nat) : Nat := if f = 9 then 4 else if f = 12 then 5 else 7

/-- R99: the interpolation rule, for an argument a in units of 2^-g over a domain from lo. -/
def interp (F : Curve) (lo a : Int) (g f : Nat) : Int :=
  let s := segBits f
  let n := f + 4
  let k := g - s
  let t := a - lo * 2 ^ g
  let j := t / 2 ^ k
  let x := t % 2 ^ k
  let u := 2 ^ (7 - s)
  let v := (lo * 2 ^ (s + 1) + 2 * j) * u
  let y0 := node F n v
  let y1 := node F n (v + u)
  let y2 := node F n (v + 2 * u)
  let b := 4 * y1 - 3 * y0 - y2
  let c := 2 * y0 - 4 * y1 + 2 * y2
  y0 + (b + c * x / 2 ^ k) * x / 2 ^ k

/-- R96: 8 sb at f = 3, by k. -/
def sbTable : List Int :=
  [8, 8, 7, 7, 6, 6, 5, 5, 5, 4, 4, 4, 3, 3, 3, 3, 3, 2, 2, 2, 2, 2, 2, 1, 1, 1, 1, 1, 1, 1, 1, 1, 1, 1, 1, 1, 0]

/-- R96: 8 db at f = 3, by k from 1. -/
def dbTable : List Int :=
  [0, -29, -21, -17, -14, -12, -10, -9, -8, -7, -6, -6, -5, -5, -4, -4, -3, -3, -3, -2, -2, -2, -2, -2, -2, -1, -1, -1, -1,
   -1, -1, -1, -1, -1, -1, -1, -1]

/-- R100: from units of 2^-n to 2^-f, to nearest-even. -/
def rne16 (p : Int) : Int := (p + 7 + p / 16 % 2) / 16

/-- R97: the lower bound of the correction domains. -/
def corrLow (f : Nat) : Int := if f = 9 then -11 else if f = 12 then -14 else -24

/-- R96, R100: the correction of a sum of like signs. -/
def sbCorr (d : Int) (f : Nat) : Int :=
  if f = 3 then sbTable.getD (-d).toNat 0
  else if d = 0 then 2 ^ f
  else if d < corrLow f * 2 ^ f then 0
  else rne16 (interp .sb (corrLow f) d f f)

/-- R96, R100: the correction of a sum of unlike signs, for d below 0. -/
def dbCorr (d : Int) (f : Nat) : Int :=
  if f = 3 then dbTable.getD (-d).toNat 0
  else if d < corrLow f * 2 ^ f then 0
  else if d < -(2 ^ f : Int) then rne16 (interp .db (corrLow f) d f f)
  else
    let u := (-d).toNat
    let l := Nat.log2 u
    let m : Int := (u - 2 ^ l) * 2 ^ (f - l)
    rne16 (((l : Int) - f) * 2 ^ (f + 4) + interp .lg 0 m f f + interp .h (-1) d f f)

/-- R95: the sum at a format, with the flags raised. -/
def logAdd (F : Fmt) (sat : Bool) (x y : LV) : LV × Nat :=
  match x, y with
  | .nan s p, v => (nanPick (.nan s p) v, 0)
  | v, .nan s p => (nanPick v (.nan s p), 0)
  | .inf s, .inf t => if s = t then (.inf s, 0) else (lnan, flIV)
  | .inf s, _ => (.inf s, 0)
  | _, .inf s => (.inf s, 0)
  | .zero s, .zero t => (.zero (s && t), 0)
  | .zero _, .fin s e => rangeFit F sat s e
  | .fin s e, .zero _ => rangeFit F sat s e
  | .fin s e, .fin t e' =>
    let bs := if e ≥ e' then s else t
    let be := max e e'
    let d := min e e' - be
    if s = t then rangeFit F sat bs (be + sbCorr d F.f)
    else if d = 0 then (.zero false, 0)
    else
      let r := rangeFit F sat bs (be + dbCorr d F.f)
      (r.1, Nat.lor r.2 (if 16 * d > -(2 ^ F.f : Int) then flCX else 0))

/-- R95: the second operand of LSUB. -/
def lnegate : LV → LV
  | .nan s p => .nan s p
  | v => v.withSign (!v.sign)

/-- R448, R443: a product before any check of range. -/
def rawMul (x y : LV) : LV × Nat :=
  match x, y with
  | .nan s p, v => (nanPick (.nan s p) v, 0)
  | v, .nan s p => (nanPick v (.nan s p), 0)
  | .zero _, .inf _ => (lnan, flIV)
  | .inf _, .zero _ => (lnan, flIV)
  | .zero s, v => (.zero (s != v.sign), 0)
  | v, .zero s => (.zero (s != v.sign), 0)
  | .inf s, v => (.inf (s != v.sign), 0)
  | v, .inf s => (.inf (s != v.sign), 0)
  | .fin s e, .fin t e' => (.fin (s != t) (e + e'), 0)

/-- R91: range handling of a value that may hold a logarithm outside the range. -/
def fitVal (F : Fmt) (sat : Bool) : LV → LV × Nat
  | .fin s e => rangeFit F sat s e
  | v => (v, 0)

/-- LMUL (R93, R94). -/
def logMul (F : Fmt) (sat : Bool) (x y : LV) : LV × Nat :=
  let p := rawMul x y
  let r := fitVal F sat p.1
  (r.1, Nat.lor p.2 r.2)

/-- LDIV (R93, R94). -/
def logDiv (F : Fmt) (sat : Bool) (x y : LV) : LV × Nat :=
  match x, y with
  | .nan s p, v => (nanPick (.nan s p) v, 0)
  | v, .nan s p => (nanPick v (.nan s p), 0)
  | .zero _, .zero _ => (lnan, flIV)
  | .inf _, .inf _ => (lnan, flIV)
  | .fin s _, .zero t => (.inf (s != t), flDZ)
  | .inf s, v => (.inf (s != v.sign), 0)
  | .zero s, v => (.zero (s != v.sign), 0)
  | .fin s _, .inf t => (.zero (s != t), 0)
  | .fin s e, .fin t e' => rangeFit F sat (s != t) (e - e')

/-- LMAD (R448, R449). -/
def logMad (F : Fmt) (sat : Bool) (x y c : LV) : LV × Nat :=
  let p := rawMul x y
  let r := logAdd F sat p.1 c
  (r.1, Nat.lor p.2 r.2)

/-- LRCP (R93, R94). -/
def logRcp (F : Fmt) (sat : Bool) : LV → LV × Nat
  | .fin s e => rangeFit F sat s (-e)
  | .zero s => (.inf s, flDZ)
  | .inf s => (.zero s, 0)
  | v => (v, 0)

/-- LSQRT (R93, R94). -/
def logSqrt : LV → LV × Nat
  | .fin false e => (.fin false ((e + e / 2 % 2) / 2), 0)
  | .fin true _ => (lnan, flIV)
  | .inf true => (lnan, flIV)
  | v => (v, 0)

/-- LSCALE (R93, R94). -/
def logScale (F : Fmt) (sat : Bool) (n : Int) : LV → LV × Nat
  | .fin s e => rangeFit F sat s (e + n * 2 ^ F.f)
  | v => (v, 0)

/-- The order of R276: a key that rises with the value, zeros by their sign. -/
def orderKey (F : Fmt) : LV → Int
  | .inf true => -(2 ^ F.n : Int)
  | .fin true e => -1 - (e - F.eMin + 1)
  | .zero true => -1
  | .zero false => 0
  | .fin false e => e - F.eMin + 1
  | .inf false => 2 ^ F.n
  | .nan _ _ => 0

/-- LMIN and LMAX (R276, R450). -/
def logMinMax (F : Fmt) (mx : Bool) (x y : LV) : LV :=
  if x.isNan || y.isNan then nanPick x y
  else if decide (orderKey F x ≤ orderKey F y) = mx then y else x

/-- LCMP (R427): one slot. -/
def logCmp (F : Fmt) (c : Nat) (x y : LV) : Bool :=
  let num := fun v => match v with | LV.zero _ => 0 | v => let k := orderKey F v; if k < 0 then k + 1 else k
  let un := x.isNan || y.isNan
  let a := num x
  let b := num y
  match c with
  | 0 => !un && decide (a = b)
  | 1 => un || decide (a ≠ b)
  | 2 => !un && decide (a < b)
  | 3 => !un && decide (a ≤ b)
  | 4 => !un && decide (a > b)
  | 5 => !un && decide (a ≥ b)
  | _ => un

/-- LCLASS (R426). -/
def logClass : LV → Nat
  | .inf true => 0
  | .fin true _ => 1
  | .zero true => 2
  | .zero false => 3
  | .fin false _ => 4
  | .inf false => 5
  | .nan false _ => 6
  | .nan true _ => 7

/-- R101: log2 of U * 2^-q, in units of 2^-26. -/
def formLog (u : Nat) (q : Int) : Int :=
  let l := Nat.log2 u
  let g := max l 22
  ((l : Int) - q) * 2 ^ 26 + interp .lg 0 ((u - 2 ^ l) * 2 ^ (g - l) : Nat) g 22

/-- R102: the magnitude of a logarithm in units of 2^-22: integer part i, and the significand in units of 2^-26. -/
def formVal (e : Int) : Int × Nat := (e / 2 ^ 22, (interp .pow2 0 (e % 2 ^ 22) 22 22).toNat)

/-- R105, R106: rounds Q by k discarded bits; the draw serves mode 5. -/
def roundBits (mode : Nat) (s : Bool) (q : Int) (k draw : Nat) : Int :=
  let lo := q / 2 ^ k
  let rem := (q % 2 ^ k).toNat
  let up :=
    match mode with
    | 0 => decide (2 * rem > 2 ^ k) || (decide (2 * rem = 2 ^ k) && decide (lo % 2 = 1))
    | 1 => decide (2 * rem ≥ 2 ^ k) && decide (k > 0)
    | 2 => false
    | 3 => !s && decide (rem > 0)
    | 4 => s && decide (rem > 0)
    | _ => let k' := min k 32; decide (rem / 2 ^ (k - k') + draw / 2 ^ (32 - k') ≥ 2 ^ k')
  if up then lo + 1 else lo

/-- The value was changed by R91 into one that is not finite, or is at a bound by overflow or underflow. -/
def rangeLeft (r : LV × Nat) : Bool := r.2 != 0

/-- R108: rounds Q, with k bits beyond the target, under error feedback; the answer holds the new residue. -/
def roundFeedback (F : Fmt) (sat : Bool) (mode : Nat) (s : Bool) (q : Int) (k : Nat) (draw : Nat) (res : Int) :
    (LV × Nat) × Int :=
  let t := q * 2 ^ (31 - k) + res
  let et := roundBits mode s t 31 draw
  let r := rangeFit F sat s et
  (r, if rangeLeft r then 0 else t - et * 2 ^ 31)

/-- LLOG2 (R103). -/
def logLog2 (F : Fmt) (v : LV) : LV × Nat :=
  match v with
  | .zero _ => (.inf true, flDZ)
  | .inf false => (.inf false, 0)
  | .inf true => (lnan, flIV)
  | .fin true _ => (lnan, flIV)
  | .nan s p => (.nan s p, 0)
  | .fin false e =>
    if e = 0 then (.zero false, 0)
    else rangeFit F false (decide (e < 0)) (roundBits 0 false (formLog e.natAbs F.f) (26 - F.f) 0)

/-- A magnitude M * 2^t rounded to an integer. -/
def roundInt (mode : Nat) (s : Bool) (m : Nat) (t : Int) (draw : Nat) : Int :=
  roundBits mode s (m * 2 ^ t.toNat : Nat) (-t).toNat draw

/-- LEXP2 (R103). -/
def logExp2 (F : Fmt) (sat : Bool) (v : LV) : LV × Nat :=
  match v with
  | .zero _ => (.fin false 0, 0)
  | .inf false => (.inf false, 0)
  | .inf true => (.zero false, 0)
  | .nan s p => (.nan s p, 0)
  | .fin s e =>
    let iv := formVal (e * 2 ^ (22 - F.f))
    let m := roundInt 0 false iv.2 (iv.1 - 26 + F.f) 0
    rangeFit F sat false (if s then -m else m)

/-- LSIN and LCOS (R428, R429). -/
def logSin (F : Fmt) (cos : Bool) (v : LV) : LV × Nat :=
  match v with
  | .nan s p => (.nan s p, 0)
  | .inf _ => (lnan, flIV)
  | .zero s => if cos then (.fin false 0, 0) else (.zero s, 0)
  | .fin s e =>
    let iv := formVal (e * 2 ^ (22 - F.f))
    let d := (26 - iv.1).toNat
    let q := d + 2
    let one := 2 ^ q
    let u0 := (iv.2 * 2 ^ (iv.1 - 26).toNat) % 2 ^ d * 4
    let u1 := if cos then (u0 + one / 4) % one else u0
    let sg0 := if cos then false else s
    let sg := if 2 * u1 ≥ one then !sg0 else sg0
    let u2 := if 2 * u1 ≥ one then u1 - one / 2 else u1
    let r := if 4 * u2 > one then one / 2 - u2 else u2
    if r = 0 then (.zero false, 0)
    else if 4 * r = one then (.fin sg 0, 0)
    else
      let x := formLog r q + interp .g 0 ((r * 2 ^ 22 / 2 ^ q : Nat)) 22 22
      rangeFit F false sg (roundBits 0 false x (26 - F.f) 0)

/-- LTANH (R456, R457). -/
def logTanh (F : Fmt) (v : LV) : LV × Nat :=
  match v with
  | .nan s p => (.nan s p, 0)
  | .zero s => (.zero s, 0)
  | .inf s => (.fin s 0, 0)
  | .fin s e =>
    let e32 := e * 2 ^ (22 - F.f)
    let iv := formVal e32
    if iv.1 ≥ 4 then (.fin s 0, 0)
    else
      let v := iv.2 * 2 ^ (iv.1 - 4).toNat / 2 ^ (4 - iv.1).toNat
      (fun (r : LV × Nat) => (r.1, 0)) (rangeFit F false s (roundBits 0 false (e32 * 16 + interp .t 0 v 22 22) (26 - F.f) 0))

/-- R73: narrowing between formats, with the draw of mode 5. -/
def logNarrow (F G : Fmt) (sat : Bool) (mode draw : Nat) : LV → LV × Nat
  | .fin s e => rangeFit G sat s (roundBits mode s e (F.f - G.f) draw)
  | .nan s p =>
    let q := p % 2 ^ (G.n - 2)
    (.nan s (if q = 0 ∨ q = 2 ^ (G.n - 3) then 1 else q), 0)
  | v => (v, 0)

end Sys2Proof.Machine
end

