-- ==== Sys2Proof/Machine/Convert.lean ====
section
/-! DEFINITION. External formats (R83 to R89), integers (R434), I4X and L6 (R71, R75 to R77), and the random generator
(R480, R481). -/

set_option Elab.async false

namespace Sys2Proof.Machine

/-- An external format (R83): exponent bits, mantissa bits, bias, and whether it is E4M3. -/
structure Ext where
  eb : Nat
  mb : Nat
  bias : Nat
  e4m3 : Bool := false
  deriving DecidableEq, Repr

/-- The external format of a code of R430. -/
def extOf (c : Nat) : Ext :=
  match c with
  | 0 => ⟨8, 23, 127, false⟩
  | 1 => ⟨5, 10, 15, false⟩
  | 2 => ⟨8, 7, 127, false⟩
  | 3 => ⟨4, 3, 7, true⟩
  | _ => ⟨5, 2, 15, false⟩

/-- Bits of an external format. -/
def Ext.width (x : Ext) : Nat := 1 + x.eb + x.mb

/-- An external value: a NaN with its mantissa, or a finite magnitude U * 2^-q. -/
inductive XV where
  | zero (s : Bool)
  | inf (s : Bool)
  | nan (s : Bool) (m : Nat)
  | fin (s : Bool) (u : Nat) (q : Int)
  deriving DecidableEq, Repr

/-- The value of an external code (R83). -/
def xval (x : Ext) (w : Nat) : XV :=
  let s : Bool := w / 2 ^ (x.eb + x.mb) % 2 = 1
  let e := w / 2 ^ x.mb % 2 ^ x.eb
  let m := w % 2 ^ x.mb
  let top := e == 2 ^ x.eb - 1
  if top && !x.e4m3 then (if m = 0 then .inf s else .nan s m)
  else if top && m == 7 then .nan s m
  else if e = 0 then (if m = 0 then .zero s else .fin s m (x.bias - 1 + x.mb))
  else .fin s (2 ^ x.mb + m) (x.bias + x.mb - e)

/-- R85: the payload in L32 of an imported NaN, and its flag. -/
def nanImport (x : Ext) (m : Nat) : Nat × Nat :=
  let quiet := m / 2 ^ (x.mb - 1) % 2 = 1
  if x.e4m3 then (0x00F00000, 0)
  else if x.mb = 2 then (0x00800000 + m * 2 ^ 21, 0)
  else (0x00800000 + (if quiet then m else m + 2 ^ (x.mb - 1)) * 2 ^ (23 - x.mb), if quiet then 0 else flIV)

/-- R84, R85: import with the draw of mode 5 and an optional residue; the answer's last part is the residue. A NaN
that CONV imports into L6 takes payload 1 and the input's sign: R85 gives payloads for L32, L16 and L8 only (DESIGN CHOICE,
log 44). -/
def xImport (x : Ext) (F : Fmt) (sat : Bool) (mode draw : Nat) (res : Option Int) (w : Nat) : (LV × Nat) × Option Int :=
  match xval x w with
  | .zero s => ((.zero s, 0), res)
  | .inf s => ((.inf s, 0), res.map fun _ => 0)
  | .nan s m =>
    let p := nanImport x m
    ((.nan s (if F.f = 22 then p.1 else 1), p.2), res.map fun _ => 0)
  | .fin s u q =>
    match res with
    | none => (rangeFit F sat s (roundBits mode s (formLog u q) (26 - F.f) draw), none)
    | some r =>
      let a := roundFeedback F sat mode s (formLog u q) (26 - F.f) draw r
      (a.1, some a.2)

/-- The code of the largest finite magnitude. -/
def Ext.maxCode (x : Ext) : Nat := if x.e4m3 then 0x7E else (2 ^ x.eb - 1) * 2 ^ x.mb - 1

/-- The sign bit of an external code. -/
def Ext.signBit (x : Ext) (s : Bool) : Nat := if s then 2 ^ (x.eb + x.mb) else 0

/-- R86: a magnitude M * 2^t, with M above 0, rounded to an external format. -/
def xRound (x : Ext) (sat : Bool) (mode draw : Nat) (s : Bool) (m : Nat) (t : Int) : Nat × Nat :=
  let e : Int := Nat.log2 m + t
  let emin : Int := 1 - x.bias
  let qx := max e emin - x.mb
  let v := (roundBits mode s (m * 2 ^ (t - qx).toNat : Nat) (qx - t).toNat draw).toNat
  let code := if e < emin then v else v + ((e - emin).toNat) * 2 ^ x.mb
  if code = 0 then (x.signBit s, flUF)
  else if code > x.maxCode then
    (x.signBit s + (if sat then x.maxCode else x.maxCode + 1), flOV)
  else (x.signBit s + code, 0)

/-- R86, R88: an infinity in an external format. -/
def xInf (x : Ext) (sat s : Bool) : Nat × Nat :=
  if x.e4m3 then (x.signBit s + (if sat then 0x7E else 0x7F), if sat then 0 else flIV) else (x.signBit s + x.maxCode + 1, 0)

/-- R87: a NaN of payload P in L32. -/
def xNan (x : Ext) (s : Bool) (p : Nat) : Nat :=
  if x.e4m3 then x.signBit s + 0x7F
  else x.signBit s + (x.maxCode + 1) + Nat.lor (p % 2 ^ 23 / 2 ^ (23 - x.mb)) (2 ^ (x.mb - 1))

/-- R86, R87: export. -/
def xExport (x : Ext) (F : Fmt) (sat : Bool) (mode draw : Nat) : LV → Nat × Nat
  | .zero s => (x.signBit s, 0)
  | .inf s => xInf x sat s
  | .nan s p => (xNan x s p, 0)
  | .fin s e =>
    let iv := formVal (e * 2 ^ (22 - F.f))
    xRound x sat mode draw s iv.2 (iv.1 - 26)

/-- R88: one external format to another. -/
def xConv (x y : Ext) (sat : Bool) (mode draw : Nat) (w : Nat) : Nat × Nat :=
  match xval x w with
  | .zero s => (y.signBit s, 0)
  | .inf s => xInf y sat s
  | .nan s m => (xNan y s (nanImport x m).1, (nanImport x m).2)
  | .fin s u q => xRound y sat mode draw s u (-q)

/-- R80: an E4M3 scale as LS8. -/
def scaleImport (w : Nat) : Nat × Nat :=
  match xval (extOf 3) w with
  | .zero _ => (0x80, 0)
  | .inf _ => (0x80, 0)
  | .nan _ _ => (0x80, flIV)
  | .fin s u q => (((roundBits 0 false (formLog u q) 23 0) % 256).toNat, if s then flIV else 0)

/-- LCVI of an integer (R434). -/
def logOfInt (F : Fmt) (sat : Bool) (mode draw : Nat) (res : Option Int) (n : Int) : (LV × Nat) × Option Int :=
  if n = 0 then ((.zero false, 0), res)
  else
    let s := decide (n < 0)
    match res with
    | none => (rangeFit F sat s (roundBits mode s (formLog n.natAbs 0) (26 - F.f) draw), none)
    | some r =>
      let a := roundFeedback F sat mode s (formLog n.natAbs 0) (26 - F.f) draw r
      (a.1, some a.2)

/-- LCVX of a value into a slot of n bits (R434). -/
def intOfLog (F : Fmt) (unsigned : Bool) (mode draw : Nat) (v : LV) : Int × Nat :=
  let hi : Int := if unsigned then 2 ^ F.n - 1 else 2 ^ (F.n - 1) - 1
  let lo : Int := if unsigned then 0 else -(2 ^ (F.n - 1) : Int)
  match v with
  | .zero _ => (0, 0)
  | .inf s => (if s then lo else hi, flIV)
  | .nan _ _ => (0, flIV)
  | .fin s e =>
    let iv := formVal (e * 2 ^ (22 - F.f))
    let m := roundInt mode s iv.2 (iv.1 - 26) draw
    let r := if s then -m else m
    if r > hi then (hi, flOV) else if r < lo then (lo, flOV) else (r, 0)

/-- R76: I4XTAB. -/
def i4xTable : List Nat :=
  [0x40, 0x00, 0x08, 0x0D, 0x10, 0x13, 0x15, 0x16, 0x40, 0x96, 0x95, 0x93, 0x90, 0x8D, 0x88, 0x80]

/-- R77: the slots of an I4X block from a place on; the answer holds the L8 codes and whether an escape was invalid. -/
def i4xFrom (blk : Nat) : Nat → Nat → List Nat × Bool
  | 0, _ => ([], false)
  | fuel + 1, i =>
    if i ≥ 32 then ([], false)
    else
      let n := blk / 2 ^ (4 * i) % 16
      if n = 8 then
        if i ≥ 30 then let r := i4xFrom blk fuel (i + 1); (0x40 :: r.1, true)
        else let r := i4xFrom blk fuel (i + 3); (blk / 2 ^ (4 * i + 4) % 256 :: 0x40 :: 0x40 :: r.1, r.2)
      else let r := i4xFrom blk fuel (i + 1); (i4xTable.getD n 0 :: r.1, r.2)

/-- R77: the 32 values of an I4X block. -/
def i4xBlock (blk scale : Nat) : List Nat × Bool :=
  if scale = 0x80 then (List.replicate 32 0x40, false) else i4xFrom blk 33 0

/-- R71: the L6 codes of packed bytes. -/
def l6Unpack (bs : List Byte) (count : Nat) : List Nat :=
  (List.range count).map fun j => leNat ((bs.drop (3 * (j / 4))).take 3) / 2 ^ (6 * (j % 4)) % 64

/-- R71: L6 codes packed into groups of three bytes, the last group filled with +0. -/
def l6Pack (codes : List Nat) : List Byte :=
  let groups := (codes.length + 3) / 4
  ((List.range groups).map fun g =>
    leBytes 3 ((List.range 4).foldl (fun v j => v + codes.getD (4 * g + j) 0x10 * 2 ^ (6 * j)) 0)).flatten

/-- R480: one draw of a generator. -/
def rngDraw (s : BitVec 64) : BitVec 64 × Nat :=
  let t := s * 0x5851F42D4C957F2D#64 + 0x14057B7EF767814F#64
  let x : Word := t.extractLsb' 32 32 ^^^ t.extractLsb' 0 32
  (t, (x.rotateRight (t.extractLsb' 59 5).toNat).toNat)

/-- R480: the generator of a lane at dispatch. -/
def rngSeed (grid bl ln : Nat) : BitVec 64 := BitVec.ofNat 64 (grid % 2 ^ 32 * 2 ^ 32 + (bl % 2 ^ 22 * 1024 + ln) % 2 ^ 32)

/-- RAND.unit of one slot (R481). -/
def randUnit (F : Fmt) (r : Nat) : LV :=
  let e := roundBits 0 false (formLog (2 * r + 1) 33) (26 - F.f) 0
  .fin false (max e F.eMin)

end Sys2Proof.Machine
end

