-- ==== Sys2Proof/Machine/Log.lean ====
section
/-! DEFINITION. The logarithmic instructions (R354, R405, R424 to R435, R440, R443, R444, R447 to R457, R480, R481). -/

set_option Elab.async false

namespace Sys2Proof.Machine

/-- The code in slot i of a register (R74). -/
def slotCode (n i : Nat) (w : Word) : Nat := w.toNat / 2 ^ (n * i) % 2 ^ n

/-- The value in slot i of a register. -/
def slotVal (F : Fmt) (i : Nat) (w : Word) : LV := lval F (slotCode F.n i w)

/-- A register of slot codes, slot 0 first (R74). -/
def packCodes (n : Nat) (cs : List Nat) : Word := BitVec.ofNat 32 ((cs.zipIdx).foldl (fun v c => v + c.1 % 2 ^ n * 2 ^ (n * c.2)) 0)

/-- R92: a function on every slot, with the union of the flags. -/
def slotwise (F : Fmt) (f : Nat → LV × Nat) : Word × Nat :=
  let rs := (List.range (32 / F.n)).map f
  (packCodes F.n (rs.map fun r => lcode F r.1), flUnion (rs.map fun r => r.2))

/-- An arithmetic instruction given by its result and flags in each lane (R111). -/
def logLanes (g : Nat) (d : BitVec 7) (res : Nat → Word × Nat) (s : State) : Res :=
  let act := active s g
  arith ((lanesOf act).map fun l => (l, (res l).2)) (writeLanes act d.toNat fun l => (res l).1) s

/-- A packed binary operation. -/
def logBin (F : Fmt) (op : Fmt → Bool → LV → LV → LV × Nat) (d a b : BitVec 7) (g : BitVec 3) (s : State) : Res :=
  logLanes g.toNat d (fun l => slotwise F fun i =>
    op F (curPfx s).sat (slotVal F i (readW s a.toNat l)) (slotVal F i (readW s b.toNat l))) s

/-- A packed unary operation. -/
def logUn (p : BitVec 2) (op : Fmt → Bool → LV → LV × Nat) (d a : BitVec 7) (g : BitVec 3) (s : State) : Res :=
  let F := fmtOf p.toNat
  logLanes g.toNat d (fun l => slotwise F fun i => op F (curPfx s).sat (slotVal F i (readW s a.toNat l))) s

/-- LSUB's function (R95). -/
def logSub (F : Fmt) (sat : Bool) (x y : LV) : LV × Nat := logAdd F sat x (lnegate y)

/-- A minimum or maximum, which raises no flag (R450). -/
def logMm (mx : Bool) (F : Fmt) (_ : Bool) (x y : LV) : LV × Nat := (logMinMax F mx x y, 0)

/-- LMAD's addend register: op4 of the prefix, or d (R448). -/
def madAddend (d : BitVec 7) (s : State) : Nat := if s.iss.hasPfx then (curPfx s).op4.toNat else d.toNat

/-- A packed multiply and add (R448). -/
def logMadI (F : Fmt) (d a b : BitVec 7) (g : BitVec 3) (s : State) : Res :=
  logLanes g.toNat d (fun l => slotwise F fun i =>
    logMad F (curPfx s).sat (slotVal F i (readW s a.toNat l)) (slotVal F i (readW s b.toNat l))
      (slotVal F i (readW s (madAddend d s) l))) s

/-- A packed comparison: true where the condition holds in every slot (R427). -/
def logCmpI (F : Fmt) (c : BitVec 3) (p : BitVec 4) (a b : BitVec 7) (g : BitVec 3) (s : State) : Res :=
  .next (writeLanesP (active s g.toNat) p.toNat (fun l => (List.range (32 / F.n)).all fun i =>
    logCmp F c.toNat (slotVal F i (readW s a.toNat l)) (slotVal F i (readW s b.toNat l))) s)

/-- LADD at L32 (R424, R425). -/
def execLadd (d a b : BitVec 7) (g : BitVec 3) (s : State) : Out State :=
  issue (.ladd d a b g) s fun s => logBin fL32 logAdd d a b g s

/-- LADD at L16 (R424, R425). -/
def execLaddL16 (d a b : BitVec 7) (g : BitVec 3) (s : State) : Out State :=
  issue (.laddL16 d a b g) s fun s => logBin fL16 logAdd d a b g s

/-- LADD at L8 (R424, R425). -/
def execLaddL8 (d a b : BitVec 7) (g : BitVec 3) (s : State) : Out State :=
  issue (.laddL8 d a b g) s fun s => logBin fL8 logAdd d a b g s

/-- LSUB at L32 (R424, R425). -/
def execLsub (d a b : BitVec 7) (g : BitVec 3) (s : State) : Out State :=
  issue (.lsub d a b g) s fun s => logBin fL32 logSub d a b g s

/-- LSUB at L16 (R424, R425). -/
def execLsubL16 (d a b : BitVec 7) (g : BitVec 3) (s : State) : Out State :=
  issue (.lsubL16 d a b g) s fun s => logBin fL16 logSub d a b g s

/-- LSUB at L8 (R424, R425). -/
def execLsubL8 (d a b : BitVec 7) (g : BitVec 3) (s : State) : Out State :=
  issue (.lsubL8 d a b g) s fun s => logBin fL8 logSub d a b g s

/-- LMUL at L32 (R440). -/
def execLmul (d a b : BitVec 7) (g : BitVec 3) (s : State) : Out State :=
  issue (.lmul d a b g) s fun s => logBin fL32 logMul d a b g s

/-- LMUL at L16 (R440). -/
def execLmulL16 (d a b : BitVec 7) (g : BitVec 3) (s : State) : Out State :=
  issue (.lmulL16 d a b g) s fun s => logBin fL16 logMul d a b g s

/-- LMUL at L8 (R440). -/
def execLmulL8 (d a b : BitVec 7) (g : BitVec 3) (s : State) : Out State :=
  issue (.lmulL8 d a b g) s fun s => logBin fL8 logMul d a b g s

/-- LDIV at L32 (R440). -/
def execLdiv (d a b : BitVec 7) (g : BitVec 3) (s : State) : Out State :=
  issue (.ldiv d a b g) s fun s => logBin fL32 logDiv d a b g s

/-- LDIV at L16 (R440). -/
def execLdivL16 (d a b : BitVec 7) (g : BitVec 3) (s : State) : Out State :=
  issue (.ldivL16 d a b g) s fun s => logBin fL16 logDiv d a b g s

/-- LDIV at L8 (R440). -/
def execLdivL8 (d a b : BitVec 7) (g : BitVec 3) (s : State) : Out State :=
  issue (.ldivL8 d a b g) s fun s => logBin fL8 logDiv d a b g s

/-- LMAD at L32 (R448, R449). -/
def execLmad (d a b : BitVec 7) (g : BitVec 3) (s : State) : Out State :=
  issue (.lmad d a b g) s fun s => logMadI fL32 d a b g s

/-- LMAD at L16 (R448, R449). -/
def execLmadL16 (d a b : BitVec 7) (g : BitVec 3) (s : State) : Out State :=
  issue (.lmadL16 d a b g) s fun s => logMadI fL16 d a b g s

/-- LMAD at L8 (R448, R449). -/
def execLmadL8 (d a b : BitVec 7) (g : BitVec 3) (s : State) : Out State :=
  issue (.lmadL8 d a b g) s fun s => logMadI fL8 d a b g s

/-- LMIN at L32 (R450). -/
def execLmin (d a b : BitVec 7) (g : BitVec 3) (s : State) : Out State :=
  issue (.lmin d a b g) s fun s => logBin fL32 (logMm false) d a b g s

/-- LMIN at L16 (R450). -/
def execLminL16 (d a b : BitVec 7) (g : BitVec 3) (s : State) : Out State :=
  issue (.lminL16 d a b g) s fun s => logBin fL16 (logMm false) d a b g s

/-- LMIN at L8 (R450). -/
def execLminL8 (d a b : BitVec 7) (g : BitVec 3) (s : State) : Out State :=
  issue (.lminL8 d a b g) s fun s => logBin fL8 (logMm false) d a b g s

/-- LMAX at L32 (R450). -/
def execLmax (d a b : BitVec 7) (g : BitVec 3) (s : State) : Out State :=
  issue (.lmax d a b g) s fun s => logBin fL32 (logMm true) d a b g s

/-- LMAX at L16 (R450). -/
def execLmaxL16 (d a b : BitVec 7) (g : BitVec 3) (s : State) : Out State :=
  issue (.lmaxL16 d a b g) s fun s => logBin fL16 (logMm true) d a b g s

/-- LMAX at L8 (R450). -/
def execLmaxL8 (d a b : BitVec 7) (g : BitVec 3) (s : State) : Out State :=
  issue (.lmaxL8 d a b g) s fun s => logBin fL8 (logMm true) d a b g s

/-- LCMP at L32 (R427). -/
def execLcmp (c : BitVec 3) (p : BitVec 4) (a b : BitVec 7) (g : BitVec 3) (s : State) : Out State :=
  issue (.lcmp c p a b g) s fun s => logCmpI fL32 c p a b g s

/-- LCMP at L16 (R427). -/
def execLcmpL16 (c : BitVec 3) (p : BitVec 4) (a b : BitVec 7) (g : BitVec 3) (s : State) : Out State :=
  issue (.lcmpL16 c p a b g) s fun s => logCmpI fL16 c p a b g s

/-- LCMP at L8 (R427). -/
def execLcmpL8 (c : BitVec 3) (p : BitVec 4) (a b : BitVec 7) (g : BitVec 3) (s : State) : Out State :=
  issue (.lcmpL8 c p a b g) s fun s => logCmpI fL8 c p a b g s

/-- LSQRT (R453). -/
def execLsqrt (d a : BitVec 7) (p : BitVec 2) (g : BitVec 3) (s : State) : Out State :=
  issue (.lsqrt d a p g) s fun s => logUn p (fun _ _ v => logSqrt v) d a g s

/-- LRCP (R453). -/
def execLrcp (d a : BitVec 7) (p : BitVec 2) (g : BitVec 3) (s : State) : Out State :=
  issue (.lrcp d a p g) s fun s => logUn p logRcp d a g s

/-- LEXP2 (R447). -/
def execLexp2 (d a : BitVec 7) (p : BitVec 2) (g : BitVec 3) (s : State) : Out State :=
  issue (.lexp2 d a p g) s fun s => logUn p logExp2 d a g s

/-- LLOG2 (R447). -/
def execLlog2 (d a : BitVec 7) (p : BitVec 2) (g : BitVec 3) (s : State) : Out State :=
  issue (.llog2 d a p g) s fun s => logUn p (fun F _ v => logLog2 F v) d a g s

/-- LSIN (R428). -/
def execLsin (d a : BitVec 7) (p : BitVec 2) (g : BitVec 3) (s : State) : Out State :=
  issue (.lsin d a p g) s fun s => logUn p (fun F _ v => logSin F false v) d a g s

/-- LCOS (R428). -/
def execLcos (d a : BitVec 7) (p : BitVec 2) (g : BitVec 3) (s : State) : Out State :=
  issue (.lcos d a p g) s fun s => logUn p (fun F _ v => logSin F true v) d a g s

/-- LTANH (R456). -/
def execLtanh (d a : BitVec 7) (p : BitVec 2) (g : BitVec 3) (s : State) : Out State :=
  issue (.ltanh d a p g) s fun s => logUn p (fun F _ v => logTanh F v) d a g s

/-- LSCALE (R454). -/
def execLscale (d a : BitVec 7) (n : BitVec 8) (p : BitVec 2) (s : State) : Out State :=
  issue (.lscale d a n p) s fun s => logUn p (fun F sat v => logScale F sat n.toInt v) d a 0 s

/-- LDOT4's product of two L8 values, in TQ12 (R443). -/
def dotProduct (x y : LV) : LV × Nat :=
  let p := rawMul x y
  (lwidenBy 9 p.1, p.2)

/-- LDOT4 of one lane (R443). -/
def dot4 (sat : Bool) (acc a b : Word) : Word × Nat :=
  let p := fun i => dotProduct (slotVal fL8 i a) (slotVal fL8 i b)
  let t0 := logAdd fTQ12 false (p 0).1 (p 1).1
  let t1 := logAdd fTQ12 false (p 2).1 (p 3).1
  let r := logAdd fTQ12 false t0.1 t1.1
  let z := logAdd fL32 sat (lval fL32 acc.toNat) (lwidenBy 10 r.1)
  (BitVec.ofNat 32 (lcode fL32 z.1), flUnion [(p 0).2, (p 1).2, (p 2).2, (p 3).2, t0.2, t1.2, r.2, z.2])

/-- LDOT4 (R443, R444). -/
def execLdot4 (d a b : BitVec 7) (g : BitVec 3) (s : State) : Out State :=
  issue (.ldot4 d a b g) s fun s =>
    logLanes g.toNat d (fun l => dot4 (curPfx s).sat (readW s d.toNat l) (readW s a.toNat l) (readW s b.toNat l)) s

/-- LSGN (R455). -/
def execLsgn (d a : BitVec 7) (f : BitVec 5) (p : BitVec 2) (g : BitVec 3) (s : State) : Out State :=
  issue (.lsgn d a f p g) s fun s =>
    let F := fmtOf p.toNat
    .next (writeLanes (active s g.toNat) d.toNat (fun l => packCodes F.n ((List.range (32 / F.n)).map fun i =>
      let c := slotCode F.n i (readW s a.toNat l)
      let h := 2 ^ (F.n - 1)
      match f.toNat with
      | 0 => (c + h) % 2 ^ F.n
      | 1 => c % h
      | _ => c % h + slotCode F.n i (readW s (curPfx s).op4.toNat l) / h * h)) s)

/-- LCLASS (R426). -/
def execLclass (d a : BitVec 7) (p : BitVec 2) (g : BitVec 3) (s : State) : Out State :=
  issue (.lclass d a p g) s fun s =>
    let F := fmtOf p.toNat
    .next (writeLanes (active s g.toNat) d.toNat (fun l => packCodes 8 ((List.range (32 / F.n)).map fun i =>
      2 ^ logClass (slotVal F i (readW s a.toNat l)))) s)

/-- LWIDEN (R452). -/
def execLwiden (d a : BitVec 7) (q f t : BitVec 2) (g : BitVec 3) (s : State) : Out State :=
  issue (.lwiden d a q f t g) s fun s =>
    let F := fmtOf f.toNat
    let G := fmtOf t.toNat
    let k := 32 / G.n
    .next (writeLanes (active s g.toNat) d.toNat (fun l => packCodes G.n ((List.range k).map fun i =>
      lcode G (lwidenBy (G.f - F.f) (slotVal F (k * q.toNat + i) (readW s a.toNat l))))) s)

/-- What a conversion of one lane has done so far: codes, flags, generator, residues by register (R106 to R108). -/
structure ConvAcc where
  codes : List Nat := []
  flags : Nat := 0
  rng : BitVec 64 := 0
  res : List (Nat × Word) := []
  deriving DecidableEq, Repr

/-- One slot of a conversion: `live` says that its input is finite and non-zero, and draws under mode 5 (R106). -/
def convSlot (mode : Nat) (live : Bool) (ef : Option (Nat × Word)) (f : Nat → Option Int → (Nat × Nat) × Option Int)
    (c : ConvAcc) : ConvAcc :=
  let dr := if mode = 5 ∧ live then rngDraw c.rng else (c.rng, 0)
  let r := f dr.2 (ef.map fun e => e.2.toInt)
  { codes := c.codes ++ [r.1.1]
    flags := Nat.lor c.flags r.1.2
    rng := dr.1
    res := match ef, r.2 with
      | some e, some v => c.res ++ [(e.1, BitVec.ofInt 32 v)]
      | _, _ => c.res }

/-- The residue that slot i uses: register and contents, where error feedback is selected (R107). -/
def residueOf (s : State) (l i : Nat) : Option (Nat × Word) :=
  if (curPfx s).ef then some ((curPfx s).op4.toNat + i, readE s ((curPfx s).op4.toNat + i) l) else none

/-- Writes the generator of a lane. -/
def writeRng (l : Nat) (v : BitVec 64) (s : State) : State := modRegs (fun r => { r with rng := lset 0 l v r.rng }) s

/-- The generator of a lane. -/
def readRng (s : State) (l : Nat) : BitVec 64 := lget 0 l (regsOf s).rng

/-- A conversion given by what it does in each lane and by the register that its codes form (R111). -/
def convLanes (g : Nat) (d : BitVec 7) (res : Nat → ConvAcc) (word : Nat → ConvAcc → Word) (s : State) : Res :=
  let act := active s g
  arith ((lanesOf act).map fun l => (l, (res l).flags)) (fun t => eachLane act (fun l t =>
    let c := res l
    c.res.foldl (fun t e => writeE e.1 l e.2 t) (writeRng l c.rng (writeW d.toNat l (word l c) t))) t) s

/-- LNARROW of one slot (R73, R108). -/
def narrowSlot (F G : Fmt) (sat : Bool) (mode draw : Nat) (res : Option Int) (v : LV) : (Nat × Nat) × Option Int :=
  match res, v with
  | some r, .fin s e =>
    let a := roundFeedback G sat mode s e (F.f - G.f) draw r
    ((lcode G a.1.1, a.1.2), some a.2)
  | some r, .zero s => ((lcode G (.zero s), 0), some r)
  | some _, v => let a := logNarrow F G sat mode draw v; ((lcode G a.1, a.2), some 0)
  | none, v => let a := logNarrow F G sat mode draw v; ((lcode G a.1, a.2), none)

/-- LNARROW (R451, R452). -/
def execLnarrow (d a : BitVec 7) (q f t : BitVec 2) (g : BitVec 3) (s : State) : Out State :=
  issue (.lnarrow d a q f t g) s fun s =>
    let F := fmtOf f.toNat
    let G := fmtOf t.toNat
    let k := 32 / F.n
    let p := curPfx s
    convLanes g.toNat d
      (fun l => (List.range k).foldl (fun c i =>
        let v := slotVal F i (readW s a.toNat l)
        convSlot p.rnd.toNat v.isFin (residueOf s l (k * q.toNat + i)) (fun dr r => narrowSlot F G p.sat p.rnd.toNat dr r v) c)
        { rng := readRng s l })
      (fun l c => packCodes G.n ((List.range (32 / G.n)).map fun i =>
        if k * q.toNat ≤ i ∧ i < k * q.toNat + k then c.codes.getD (i - k * q.toNat) 0 else slotCode G.n i (readW s d.toNat l))) s

/-- LCVI (R433, R434). -/
def execLcvi (d a : BitVec 7) (u : BitVec 1) (p : BitVec 2) (g : BitVec 3) (s : State) : Out State :=
  issue (.lcvi d a u p g) s fun s =>
    let F := fmtOf p.toNat
    let x := curPfx s
    convLanes g.toNat d
      (fun l => (List.range (32 / F.n)).foldl (fun c i =>
        let w := slotCode F.n i (readW s a.toNat l)
        let n : Int := if u = 0 ∧ w ≥ 2 ^ (F.n - 1) then (w : Int) - 2 ^ F.n else w
        convSlot x.rnd.toNat (n != 0) (residueOf s l i) (fun dr r =>
          let o := logOfInt F x.sat x.rnd.toNat dr r n
          ((lcode F o.1.1, o.1.2), o.2)) c) { rng := readRng s l })
      (fun _ c => packCodes F.n c.codes) s

/-- LCVX (R433, R434). -/
def execLcvx (d a : BitVec 7) (u : BitVec 1) (p : BitVec 2) (g : BitVec 3) (s : State) : Out State :=
  issue (.lcvx d a u p g) s fun s =>
    let F := fmtOf p.toNat
    let x := curPfx s
    convLanes g.toNat d
      (fun l => (List.range (32 / F.n)).foldl (fun c i =>
        let v := slotVal F i (readW s a.toNat l)
        convSlot x.rnd.toNat v.isFin none (fun dr _ =>
          let o := intOfLog F (u == 1) x.rnd.toNat dr v
          (((o.1 % 2 ^ F.n).toNat, o.2), none)) c) { rng := readRng s l })
      (fun _ c => packCodes F.n c.codes) s

/-- An external value is finite and not zero. -/
def XV.isFin : XV → Bool
  | .fin _ _ _ => true
  | _ => false

/-- LCVF (R430, R431). -/
def execLcvf (d a : BitVec 7) (f : BitVec 3) (p : BitVec 2) (g : BitVec 3) (s : State) : Out State :=
  issue (.lcvf d a f p g) s fun s =>
    let F := fmtOf p.toNat
    let E := extOf f.toNat
    let x := curPfx s
    convLanes g.toNat d
      (fun l => (List.range (32 / max E.width F.n)).foldl (fun c i =>
        let w := slotCode E.width i (readW s a.toNat l)
        convSlot x.rnd.toNat (xval E w).isFin (residueOf s l i) (fun dr r =>
          let o := xImport E F x.sat x.rnd.toNat dr r w
          ((lcode F o.1.1, o.1.2), o.2)) c) { rng := readRng s l })
      (fun _ c => packCodes F.n ((List.range (32 / F.n)).map fun i => c.codes.getD i (2 ^ (F.n - 2)))) s

/-- LCVE (R430, R431). -/
def execLcve (d a : BitVec 7) (f : BitVec 3) (p : BitVec 2) (g : BitVec 3) (s : State) : Out State :=
  issue (.lcve d a f p g) s fun s =>
    let F := fmtOf p.toNat
    let E := extOf f.toNat
    let x := curPfx s
    convLanes g.toNat d
      (fun l => (List.range (32 / max E.width F.n)).foldl (fun c i =>
        let v := slotVal F i (readW s a.toNat l)
        convSlot x.rnd.toNat v.isFin none (fun dr _ => (xExport E F x.sat x.rnd.toNat dr v, none)) c) { rng := readRng s l })
      (fun _ c => packCodes E.width c.codes) s

/-- RAND (R480, R481). -/
def execRand (d a : BitVec 7) (f : BitVec 5) (p : BitVec 2) (g : BitVec 3) (s : State) : Out State :=
  issue (.rand d a f p g) s fun s =>
    let act := active s g.toNat
    match f.toNat with
    | 0 => .next (eachLane act (fun l t =>
        let r := rngDraw (readRng s l)
        writeRng l r.1 (writeW d.toNat l (BitVec.ofNat 32 r.2) t)) s)
    | 1 =>
      let F := fmtOf p.toNat
      .next (eachLane act (fun l t =>
        let c := (List.range (32 / F.n)).foldl (fun (c : BitVec 64 × List Nat) _ =>
          let r := rngDraw c.1
          (r.1, c.2 ++ [lcode F (randUnit F r.2)])) (readRng s l, [])
        writeRng l c.1 (writeW d.toNat l (packCodes F.n c.2) t)) s)
    | _ => .next (eachLane act (fun l t => writeRng l (readD s a.toNat l) t) s)

end Sys2Proof.Machine
end

