-- ==== Sys2Proof/Machine/Access.lean ====
section
/-! DEFINITION. Accesses to global memory: addresses and checks of a lane's access, scope stamps, uncommitted lines,
atomic operations, and the performance of loads and stores (R157 to R160, R174 to R179, R191 to R195, R204, R205,
R251, R254, R374 to R380, R483). -/

set_option Elab.async false

namespace Sys2Proof.Machine

/-- R158: the access of one lane: register value and virtual address. -/
def accessOf (s : State) (k o size l : Nat) : Acc :=
  if k = 15 then
    let v := (readD s o l).toNat
    { lane := l, off := v, va := v % 2 ^ 56, size := size }
  else
    let v := (readW s o l).toNat
    { lane := l, off := v, va := (((curGrid s).segs.getD k {}).base) + v, size := size }

/-- The segment register of a number (R157). -/
def segOf (s : State) (k : Nat) : Seg := (curGrid s).segs.getD k {}

/-- R159, check 2. -/
def offSegment (g : Seg) (k : Nat) (a : Acc) : Bool :=
  !g.valid || (k != 15 && decide (a.off + a.size - 1 > g.limit)) || decide (a.va ≥ 2 ^ 56) ||
    (k == 15 && decide (a.off ≥ 2 ^ 56))

/-- R159, check 3. -/
def offPermission (g : Seg) (w : Want) : Bool :=
  ((w == .read || w == .readWrite) && !g.r) || ((w == .write || w == .readWrite) && !g.w)

/-- R159, checks 1 to 3 over accesses: the first check that fails, with the lowest lane that fails it. -/
def addressCheck (s : State) (k : Nat) (w : Want) (accs : List Acc) : Option (Nat × Nat) :=
  let g := segOf s k
  match accs.find? fun a => a.va % a.size != 0 with
  | some a => some (0x05, a.va)
  | none =>
    match accs.find? (offSegment g k) with
    | some a => some (0x06, a.off)
    | none =>
      match accs.find? fun _ => offPermission g w with
      | some a => some (0x08, a.va)
      | none => none

/-- R159, checks 1 to 4 over the accesses of the lanes that are not helpers: the first check that fails, with the
lowest lane that fails it. -/
def firstCheck (s : State) (k : Nat) (w : Want) (accs : List Acc) : Option (Nat × Nat) :=
  match addressCheck s k w accs with
  | some x => some x
  | none =>
    match accs.find? fun a => lockHit s s.iss.bid 5 a.va (a.va + a.size) with
    | some a => some (0x09, a.va)
    | none => none

/-- What checks 5 and 6 answer for one access. -/
inductive Reach where
  | at (pa : Nat) (vpn : Nat)
  | wait (kind level : Nat)
  | refused (cause : Nat)
  | weak
  deriving DecidableEq, Repr

/-- R159, checks 5 and 6, R178: translation, apertures and reliability class. The second component of `at` is the
revisioned page number plus 1, or 0. A write whose leaf has its dirty bit clear takes the light fault before the aperture or the
class refuses it; the refusal then comes at its replay (DESIGN CHOICE, log 48). -/
def reach (core ctx rev : Nat) (g : Seg) (w : Want) (kind va : Nat) (s : State) : State × Reach :=
  match translate core ctx rev va w kind s with
  | (s, .ok t) =>
    let k := t.pa + va % 4096
    if isLocal k then
      (s, if (partOf s k).cls < g.cls then .weak else .at k (if t.rev then va / 4096 + 1 else 0))
    else (s, if g.sys then .at k 0 else .refused 0x08)
  | (s, .fault kind level) => (s, .wait kind level)
  | (s, .trap c) => (s, .refused c)

/-- Checks 5 and 6 of every access, in lane order. -/
def reachAll (core ctx rev : Nat) (g : Seg) (w : Want) (kind : Nat) : List Acc → State → State × List (Acc × Reach)
  | [], s => (s, [])
  | a :: t, s =>
    let r := reach core ctx rev g w kind a.va s
    let rest := reachAll core ctx rev g w kind t r.1
    (rest.1, (a, r.2) :: rest.2)

/-- The first refusal of checks 5 and 6: check 5 comes before check 6. -/
def firstRefusal (rs : List (Acc × Reach)) : Option (Nat × Nat) :=
  match rs.findSome? fun e => match e.2 with | .refused c => some (c, e.1.va) | _ => none with
  | some x => some x
  | none => rs.findSome? fun e => match e.2 with | .weak => some (0x13, e.1.va) | _ => none

/-- R181: a 16-byte access to host or peer memory is two accesses of 8 bytes. -/
def halves (a : Acc) : List Acc :=
  match a.pa with
  | some p =>
    if a.size = 16 ∧ isLocal p = false then
      [{ a with size := 8, data := a.data.take 8 },
       { a with size := 8, data := a.data.drop 8, off := a.off + 8, va := a.va + 8, pa := some (p + 8), part := 8 }]
    else [a]
  | none => [a]

/-- The distinct virtual sectors of accesses (R192). -/
def sectorsOf (accs : List Acc) : List Nat := (accs.map fun a => a.va / 32).eraseDups

/-- Splits an active set into ordinary and helper lanes (R26, R47). -/
def helpers (s : State) (act : Word) : Word := laneSet ((lanesOf act).filter (isHelper s))

/-- R194: the stamp of a warp's release. -/
def stampOf (s : State) (wk scope : Nat) : Stamp :=
  let w := warpOf s wk
  { scope := scope, dev := Config.peerNumber, warp := w.num, block := w.bid, pod := (blkOf s w.bid).podTag }

/-- R183: the scope of one agent reaches another. -/
def reaches (scope : Nat) (a b : Stamp) : Bool :=
  match scope with
  | 0 => a.dev == b.dev && a.block == b.block && a.warp == b.warp
  | 1 => a.dev == b.dev && a.block == b.block
  | 2 => a.dev == b.dev && (a.block == b.block || (a.pod == b.pod && a.pod != 0xFFFFF))
  | 3 => a.dev == b.dev
  | _ => true

/-- R194, R206: the stamp that a sector's home slice keeps, here or at a peer; the host keeps none. -/
def stampAt (s : State) (sec : Nat) : Option Stamp :=
  if isLocal (32 * sec) then (match lfind sec s.l2 with | some e => e.stamp | none => none) else lfind sec s.pstamps

/-- R195: the check of an acquire against the stamp of its sector fails. The stamp is that of the home slice, also where a release
of the same Assured block to the sector is still uncommitted (DESIGN CHOICE, log 52). -/
def stampFails (s : State) (wk scope sec : Nat) : Bool :=
  match stampAt s sec with
  | none => false
  | some st => !(reaches st.scope st (stampOf s wk scope)) || !(reaches scope (stampOf s wk scope) st)

/-- Bytes of memory as a block reads them: with its uncommitted lines (R204). -/
def blockBytes (s : State) (b k n : Nat) : List Byte :=
  (List.range n).map fun i =>
    match lfind (k + i) (blkOf s b).uncommitted with
    | some v => v
    | none => readByte s (k + i)

/-- R250: sectors of uncommitted and staged data that the blocks of a core hold. -/
def heldSectors (s : State) (core : Nat) : Nat :=
  s.blocks.foldl (fun n e => if e.2.core = core then
    n + e.2.order1.length + e.2.staged.length else n) 0

/-- R204, R205, R250: writes bytes of one sector into the uncommitted lines of an Assured block, with what the write does
to the sector's stamp and the revisioned page that it lies on. More than 64 KiB on a core exposes the interval. -/
def uncommittedWrite (b k : Nat) (bs : List Byte) (st : StampOp) (vpn : Nat) (s : State) : State :=
  let sec := k / 32
  let s := modBlk b (fun x => { x with
    uncommitted := (List.range bs.length).foldl (fun m i => lput (k + i) (bs.getD i 0) m) x.uncommitted
    order1 := if x.order1.contains sec then x.order1 else x.order1 ++ [sec]
    uStamp := match st with | .keep => x.uStamp | .set v => lput sec v x.uStamp
    uVpn := if vpn = 0 then x.uVpn else lput sec vpn x.uVpn
    badLines := x.badLines.filter fun u => !(decide (k ≤ 8 * u) && decide (8 * u + 8 ≤ k + bs.length)) }) s
  if heldSectors s (blkOf s b).core > 2048 then exposeInterval b s else s

/-- R204: a write stays in the block's uncommitted lines: that of an ST, an STR or a RED, and that of an ATOM at block scope
or narrower. A release at a wider scope has exposed the interval (R205). -/
def staysUncommitted (s : State) (b : Nat) (atom : Bool) (scope k : Nat) : Bool :=
  (blkOf s b).cls == 2 && !(blkOf s b).exposed && (!atom || decide (scope ≤ 1)) && isLocal k

/-- A signed reading of n bits. -/
def signedOf (n v : Nat) : Int := if v < 2 ^ (n - 1) then (v : Int) else (v : Int) - 2 ^ n

/-- R376: the new value of a read-modify-write of n bits, and its flags. v is the operand, c the second one. -/
def rmwNew (op : Rmw) (n old v c : Nat) : Nat × Nat :=
  match op with
  | .add => ((old + v) % 2 ^ n, 0)
  | .min => (if signedOf n v < signedOf n old then v else old, 0)
  | .minu => (min old v, 0)
  | .max => (if signedOf n v > signedOf n old then v else old, 0)
  | .maxu => (max old v, 0)
  | .and => (Nat.land old v, 0)
  | .or => (Nat.lor old v, 0)
  | .xor => (Nat.xor old v, 0)
  | .exch => (v, 0)
  | .cas => (if old = c then v else old, 0)
  | .incw => (if old ≥ v then 0 else old + 1, 0)
  | .addb => (if old ≥ c then old else min (old + v) c, 0)
  | .ladd =>
    let r := logAdd fL32 false (lval fL32 old) (lval fL32 v)
    (lcode fL32 r.1, r.2)

/-- One lane's read-modify-write at its home (R176, R187, R204): the old value and the flags raised. -/
def rmwLane (b : Nat) (atom : Bool) (scope : Nat) (op : Rmw) (st : StampOp) (k : Nat) (a : Acc) (c : Nat) (s : State) :
    State × Nat × Nat :=
  let old := leNat (blockBytes s b k a.size)
  let r := rmwNew op (8 * a.size) old (leNat a.data) c
  let bs := leBytes a.size r.1
  if staysUncommitted s b atom scope k then
    (uncommittedWrite b k bs st a.vpn { touch (k / 32) s with resvs := lput (k / 32) b s.resvs }, old, r.2)
  else (ownSector (k / 32) (blkOf s b).ctx (sliceWrite k bs st s), old, r.2)

/-- R179, R257: a completion at an unreachable peer, counted once per instruction. -/
def countUnreachable (ctx : Nat) (s : State) : State :=
  chargeBudget ctx (modCtx ctx (fun x => { x with pucnt := satInc x.pucnt }) s)

/-- A load of a warp by its identifier. -/
def loadOf (s : State) (wk id : Nat) : Option LoadOp := (warpOf s wk).loads.find? fun o => o.id == id

/-- Replaces a load of a warp. -/
def putLoad (wk : Nat) (o : LoadOp) (s : State) : State :=
  modWarp wk (fun w => { w with loads := w.loads.map fun p => if p.id == o.id then o else p }) s

/-- The value that a load writes into the words of its destination (R437). -/
def loadWords (o : LoadOp) (a : Acc) : List Word :=
  let v := leNat a.data
  if o.size ≥ 4 then (List.range (a.size / 4)).map fun i => BitVec.ofNat 32 (v / 2 ^ (32 * i))
  else if o.signed then [BitVec.ofInt 32 (signedOf (8 * o.size) v)] else [BitVec.ofNat 32 v]

/-- The values that a load writes: kind of register, key, value (R60, R437, R446). -/
def loadVals (o : LoadOp) : List (Nat × Nat × Word) :=
  (o.accs.map fun a => (loadWords o a).zipIdx.map fun e =>
    if o.uniform then (1, o.dst + a.part / 4 + e.2, e.1) else (0, laneKey (o.dst + a.part / 4 + e.2) a.lane, e.1)).flatten

/-- Writes a load's destinations into the registers of a warp (R60, R437, R446). -/
def loadRegs (o : LoadOp) (r : Regs) : Regs := putVals (loadVals o) r

/-- R60, R193, R245, R252: a load whose accesses are all done writes its destinations, or its entries of the load-value
queue too, and is complete; an acquire at pod scope or wider invalidates the first-level cache. -/
def finishLoad (wk : Nat) (o : LoadOp) (s : State) : State :=
  let s := modWarp wk (fun w => { w with
    r := loadRegs o w.r
    tw := if o.both then loadRegs o w.tw else w.tw
    acquiring := if o.acquire then false else w.acquiring
    cmps := w.cmps.map fun c => if o.feeds ≠ 0 ∧ c.id = o.feeds then { c with vals := some (loadVals o) } else c
    loads := w.loads.filter fun p => p.id != o.id }) s
  let b := (warpOf s wk).bid
  let s := if o.exposed = 0 then s else exposureTrap b wk (o.exposed - 1) s
  if o.acquire ∧ o.scope ≥ 2 then l1Clear (blkOf s b).core s else s

/-- Keeps a load, or finishes it where nothing is outstanding and no comparison is awaited (R246). -/
def settleLoad (wk : Nat) (o : LoadOp) (s : State) : State :=
  if o.await = 0 ∧ (o.accs.all fun a => a.done) = true then finishLoad wk o s else putLoad wk o s

/-- The memory sector of an access, if translated. -/
def paSector (a : Acc) : Option Nat := a.pa.map (· / 32)

/-- A load that may hit the first-level cache: no atomic, and no acquire (R160, R193). -/
def mayHit (o : LoadOp) : Bool := o.rmw.isNone && !o.acquire

/-- The key of a first-level sector (R160). -/
def l1Key (core sec : Nat) : Nat := core * 2 ^ 80 + sec

/-- R174, R191: earlier accesses of the warp that a load's sector waits for, the comparison that it awaits (R246), and links
(R179). A hit does not wait for the warp's stores: they have updated the line; its reductions, and the stores of an Assured block,
have not. -/
def loadReady (s : State) (wk : Nat) (o : LoadOp) (sec : Nat) : Bool :=
  let mine := o.accs.filter fun a => !a.done && paSector a == some sec
  let x := blkOf s (warpOf s wk).bid
  let hit := mayHit o && x.cls != 2 && (lfind (l1Key x.core sec) s.l1).isSome
  !mine.isEmpty && o.await == 0 &&
  !((warpOf s wk).loads.any fun p => decide (p.id < o.id) && p.accs.any fun a => !a.done && paSector a == some sec) &&
  !(s.stores.any fun t => t.wk == wk && decide (t.seq < o.id) && (!hit || t.rmw.isSome) && t.accs.any fun a => paSector a == some sec) &&
  !(s.side.any fun e => e.wk == wk && decide (e.id < o.id) &&
      e.accs.any fun a => mine.any fun b => a.va / 32 == b.va / 32) &&
  (let l := linkState s (32 * sec); l.unreachable || l.recovery.isNone)

/-- What the accesses of one sector of a load find: the accesses with their data, flags raised, an update of the state. -/
structure Found where
  st : State
  accs : List Acc
  flags : Nat := 0
  counted : Bool
  unreach : Bool
  /-- an Assured block consumed an uncorrectable error: it has rolled back -/
  rolled : Bool := false
  deriving DecidableEq, Repr

/-- The accesses of a sector end with zeros. -/
def zeroAccs (accs : List Acc) (s : State) (c u : Bool) : Found :=
  { st := s, accs := accs.map fun a => { a with data := List.replicate a.size 0, done := true }, counted := c, unreach := u }

/-- A lane of a warp is a helper (R26). -/
def helperLane (s : State) (wk l : Nat) : Bool := match laneOf (warpOf s wk) l with | some x => x.helper | none => false

/-- The accesses of lanes that are no helpers (R47, R48). -/
def ordinary (s : State) (wk : Nat) (accs : List Acc) : List Acc := accs.filter fun a => !helperLane s wk a.lane

/-- R176, R378: the lanes of an atomic that name one sector, in ascending order. A helper lane only reads. -/
def atomicLanes (b wk : Nat) (o : LoadOp) (op : Rmw) (st : StampOp) : List Acc → State → State × List Acc × Nat
  | [], s => (s, [], 0)
  | a :: t, s =>
    let k := a.pa.getD 0
    if helperLane s wk a.lane then
      let rest := atomicLanes b wk o op st t s
      (rest.1, { a with data := blockBytes s b k a.size, done := true } :: rest.2.1, rest.2.2)
    else
      let r := rmwLane b true o.scope op st k a (lget 0 a.lane o.cmp) s
      let rest := atomicLanes b wk o op st t r.1
      (rest.1, { a with data := leBytes a.size r.2.1, done := true } :: rest.2.1, Nat.lor r.2.2 rest.2.2)

/-- What an atomic does to the stamp of its sector (R194). -/
def rmwStamp (s : State) (wk : Nat) (release : Bool) (scope : Nat) : StampOp :=
  if release then .set (some (stampOf s wk scope)) else .keep

/-- R179: an atomic that crossed the link before recovery began may have been performed at the peer; whether it was, the
spec leaves open (log 1). -/
def crossedAtomic (wk : Nat) (o : LoadOp) (sec : Nat) (mine : List Acc) (s : State) : State :=
  match o.rmw, (linkState s (32 * sec)).recovery with
  | some op, some start =>
    if o.clk * 5 / 6 < start then
      let r := freeNat s
      if Config.freeBool r.1 then
        (atomicLanes (warpOf s wk).bid wk o op (rmwStamp s wk o.release o.scope) mine r.2).1
      else r.2
    else s
  | _, _ => s

/-- R179, R257: accesses of a load or atomic complete at an unreachable peer, counted and charged once per instruction; a
helper lane's read takes no trap and reaches no budget (R47, R48). -/
def unreachableLoad (wk : Nat) (o : LoadOp) (sec : Nat) (mine : List Acc) (s : State) : Found :=
  match ordinary s wk mine with
  | [] => zeroAccs mine s o.counted o.unreach
  | a :: t =>
    let s := crossedAtomic wk o sec (a :: t) s
    zeroAccs mine (if o.unreach then s else raiseAsync wk 0x24 a.va (countUnreachable (blkOf s (warpOf s wk).bid).ctx s)) o.counted true

/-- The bytes of stores of a core that are on their way to a sector lie over what a fill brings: they have updated the
line at their issue (R160, R191). -/
def overStores (s : State) (core sec : Nat) (line : List Byte) : List Byte :=
  (s.stores.filter fun t => t.core == core && t.rmw.isNone && t.await == 0 && !t.wb && (blkOf s t.bid).cls != 2).foldl (fun d t =>
    t.accs.foldl (fun d a => if paSector a = some sec then patch d (a.pa.getD 0 % 32) a.data else d) d) line

/-- R160: what a load from the home slice leaves in the first-level cache: a plain load fills the sector; an acquire
brings a line that is present up to date, so that no later load reads an older write (R186; log 40). A poisoned sector leaves nothing (R243). -/
def fillFirst (o : LoadOp) (core sec : Nat) (s : State) : State :=
  if isLocal (32 * sec) = false ∨ poisoned s sec = true then s
  else
    let line := overStores s core sec (readBytes s (32 * sec) 32)
    if o.acquire then { s with l1 := lmod (l1Key core sec) (fun _ => line) s.l1 }
    else if o.noAlloc then s
    else { s with l1 := lput (l1Key core sec) line s.l1 }

/-- The home slice has to supply some byte of the accesses: the block's uncommitted lines do not hold it (R204). -/
def needsHome (x : Block) (mine : List Acc) : Bool :=
  mine.any fun a => (List.range a.size).any fun i => (lfind (a.pa.getD 0 + i) x.uncommitted).isNone

/-- R238: accesses read uncommitted bytes of a block that an uncorrectable error has struck. -/
def readsBadLine (x : Block) (mine : List Acc) : Bool :=
  !x.badLines.isEmpty && mine.any fun a => (List.range a.size).any fun i =>
    x.badLines.contains ((a.pa.getD 0 + i) / 8) && (lfind (a.pa.getD 0 + i) x.uncommitted).isSome

/-- Accesses that read what their block sees (R204). -/
def readAccs (s : State) (b : Nat) (accs : List Acc) : List Acc :=
  accs.map fun a => { a with data := blockBytes s b (a.pa.getD 0) a.size, done := true }

/-- The accesses of a load to one sector are performed (R160, R179, R187, R204, R243, R251, R254). -/
def performLoad (wk : Nat) (o : LoadOp) (sec : Nat) (mine : List Acc) (s : State) : Found :=
  let b := (warpOf s wk).bid
  let x := blkOf s b
  if (linkState s (32 * sec)).unreachable then unreachableLoad wk o sec mine s
  else if readsBadLine x (ordinary s wk mine) then
    { st := rollback b 0x20 s, accs := mine, counted := o.counted, unreach := o.unreach, rolled := true }
  else
    match (if mayHit o then lfind (l1Key x.core sec) s.l1 else none) with
    | some line =>
      { st := s, counted := o.counted, unreach := o.unreach
        accs := mine.map fun a =>
          let k := a.pa.getD 0
          { a with
            done := true
            data := (List.range a.size).map fun i =>
              match lfind (k + i) x.uncommitted with
              | some v => v
              | none => line.getD (k % 32 + i) 0 } }
    | none =>
      let s := touch sec s
      if isLocal (32 * sec) && poisoned s sec && needsHome x mine then
        if (ordinary s wk mine).isEmpty then zeroAccs mine s o.counted o.unreach
        else if x.cls = 2 then { st := rollback b 0x20 s, accs := mine, counted := o.counted, unreach := o.unreach, rolled := true }
        else zeroAccs mine (if o.counted then s else consume x.ctx s) true o.unreach
      else
        match o.rmw, ordinary s wk mine with
        | none, _ =>
          { st := fillFirst o x.core sec s, accs := readAccs s b mine, counted := o.counted, unreach := o.unreach }
        | some _, [] => { st := s, accs := readAccs s b mine, counted := o.counted, unreach := o.unreach }
        | some op, _ =>
          let r := atomicLanes b wk o op (rmwStamp s wk o.release o.scope) mine s
          { st := l1Drop x.core (32 * sec) 1 r.1, accs := r.2.1, flags := r.2.2, counted := o.counted, unreach := o.unreach }

/-- R110: flags that an operation of a warp raises by completing: the warp sees them at once, others from the next cycle
on. -/
def completionFlags (wk : Nat) (f : Word) (s : State) : State :=
  setFlags (warpOf s wk).bid f (modWarp wk (fun w => { w with raised := w.raised ||| (f &&& 0xFF) }) s)

/-- R195: SC of a failed stamp check: the flag, and its trap before the warp's next issue. -/
def scopeMismatch (b wk lane : Nat) (s : State) : State :=
  let s := completionFlags wk 0x40 s
  if (blkOf s b).trapen.getLsbD 6 then raiseAsync wk 0x0C (0x40 + lane % 32 * 256) s else s

/-- R195: the lowest lane of an acquire, not a helper, whose sector's stamp fails the check. -/
def mismatchLane (s : State) (wk : Nat) (o : LoadOp) (sec : Nat) (mine : List Acc) : Option Nat :=
  match ordinary s wk mine with
  | a :: _ => if o.acquire && stampFails s wk o.scope sec then some a.lane else none
  | [] => none

/-- The accesses of a list that a test picks, replaced in order. -/
def refill (p : Acc → Bool) : List Acc → List Acc → List Acc
  | [], _ => []
  | a :: t, ns =>
    if p a then
      match ns with
      | n :: m => n :: refill p t m
      | [] => a :: refill p t []
    else a :: refill p t ns

/-- R181: of the two halves of 16-byte accesses to host or peer memory, one is performed first; which, the spec leaves open
(log 1). -/
def pickHalf (mine : List Acc) (s : State) : State × (Acc → Bool) :=
  if (mine.any fun a => a.part == 0) && mine.any fun a => a.part != 0 then
    let r := freeNat s
    (r.2, fun a => (a.part == 0) == Config.freeBool r.1)
  else (s, fun _ => true)

/-- R187, R204, R205: before a sector of a load is performed, an access to host or peer memory, or an ATOM at a scope wider than
block, exposes its block's interval, and an ATOM breaks another block's reservation. Helper lanes only read (R47). -/
def exposeLoad (wk : Nat) (o : LoadOp) (sec : Nat) (mine : List Acc) (s : State) : State :=
  if (ordinary s wk mine).isEmpty then s
  else
    let s := if isLocal (32 * sec) = false ∨ (o.rmw.isSome ∧ o.scope ≥ 2) then exposeInterval (warpOf s wk).bid s else s
    if o.rmw.isSome then breakReservation (warpOf s wk).bid sec s else s

/-- R110, R205: EX of an exposure that an operation of a warp has brought, which the warp sees at once. -/
def raiseExposed (wk b : Nat) (was : Bool) (s : State) : State :=
  if was = false ∧ (blkOf s b).exposed = true then completionFlags wk 0x80 s else s

/-- R267: the accesses of a load that are still to be made follow the pages that their revision now sees. -/
def followLoad (s : State) (wk : Nat) (o : LoadOp) : LoadOp :=
  let bid := (warpOf s wk).bid
  { o with accs := o.accs.map fun a =>
      if a.done || a.vpn == 0 || a.pa.isNone then a
      else match viewPage (blkOf s bid).ctx (revOf s bid) (a.vpn - 1) s with
        | some p => { a with pa := some (p + a.va % 4096) }
        | none => a }

/-- A sector of a load is performed and returns. Where a page has been remapped, the access goes there first (R267). -/
def loadSector (wk ld sec : Nat) (s : State) : State :=
  match loadOf s wk ld with
  | none => s
  | some o =>
    if followLoad s wk o ≠ o then putLoad wk (followLoad s wk o) s
    else if loadReady s wk o sec then
      let b := (warpOf s wk).bid
      let was := (blkOf s b).exposed
      let h := pickHalf (o.accs.filter fun a => !a.done && paSector a == some sec) s
      let take := fun (a : Acc) => !a.done && paSector a == some sec && h.2 a
      let mine := o.accs.filter take
      let s := exposeLoad wk o sec mine h.1
      let sc := mismatchLane s wk o sec mine
      let f := performLoad wk o sec mine s
      if f.rolled then f.st
      else
        let s := match sc with | some l => scopeMismatch b wk l f.st | none => f.st
        let s := raiseExposed wk b was (completionFlags wk (BitVec.ofNat 32 f.flags) s)
        let n := if o.rmw.isSome then (sectorsOf (ordinary s wk mine)).length else 0
        let s := modWarp wk (fun w => { w with rsc := w.rsc - n }) s
        let ex := if was = false ∧ (blkOf s b).exposed = true then (mine.headD { lane := 0, off := 0, va := 0, size := 1 }).lane + 1 else o.exposed
        settleLoad wk { o with accs := refill take o.accs f.accs, counted := f.counted, unreach := f.unreach, exposed := ex } s
    else s

/-- R174, R179, R191, R246: what a store to one sector waits for: its comparison, earlier accesses of its warp, links, and
earlier stores of its core to the sector, which its first-level line already shows (log 40). -/
def storeReady (s : State) (t : StoreOp) : Bool :=
  let sec := (t.accs.head?.bind paSector).getD 0
  t.await == 0 &&
  !(s.stores.any fun u => u.wk == t.wk && decide (u.seq < t.seq) && u.accs.any fun a => paSector a == some sec) &&
  !(s.stores.any fun u => u.core == t.core && decide (u.id < t.id) && u.ins != t.ins && u.await == 0 && u.accs.any fun a => paSector a == some sec) &&
  !((warpOf s t.wk).loads.any fun p => decide (p.id < t.seq) && p.accs.any fun a => !a.done && paSector a == some sec) &&
  (let l := linkState s (32 * sec); l.unreachable || l.recovery.isNone)

/-- The write of the lanes of one store to one sector: one masked write, in which the highest lane's bytes remain
(R160, R182). -/
def sectorImage (accs : List Acc) : List (Option Byte) :=
  (List.range 32).map fun i => accs.foldl (fun o a =>
    let k := a.pa.getD 0 % 32
    if k ≤ i ∧ i < k + a.size then some (a.data.getD (i - k) 0) else o) none

/-- Runs of consecutive listed bytes: offset and bytes. -/
def runsOf (img : List (Option Byte)) : List (Nat × List Byte) :=
  img.zipIdx.foldr (fun e rs =>
    match e.1, rs with
    | some b, (o, bs) :: t => if e.2 + 1 = o then (e.2, b :: bs) :: t else (e.2, [b]) :: (o, bs) :: t
    | some b, [] => [(e.2, [b])]
    | none, rs => rs) []

/-- Performs a plain or release write to one sector. The first-level line has it since its issue; that of an Assured block takes
it now (R160, R186, R191). Another block's reservation of the sector is broken first (R187, log 52). -/
def writeSector (t : StoreOp) (sec : Nat) (st : StampOp) (s : State) : State :=
  (runsOf (sectorImage t.accs)).foldl (fun s r =>
    let k := 32 * sec + r.1
    if staysUncommitted s t.bid false t.scope k then uncommittedWrite t.bid k r.2 st t.vpn s
    else
      let u := ownSector sec t.ctx (sliceWrite k r.2 st (breakReservation t.bid sec s))
      if (blkOf s t.bid).cls = 2 then l1Update t.core k r.2 u else u) s

/-- R176: the lanes of a reduction that name one sector, in ascending order. -/
def reduceLanes (t : StoreOp) (op : Rmw) (st : StampOp) (s : State) : State × Nat :=
  t.accs.foldl (fun r a =>
    let q := rmwLane t.bid false t.scope op st (a.pa.getD 0) { a with vpn := t.vpn } 0 r.1
    (q.1, Nat.lor r.2 q.2.2)) (s, 0)

/-- R168, R509: marks the page of a written-back local address in the dirty table, where its frame is tracked: an atomic or at the
table's home slice. -/
def dirtyMark (pa : Nat) (s : State) : State :=
  let inTables := (s.rw.dirtytab ≤ pa && pa < s.rw.dirtytab + 98304 * 64) || (s.rw.trackmap ≤ pa && pa < s.rw.trackmap + 12288)
  if tracked s pa && !inTables then
    let bit := pa / 4096 % 512
    let k := s.rw.dirtytab + pa / 2 ^ 21 * 64 + bit / 8
    if paOnline s k then
      let s := touch (k / 32) s
      sliceWrite k [readByte s k ||| BitVec.ofNat 8 (2 ^ (bit % 8))] .keep s
    else s
  else s

/-- A second-level sector is stored in memory: a poisoned one of Unprotected memory as zeros (R237, R255). -/
def storeBack (sec : Nat) (e : L2Sec) (s : State) : State :=
  let bare := (partOf s (32 * sec)).cls == 0
  setPoison sec (e.poison && !bare) (writeBytes (32 * sec) (if e.poison && bare then List.replicate 32 0 else patch e.data 0 []) s)

/-- R236, R237: before a codeword is formed anew, its other sector, where it is not dirty itself, is what memory holds. -/
def keepSibling (sib : Nat) (s : State) : State :=
  match lfind sib s.l2 with
  | some x =>
    if x.dirty then s
    else if x.poison then
      let c := codeword s (sib / 2)
      storeBack sib (filled s c sib) (noteRead (sib / 2) c false s)
    else storeBack sib x s
  | none =>
    let s := touch sib s
    match lfind sib s.l2 with
    | some x => storeBack sib x s
    | none => s

/-- R168, R236, R237, R255: writes one dirty sector back to memory. Its codeword is formed anew with its other sector, which
is read first where the cache does not hold it, or holds it poisoned and clean: the memory's own sector stands. -/
def writebackSector (sec : Nat) (s : State) : State :=
  match lfind sec s.l2 with
  | none => s
  | some e =>
    if e.dirty then
      let s := keepSibling (siblingOf sec) s
      let s := storeBack sec e (clearDamage (sec / 2) s)
      let bare := e.poison && (partOf s (32 * sec)).cls == 0
      dirtyMark (32 * sec) (modL2 sec (fun e => { e with
        dirty := false, poison := e.poison && !bare, data := if bare then List.replicate 32 0 else e.data }) s)
    else s

/-- The dirty poisoned sectors of a line in Unprotected memory: its write-back zeroes them (R255). -/
def zeroedSector (line : Nat) (s : State) : Option L2Sec :=
  ((List.range 4).filterMap fun i => lfind (4 * line + i) s.l2).find? fun e =>
    e.dirty && e.poison && (partOf s (128 * line)).cls == 0

/-- Writes the dirty sectors of a line back: also one that another's write-back has read and corrected (R259). A line with zeroed
sectors counts once for the context that wrote it (R255, R257; log 41). -/
def writebackLine (line : Nat) (s : State) : State :=
  let z := zeroedSector line s
  let s := (List.range 8).foldl (fun s i => writebackSector (4 * line + i % 4) s) s
  match z with
  | some e => modCtx e.ctx (fun c => { c with uecnt := satInc c.uecnt }) s
  | none => s

/-- Another write in flight belongs to the same counted sector: the other half of a 16-byte access (R181), or another line
of a CCTL.wb, which counts once (R192). -/
def sameCount (t u : StoreOp) : Bool :=
  u.ins == t.ins && u.wk == t.wk && (t.wb || (u.accs.head?.bind paSector) == (t.accs.head?.bind paSector))

/-- A store, reduction or write-back leaves the device's books: its sectors leave the release store count (R192). The last
write of an instruction that has exposed its interval brings the trap of R252. -/
def ackStore (t : StoreOp) (s : State) : State :=
  let s := { s with stores := s.stores.filter fun u => u.id != t.id }
  let n := if s.stores.any (sameCount t) then 0 else if t.wb then 1 else (sectorsOf t.accs).length
  let s := modWarp t.wk (fun w => { w with rsc := w.rsc - n }) s
  if t.exposed = 0 then s
  else
    match s.stores.find? fun u => u.ins == t.ins && u.wk == t.wk with
    | some v => { s with stores := s.stores.map fun u => if u.id == v.id then { u with exposed := t.exposed } else u }
    | none => exposureTrap t.bid t.wk (t.exposed - 1) s

/-- R179: a store or reduction to an unreachable peer is dropped and charged once per instruction. One that was in
flight before recovery began may have been performed; which, the spec leaves open (log 1). -/
def dropStore (t : StoreOp) (s : State) : State :=
  let s := if t.unreach then s
    else { countUnreachable t.ctx s with
      stores := (countUnreachable t.ctx s).stores.map fun u => if u.ins == t.ins && u.wk == t.wk then { u with unreach := true } else u }
  ackStore t s

/-- R254: a reduction on a poisoned sector is not performed; counted and charged once per instruction. -/
def refuseReduction (t : StoreOp) (s : State) : State :=
  let s := if t.counted then s
    else { consume t.ctx s with
      stores := (consume t.ctx s).stores.map fun u => if u.ins == t.ins && u.wk == t.wk then { u with counted := true } else u }
  ackStore t s

/-- R205: a release at a scope wider than block, and an access to host or peer memory, expose the interval of their block
before they are performed. -/
def exposeStore (t : StoreOp) (sec : Nat) (s : State) : State :=
  if isLocal (32 * sec) = false ∨ (t.release ∧ t.scope ≥ 2) then exposeInterval t.bid s else s

/-- R252: a write that has exposed its interval notes it, with its lowest lane. -/
def noteExposed (was : Bool) (t : StoreOp) (s : State) : StoreOp :=
  if was = false ∧ (blkOf s t.bid).exposed = true then
    { t with exposed := (t.accs.headD { lane := 0, off := 0, va := 0, size := 1 }).lane + 1 } else t

/-- Acknowledges a write that has been performed, noting whether it has exposed its interval. -/
def endStore (was : Bool) (t : StoreOp) (s : State) : State := ackStore (noteExposed was t s) (raiseExposed t.wk t.bid was s)

/-- Performs a store, reduction or write-back at its home, and acknowledges it. -/
def performStore (t : StoreOp) (sec : Nat) (s : State) : State :=
  let was := (blkOf s t.bid).exposed
  let s := exposeStore t sec s
  match t.rmw with
  | none => endStore was t (writeSector t sec (.set (if t.release then some (stampOf s t.wk t.scope) else none)) s)
  | some op =>
    let s := touch sec s
    if readsBadLine (blkOf s t.bid) t.accs then rollback t.bid 0x20 s
    else if isLocal (32 * sec) && poisoned s sec && needsHome (blkOf s t.bid) t.accs then
      if (blkOf s t.bid).cls = 2 then rollback t.bid 0x20 s else refuseReduction (noteExposed was t s) (raiseExposed t.wk t.bid was s)
    else
      let s := breakReservation t.bid sec s
      let r := reduceLanes t op (rmwStamp s t.wk t.release t.scope) s
      endStore was t (completionFlags t.wk (BitVec.ofNat 32 r.2) (l1Drop t.core (32 * sec) 1 r.1))

/-- R172: the virtual address of the lowest lane's access. -/
def headVa (accs : List Acc) : Nat := (accs.headD { lane := 0, off := 0, va := 0, size := 1 }).va

/-- R203, R271: a store in flight to a revisioned page follows the page that its revision now writes; where the page
has become shared, it waits for a copy-on-write step. -/
def followPage (t : StoreOp) (s : State) : State × Option StoreOp :=
  if t.vpn = 0 then (s, some t)
  else
    let va := headVa t.accs
    match translate t.core t.ctx t.rev va .write 1 s with
    | (s, .ok x) => (s, some { t with accs := t.accs.map fun a => { a with pa := some (x.pa + a.va % 4096) } })
    | (s, .fault kind l) => ((raiseFault t.ctx t.rev va kind l t.core s).2, none)
    | (s, .trap _) => (s, some t)

/-- A store's sector is performed and acknowledged (R181, R192). -/
def storeSector (id : Nat) (s : State) : State :=
  match s.stores.find? fun t => t.id == id with
  | none => s
  | some t =>
    if t.wb then ackStore t (writebackLine ((t.accs.head?.bind (·.pa)).getD 0 / 128) s)
    else if storeReady s t then
      match followPage t s with
      | (s, none) => s
      | (s, some t) =>
        let sec := (t.accs.head?.bind paSector).getD 0
        let l := linkState s (32 * sec)
        if l.unreachable then
          let was := (blkOf s t.bid).exposed
          let s := exposeStore t sec s
          let t := noteExposed was t s
          let s := raiseExposed t.wk t.bid was s
          match l.recovery with
          | some start =>
            if t.clk * 5 / 6 < start then
              let r := freeNat s
              if Config.freeBool r.1 then performStore t sec r.2 else dropStore t r.2
            else dropStore t s
          | none => dropStore t s
        else performStore t sec s
    else s

end Sys2Proof.Machine
end

