-- ==== Sys2Proof/Machine/Memory.lean ====
section
/-! DEFINITION. The memory instructions (R374 to R380, R399, R400, R409, R410, R418, R436 to R442, R445, R446, R482 to
R484, R491 to R494). -/

set_option Elab.async false

namespace Sys2Proof.Machine

/-- R47, R48: where a helper lane's read finds its data: its key, or none where an ordinary lane would fault or trap. It
reaches no range-lock check. -/
def helperReach (s : State) (k : Nat) (a : Acc) : State × Option Nat :=
  let b := curBlk s
  match addressCheck s k .read [a] with
  | some _ => (s, none)
  | none =>
    match reach b.core b.ctx (revOf s s.iss.bid) (segOf s k) .read 0 a.va s with
    | (s, .at p _) => (s, some p)
    | (s, _) => (s, none)

/-- The reads of helper lanes: those that would fault or trap are done at once, with zeros. -/
def helperAccs (k : Nat) : List Acc → State → State × List Acc
  | [], s => (s, [])
  | a :: t, s =>
    let r := helperReach s k a
    let rest := helperAccs k t r.1
    (rest.1, (match r.2 with
      | some p => halves { a with pa := some p }
      | none => [{ a with data := List.replicate a.size 0, done := true }]) ++ rest.2)

/-- R172: raises the faults of accesses that found no page, and gives each access its address or the fault it awaits. -/
def bindAccs (ctx rev core : Nat) : List (Acc × Reach) → State → State × List Acc
  | [], s => (s, [])
  | (a, r) :: t, s =>
    match r with
    | .at p v =>
      let rest := bindAccs ctx rev core t s
      (rest.1, halves { a with pa := some p, vpn := v } ++ rest.2)
    | .wait kind level =>
      let f := raiseFault ctx rev a.va kind level core s
      let rest := bindAccs ctx rev core t f.2
      (rest.1, { a with wait := f.1 } :: rest.2)
    | _ => bindAccs ctx rev core t s

/-- R171: a load's lanes that await a page stand held at the instruction; the others go on. -/
def parkLoad (i : Instr) (act wl : Word) (id : Nat) (s : State) : Res :=
  if wl = 0 then .next s
  else .moved (advance (s.iss.lanes &&& ~~~wl) (holdLanes wl (.load id)
    (zeroPolicy (info (curPfx s) s.iss.hasPfx i) act s)))

/-- A load, or an atomic that returns a value: R159's checks, the faults of absent pages, and the outstanding operation. In
an Assured block a load feeds the load-value queue, and an atomic awaits its comparison (R245, R246). `ord` are the accesses of ordinary lanes, `hlp` those of helper lanes. -/
def loadBody (i : Instr) (k : Nat) (w : Want) (kind : Nat) (o : LoadOp) (ord hlp : List Acc) (s : State) : Res :=
  let wp := curWarp s
  let act := o.lanes
  if act = 0 then .next s
  else if wp.acquiring || (o.release && !releaseReady wp) then .hold
  else
    match firstCheck s k w ord with
    | some (c, a) => .trap s c a
    | none =>
      let b := curBlk s
      let rev := revOf s s.iss.bid
      let r := reachAll b.core b.ctx rev (segOf s k) w kind ord s
      match firstRefusal r.2 with
      | some (c, a) => .trap r.1 c a
      | none =>
        let h := helperAccs k hlp r.1
        let f := bindAccs b.ctx rev b.core r.2 h.1
        let accs := sortBy (fun a => a.lane) (f.2 ++ h.2)
        let id := freshId f.1
        let o := { o with
          id := id.1, accs := accs, clk := s.clock
          both := o.rmw.isSome && s.iss.cmp != 0
          await := if o.rmw.isSome then s.iss.cmp else 0
          feeds := if o.rmw.isSome then 0 else s.iss.cmp }
        let s := modCur (fun w => { w with
          loads := w.loads ++ [o]
          acquiring := o.acquire
          rsc := w.rsc + if o.rmw.isSome then (sectorsOf f.2).length else 0 }) id.2
        let waiting := laneSet ((accs.filter fun a => a.wait != 0).map fun a => a.lane)
        let s := settleLoad s.iss.wk o s
        parkLoad i act (if o.uniform ∧ waiting ≠ 0 then act else waiting) id.1 s

/-- The registers that hold a store's data, as bytes, lower register first. -/
def dataBytes (s : State) (d size l : Nat) : List Byte :=
  (leBytes 16 ((List.range 4).foldl (fun v i => v + if 4 * i < size then (readW s (d + i) l).toNat * 2 ^ (32 * i) else 0) 0)).take size

/-- LD and LDA (R436 to R439). -/
def vectorLoad (i : Instr) (d o k w : Nat) (acquire : Bool) (scope : Nat) (noAlloc : Bool) (s : State) : Res :=
  let act := active s 0
  let hs := helpers s act
  let size := bytesOfWidth w
  loadBody i k .read 0
    { id := 0, dst := d, nreg := regsOfWidth w, width := w, lanes := act, accs := [], seg := k, acquire := acquire, scope := scope,
      noAlloc := noAlloc, size := size, signed := w == 1 || w == 3 }
    ((lanesOf (act &&& ~~~hs)).map (accessOf s k o size)) ((lanesOf hs).map (accessOf s k o size)) s

/-- LD (R436, R438). -/
def execLd (d o : BitVec 7) (k : BitVec 4) (w h : BitVec 3) (s : State) : Out State :=
  issue (.ld d o k w h) s fun s =>
    vectorLoad (.ld d o k w h) d.toNat o.toNat k.toNat w.toNat false 0 (h = 1 || h = 4) s

/-- LDA (R436, R438). -/
def execLda (d o : BitVec 7) (k : BitVec 4) (w c : BitVec 3) (s : State) : Out State :=
  issue (.lda d o k w c) s fun s =>
    vectorLoad (.lda d o k w c) d.toNat o.toNat k.toNat w.toNat true c.toNat false s

/-- LDQ: one access, formed from q registers (R445, R446). -/
def execLdq (d o : BitVec 6) (k : BitVec 4) (w h : BitVec 3) (s : State) : Out State :=
  issue (.ldq d o k w h) s fun s =>
    let act := active s 0
    let hs := helpers s act
    let size := bytesOfWidth w.toNat
    let lo := (readQ s o.toNat).toNat
    let v := lo + if k = 15 then (readQ s (o.toNat + 1)).toNat * 2 ^ 32 else 0
    let mk := fun l => ({
      lane := l, off := v, size := size
      va := if k = 15 then v % 2 ^ 56 else (segOf s k.toNat).base + v } : Acc)
    let ord := (lanesOf (act &&& ~~~hs)).take 1
    loadBody (.ldq d o k w h) k.toNat .read 0
      { id := 0, dst := d.toNat, nreg := regsOfWidth w.toNat, width := w.toNat, uniform := true, lanes := act, accs := [],
        seg := k.toNat, noAlloc := h = 1 || h = 4, size := size }
      (ord.map mk) (if ord.isEmpty then ((lanesOf hs).take 1).map mk else []) s

/-- An ATOM (R374 to R380). `c` gives the second operand of cas and addb. -/
def atomic (i : Instr) (op : Rmw) (d o k w r c : Nat) (second : Nat → Nat) (s : State) : Res :=
  let act := active s 0
  let hs := helpers s act
  let size := 4 * (w + 1)
  let mk := fun l => { accessOf s k o size l with data := dataBytes s d size l }
  loadBody i k .readWrite 2
    { id := 0, dst := d, nreg := w + 1, width := 4 + w, lanes := act, accs := [], seg := k, rmw := some op,
      cmp := (lanesOf act).foldl (fun m l => lset 0 l (second l) m) [],
      acquire := r == 1 || r == 3, release := r == 2 || r == 3, scope := c, size := size }
    ((lanesOf (act &&& ~~~hs)).map mk) ((lanesOf hs).map mk) s

/-- R173, R174: an access of a store goes to the side log: its page is absent, or the warp has an entry on that page. -/
def goesToLog (s : State) (rev : Nat) (e : Acc × Reach) : Bool :=
  (match e.2 with | .wait .. => true | _ => false) ||
    s.side.any fun x => x.wk == s.iss.wk && x.rev == rev && x.vpn == e.1.va / 4096

/-- One write in flight, where it has any access. -/
def addStore (t : StoreOp) (mine : List (Acc × Nat)) (s : State) : State :=
  match mine with
  | [] => s
  | e :: _ =>
    let id := freshId s
    { id.2 with stores := id.2.stores ++ [{ t with id := id.1, accs := mine.map fun e => e.1, vpn := e.2 }] }

/-- The in-flight writes of the sectors of translated accesses (R192); two to a sector where they are the halves of 16-byte
accesses to host or peer memory (R181). -/
def storeOps (t : StoreOp) (accs : List (Acc × Nat)) : List Nat → State → State
  | [], s => s
  | sec :: rest, s =>
    let mine := accs.filter fun e => paSector e.1 == some sec
    storeOps t accs rest (addStore t (mine.filter fun e => e.1.part != 0) (addStore t (mine.filter fun e => e.1.part == 0) s))

/-- R160, R191: a store updates the sectors of its core's first-level lines at its issue. The stores of an Assured block
update them at their commit (R204). -/
def storeLines (b : Block) (accs : List Acc) (s : State) : State :=
  if b.cls = 2 then s
  else accs.foldl (fun s a => match a.pa with | some p => l1Update b.core p a.data s | none => s) s

/-- The side-log entries of the pages that accesses go to (R173). -/
def logEntries (t : SideEntry) (accs : List (Acc × Nat)) : List Nat → State → State
  | [], s => s
  | page :: rest, s =>
    let mine := accs.filter fun e => e.1.va / 4096 == page
    let id := freshId s
    let e := { t with
      id := id.1, vpn := page, accs := mine.map fun e => e.1, sectors := (sectorsOf (mine.map fun e => e.1)).length
      waits := (mine.head?.map fun e => e.2).getD 0 }
    logEntries t accs rest { id.2 with side := id.2.side ++ [e] }

/-- The fault that each logged access awaits. -/
def bindLog (ctx rev core : Nat) : List (Acc × Reach) → State → State × List (Acc × Nat)
  | [], s => (s, [])
  | (a, r) :: t, s =>
    match r with
    | .wait kind level =>
      let f := raiseFault ctx rev a.va kind level core s
      let rest := bindLog ctx rev core t f.2
      (rest.1, (a, f.1) :: rest.2)
    | _ =>
      let rest := bindLog ctx rev core t s
      (rest.1, (a, 0) :: rest.2)

/-- A store or reduction: R159's checks, the side log for absent pages (R173, R174), and one write in flight to each
sector (R192). In an Assured block the writes await their comparison (R246). Helper lanes write nothing (R47). -/
def storeBody (k o : Nat) (w : Want) (kind size : Nat) (rmw : Option Rmw) (release : Bool) (scope : Nat)
    (data : Nat → List Byte) (s : State) : Res :=
  let act := active s 0
  let wp := curWarp s
  if act = 0 then .next s
  else if wp.acquiring || (release && !releaseReady wp) then .hold
  else
    let ord := (lanesOf (act &&& ~~~(helpers s act))).map fun l => { accessOf s k o size l with data := data l }
    match firstCheck s k w ord with
    | some (c, a) => .trap s c a
    | none =>
      let b := curBlk s
      let bid := s.iss.bid
      let wk := s.iss.wk
      let rev := revOf s bid
      let r := reachAll b.core b.ctx rev (segOf s k) w kind ord s
      match firstRefusal r.2 with
      | some (c, a) => .trap r.1 c a
      | none =>
        let logged := r.2.filter (goesToLog r.1 rev)
        let direct := ((r.2.filter fun e => !goesToLog r.1 rev e).map fun e =>
          match e.2 with | .at p v => (halves { e.1 with pa := some p }).map fun a => (a, v) | _ => []).flatten
        let pages := (logged.map fun e => e.1.va / 4096).eraseDups
        if !pages.isEmpty && decide (64 < (r.1.side.filter fun e => e.core == b.core).length + pages.length) then .hold
        else
          let lg := bindLog b.ctx rev b.core logged (if rmw.isNone then storeLines b (direct.map fun e => e.1) r.1 else r.1)
          let ins := freshId lg.1
          let s := storeOps {
              id := 0, wk := wk, bid := bid, core := b.core, ctx := b.ctx, rev := rev, accs := [], rmw := rmw, size := size,
              release := release, scope := scope, seq := ins.1, ins := ins.1, clk := s.clock, await := s.iss.cmp }
            direct ((direct.filterMap fun e => paSector e.1).eraseDups) ins.2
          let s := logEntries {
              id := 0, wk := wk, bid := bid, core := b.core, ctx := b.ctx, rev := rev, vpn := 0, accs := [], rmw := rmw,
              size := size, release := release, scope := scope, seg := segOf s k, ins := ins.1, await := s.iss.cmp }
            lg.2 pages s
          .next (modCur (fun w => { w with rsc := w.rsc + (sectorsOf ord).length }) s)

/-- ST (R491 to R493). -/
def execSt (d o : BitVec 7) (k : BitVec 4) (w h : BitVec 3) (s : State) : Out State :=
  issue (.st d o k w h) s fun s =>
    storeBody k.toNat o.toNat .write 1 (bytesOfWidth w.toNat) none false 0 (dataBytes s d.toNat (bytesOfWidth w.toNat)) s

/-- STR (R491 to R493). -/
def execStr (d o : BitVec 7) (k : BitVec 4) (w c : BitVec 3) (s : State) : Out State :=
  issue (.str d o k w c) s fun s =>
    storeBody k.toNat o.toNat .write 1 (bytesOfWidth w.toNat) none true c.toNat (dataBytes s d.toNat (bytesOfWidth w.toNat)) s

/-- A RED (R482 to R484). -/
def reduction (op : Rmw) (d o k w r c : Nat) (s : State) : Res :=
  storeBody k o .readWrite 2 (4 * (w + 1)) (some op) (r == 1) c (dataBytes s d (4 * (w + 1))) s

/-- ATOM.add (R374 to R380). -/
def execAtomAdd (d o : BitVec 7) (k : BitVec 4) (w : BitVec 1) (r : BitVec 2) (c : BitVec 3) (s : State) : Out State :=
  issue (.atomAdd d o k w r c) s fun s =>
    atomic (.atomAdd d o k w r c) .add d.toNat o.toNat k.toNat w.toNat r.toNat c.toNat (fun _ => 0) s

/-- ATOM.min (R374 to R380). -/
def execAtomMin (d o : BitVec 7) (k : BitVec 4) (w : BitVec 1) (r : BitVec 2) (c : BitVec 3) (s : State) : Out State :=
  issue (.atomMin d o k w r c) s fun s =>
    atomic (.atomMin d o k w r c) .min d.toNat o.toNat k.toNat w.toNat r.toNat c.toNat (fun _ => 0) s

/-- ATOM.minu (R374 to R380). -/
def execAtomMinu (d o : BitVec 7) (k : BitVec 4) (w : BitVec 1) (r : BitVec 2) (c : BitVec 3) (s : State) : Out State :=
  issue (.atomMinu d o k w r c) s fun s =>
    atomic (.atomMinu d o k w r c) .minu d.toNat o.toNat k.toNat w.toNat r.toNat c.toNat (fun _ => 0) s

/-- ATOM.max (R374 to R380). -/
def execAtomMax (d o : BitVec 7) (k : BitVec 4) (w : BitVec 1) (r : BitVec 2) (c : BitVec 3) (s : State) : Out State :=
  issue (.atomMax d o k w r c) s fun s =>
    atomic (.atomMax d o k w r c) .max d.toNat o.toNat k.toNat w.toNat r.toNat c.toNat (fun _ => 0) s

/-- ATOM.maxu (R374 to R380). -/
def execAtomMaxu (d o : BitVec 7) (k : BitVec 4) (w : BitVec 1) (r : BitVec 2) (c : BitVec 3) (s : State) : Out State :=
  issue (.atomMaxu d o k w r c) s fun s =>
    atomic (.atomMaxu d o k w r c) .maxu d.toNat o.toNat k.toNat w.toNat r.toNat c.toNat (fun _ => 0) s

/-- ATOM.and (R374 to R380). -/
def execAtomAnd (d o : BitVec 7) (k : BitVec 4) (w : BitVec 1) (r : BitVec 2) (c : BitVec 3) (s : State) : Out State :=
  issue (.atomAnd d o k w r c) s fun s =>
    atomic (.atomAnd d o k w r c) .and d.toNat o.toNat k.toNat w.toNat r.toNat c.toNat (fun _ => 0) s

/-- ATOM.or (R374 to R380). -/
def execAtomOr (d o : BitVec 7) (k : BitVec 4) (w : BitVec 1) (r : BitVec 2) (c : BitVec 3) (s : State) : Out State :=
  issue (.atomOr d o k w r c) s fun s =>
    atomic (.atomOr d o k w r c) .or d.toNat o.toNat k.toNat w.toNat r.toNat c.toNat (fun _ => 0) s

/-- ATOM.xor (R374 to R380). -/
def execAtomXor (d o : BitVec 7) (k : BitVec 4) (w : BitVec 1) (r : BitVec 2) (c : BitVec 3) (s : State) : Out State :=
  issue (.atomXor d o k w r c) s fun s =>
    atomic (.atomXor d o k w r c) .xor d.toNat o.toNat k.toNat w.toNat r.toNat c.toNat (fun _ => 0) s

/-- ATOM.exch (R374 to R380). -/
def execAtomExch (d o : BitVec 7) (k : BitVec 4) (w : BitVec 1) (r : BitVec 2) (c : BitVec 3) (s : State) : Out State :=
  issue (.atomExch d o k w r c) s fun s =>
    atomic (.atomExch d o k w r c) .exch d.toNat o.toNat k.toNat w.toNat r.toNat c.toNat (fun _ => 0) s

/-- ATOM.cas (R374 to R380). -/
def execAtomCas (d o : BitVec 7) (k : BitVec 4) (w : BitVec 1) (r : BitVec 2) (c : BitVec 3) (s : State) : Out State :=
  issue (.atomCas d o k w r c) s fun s =>
    atomic (.atomCas d o k w r c) .cas d.toNat o.toNat k.toNat w.toNat r.toNat c.toNat (fun l => leNat (dataBytes s (d.toNat + w.toNat + 1) (4 * (w.toNat + 1)) l)) s

/-- ATOM.incw (R374 to R380). -/
def execAtomIncw (d o : BitVec 7) (k : BitVec 4) (r : BitVec 2) (c : BitVec 3) (s : State) : Out State :=
  issue (.atomIncw d o k r c) s fun s =>
    atomic (.atomIncw d o k r c) .incw d.toNat o.toNat k.toNat 0 r.toNat c.toNat (fun _ => 0) s

/-- ATOM.addb (R374 to R380). -/
def execAtomAddb (d o : BitVec 7) (k : BitVec 4) (r : BitVec 2) (c : BitVec 3) (s : State) : Out State :=
  issue (.atomAddb d o k r c) s fun s =>
    atomic (.atomAddb d o k r c) .addb d.toNat o.toNat k.toNat 0 r.toNat c.toNat (fun l => (readW s (d.toNat + 1) l).toNat) s

/-- ATOM.ladd (R374 to R380). -/
def execAtomLadd (d o : BitVec 7) (k : BitVec 4) (r : BitVec 2) (c : BitVec 3) (s : State) : Out State :=
  issue (.atomLadd d o k r c) s fun s =>
    atomic (.atomLadd d o k r c) .ladd d.toNat o.toNat k.toNat 0 r.toNat c.toNat (fun _ => 0) s

/-- RED.add (R482 to R484). -/
def execRedAdd (d o : BitVec 7) (k : BitVec 4) (w r : BitVec 1) (c : BitVec 3) (s : State) : Out State :=
  issue (.redAdd d o k w r c) s fun s => reduction .add d.toNat o.toNat k.toNat w.toNat r.toNat c.toNat s

/-- RED.min (R482 to R484). -/
def execRedMin (d o : BitVec 7) (k : BitVec 4) (w r : BitVec 1) (c : BitVec 3) (s : State) : Out State :=
  issue (.redMin d o k w r c) s fun s => reduction .min d.toNat o.toNat k.toNat w.toNat r.toNat c.toNat s

/-- RED.minu (R482 to R484). -/
def execRedMinu (d o : BitVec 7) (k : BitVec 4) (w r : BitVec 1) (c : BitVec 3) (s : State) : Out State :=
  issue (.redMinu d o k w r c) s fun s => reduction .minu d.toNat o.toNat k.toNat w.toNat r.toNat c.toNat s

/-- RED.max (R482 to R484). -/
def execRedMax (d o : BitVec 7) (k : BitVec 4) (w r : BitVec 1) (c : BitVec 3) (s : State) : Out State :=
  issue (.redMax d o k w r c) s fun s => reduction .max d.toNat o.toNat k.toNat w.toNat r.toNat c.toNat s

/-- RED.maxu (R482 to R484). -/
def execRedMaxu (d o : BitVec 7) (k : BitVec 4) (w r : BitVec 1) (c : BitVec 3) (s : State) : Out State :=
  issue (.redMaxu d o k w r c) s fun s => reduction .maxu d.toNat o.toNat k.toNat w.toNat r.toNat c.toNat s

/-- RED.and (R482 to R484). -/
def execRedAnd (d o : BitVec 7) (k : BitVec 4) (w r : BitVec 1) (c : BitVec 3) (s : State) : Out State :=
  issue (.redAnd d o k w r c) s fun s => reduction .and d.toNat o.toNat k.toNat w.toNat r.toNat c.toNat s

/-- RED.or (R482 to R484). -/
def execRedOr (d o : BitVec 7) (k : BitVec 4) (w r : BitVec 1) (c : BitVec 3) (s : State) : Out State :=
  issue (.redOr d o k w r c) s fun s => reduction .or d.toNat o.toNat k.toNat w.toNat r.toNat c.toNat s

/-- RED.xor (R482 to R484). -/
def execRedXor (d o : BitVec 7) (k : BitVec 4) (w r : BitVec 1) (c : BitVec 3) (s : State) : Out State :=
  issue (.redXor d o k w r c) s fun s => reduction .xor d.toNat o.toNat k.toNat w.toNat r.toNat c.toNat s

/-- RED.ladd (R482 to R484). -/
def execRedLadd (d o : BitVec 7) (k : BitVec 4) (r : BitVec 1) (c : BitVec 3) (s : State) : Out State :=
  issue (.redLadd d o k r c) s fun s => reduction .ladd d.toNat o.toNat k.toNat 0 r.toNat c.toNat s

/-- The access of one lane to a local store (R140, R141). -/
def localAccess (s : State) (o size disp l : Nat) : Acc :=
  let a := (readW s o l).toNat + disp * size
  { lane := l, off := a, va := a, size := size }

/-- R141, checks 1 and 2 over accesses to a store. -/
def localBounds (s : State) (sp : Nat) (accs : List Acc) : Option (Nat × Nat) :=
  match accs.find? fun a => a.va % a.size != 0 with
  | some a => some (0x05, a.va)
  | none =>
    match accs.find? fun a => decide (a.va + a.size > (curBlk s).alloc.getD sp 0) with
    | some a => some (0x06, a.va)
    | none => none

/-- R141: the first check that fails over accesses to a store, with the lowest lane that fails it. -/
def localCheck (s : State) (sp : Nat) (accs : List Acc) : Option (Nat × Nat) :=
  match localBounds s sp accs with
  | some x => some x
  | none =>
    match accs.find? fun a => lockHit s s.iss.bid sp a.va (a.va + a.size) with
    | some a => some (0x09, a.va)
    | none => none

/-- LDL (R441, R442): the read takes effect at issue (R143). It waits for the writes of an earlier STL of its warp that
await their comparison (R246). -/
def execLdl (d o : BitVec 7) (k : BitVec 4) (w x : BitVec 3) (s : State) : Out State :=
  issue (.ldl d o k w x) s fun s =>
    let act := active s 0
    let size := bytesOfWidth w.toNat
    if act = 0 then .next s
    else if (curWarp s).acquiring || stlWaits (curWarp s) then .hold
    else
      let mk := localAccess s o.toNat size x.toNat
      let ord := act &&& ~~~(helpers s act)
      match localCheck s k.toNat ((lanesOf ord).map mk) with
      | some (c, a) => .trap s c a
      | none =>
        let hits := (lanesOf ord).filter fun l => !(badWords (curBlk s) k.toNat (mk l).va size).isEmpty
        let op : LoadOp := {
          id := 0, dst := d.toNat, nreg := regsOfWidth w.toNat, width := w.toNat, lanes := act, seg := 0, size := size
          signed := w = 1 || w = 3
          accs := (lanesOf act).map fun l =>
            let a := mk l
            { a with data := if (localBounds s k.toNat [a]).isSome then List.replicate size 0
                             else storeBytes (curBlk s) k.toNat a.va size } }
        if hits.isEmpty then .next (modRegs (loadRegs op) s)
        else if (curBlk s).cls = 2 then .gone (rollback s.iss.bid 0x20 s)
        else .next (modRegs (loadRegs op) (consume (curBlk s).ctx s))

/-- The writes of an STL, in ascending lane order (R143): the journal takes their units first (R249). -/
def storeLocal (b wk : Nat) (puts : List (Nat × Nat × List Byte)) (s : State) : State :=
  modBlk b (fun x => puts.foldl (fun x p => storePut p.1 p.2.1 p.2.2 x) x)
    (journalAdd b wk (puts.map fun p => storeUnit p.1 p.2.1) s)

/-- STL (R494): lanes in ascending order (R143). An Assured lead's writes await their comparison (R246). -/
def execStl (d o : BitVec 7) (k : BitVec 4) (w x : BitVec 3) (s : State) : Out State :=
  issue (.stl d o k w x) s fun s =>
    let act := active s 0
    let size := bytesOfWidth w.toNat
    if act = 0 then .next s
    else if (curWarp s).acquiring then .hold
    else
      let accs := (lanesOf (act &&& ~~~(helpers s act))).map (localAccess s o.toNat size x.toNat)
      match localCheck s k.toNat accs with
      | some (c, a) => .trap s c a
      | none =>
        let puts := accs.map fun a => (k.toNat, a.va, dataBytes s d.toNat size a.lane)
        .next (if s.iss.cmp = 0 then storeLocal s.iss.bid s.iss.wk puts s
          else modCmp s.iss.wk s.iss.cmp (fun c => { c with puts := puts }) s)

/-- FENCE (R188, R192, R193, R205, R410): held until the warp's earlier accesses are done. -/
def fence (scope : Nat) (s : State) : Res :=
  let act := active s 0
  if act = 0 then .next s
  else whenReleased s fun s =>
    let s := if scope ≥ 2 then expose s.iss.bid s.iss.wk (lowestLane act) s else s
    .next (if scope ≥ 2 then l1Clear (curBlk s).core s else s)

/-- FENCE.acqrel (R409, R410). -/
def execFenceAcqrel (c : BitVec 3) (s : State) : Out State := issue (.fenceAcqrel c) s fun s => fence c.toNat s

/-- FENCE.sc (R409, R410): where an acqrel fence may go on, every earlier access of the warp has completed. -/
def execFenceSc (c : BitVec 3) (s : State) : Out State := issue (.fenceSc c) s fun s => fence c.toNat s

/-- The local key of the line that a CCTL names, or none where it does nothing (R400). -/
def cctlLine (s : State) (a : Acc) : State × Option Nat :=
  match walk (curBlk s).ctx (revOf s s.iss.bid) a.va s with
  | (s, .leaf t _ _ _) => (s, if isLocal t.pa then some ((t.pa + a.va % 4096) / 128 * 128) else none)
  | (s, _) => (s, none)

/-- The effect of CCTL on one line (R399); `ins` numbers the instruction. -/
def cctlAct (op ins k : Nat) (s : State) : State :=
  match op with
  | 0 => l1Drop (curBlk s).core k 1 s
  | 2 => (List.range 4).foldl (fun s i => touch (k / 32 + i) s) s
  | 3 => (List.range 4).foldl (fun s i =>
      let s := touch (k / 32 + i) s
      if poisoned s (k / 32 + i) then s
      else
        let core := (curBlk s).core
        { s with l1 := lput (l1Key core (k / 32 + i)) (overStores s core (k / 32 + i) (readBytes s (k + 32 * i) 32)) s.l1 }) s
  | _ =>
    let id := freshId s
    let b := curBlk s
    let t : StoreOp := {
      id := id.1, wk := s.iss.wk, bid := s.iss.bid, core := b.core, ctx := b.ctx, rev := revOf s s.iss.bid, wb := true
      seq := ins, ins := ins, clk := s.clock, accs := [{ lane := 0, off := 0, va := k, size := 1, pa := some k }] }
    { id.2 with stores := id.2.stores ++ [t] }

/-- The effect of CCTL on its lines. A CCTL.wb adds one to the release store count (R192). -/
def cctlLines (op : Nat) (ls : List Nat) (s : State) : State :=
  let ins := freshId s
  let s := ls.foldl (fun s l => cctlAct op ins.1 l s) ins.2
  if op ≠ 0 ∧ op ≠ 2 ∧ op ≠ 3 ∧ ls ≠ [] then modCur (fun w => { w with rsc := w.rsc + 1 }) s else s

/-- CCTL (R399, R400). -/
def execCctl (o : BitVec 7) (k : BitVec 4) (p : BitVec 3) (s : State) : Out State :=
  issue (.cctl o k p) s fun s =>
    let act := active s 0
    let ord := act &&& ~~~(helpers s act)
    if act = 0 then .next s
    else if (curWarp s).acquiring then .hold
    else if p = 1 then .next (if ord = 0 then s else l1Clear (curBlk s).core s)
    else
      let g := segOf s k.toNat
      let accs := (lanesOf ord).map (accessOf s k.toNat o.toNat 1)
      match accs.find? (offSegment g k.toNat) with
      | some a => .trap s 0x06 a.off
      | none =>
        match accs.find? fun _ => offPermission g .read with
        | some a => .trap s 0x08 a.va
        | none =>
          let r := accs.foldl (fun (r : State × List Nat) a =>
            match cctlLine r.1 a with
            | (s, some l) => (s, if r.2.contains l then r.2 else r.2 ++ [l])
            | (s, none) => (s, r.2)) (s, [])
          .next (cctlLines p.toNat r.2 r.1)

/-- IFENCE (R200, R418): every lane of the warp fetches the words from its counter on afresh (R511). -/
def execIfence (s : State) : Out State :=
  issue .ifence s fun s => uniformly 0 s fun s =>
    let core := (curBlk s).core
    .next (modCur staleWords { s with icache := s.icache.filter fun e => e.1 / 2 ^ 56 / 64 != core })

end Sys2Proof.Machine
end

