-- ==== Sys2Proof/Machine/MemEvents.lean ====
section
/-! DEFINITION. The device's own steps of the memory system: returning sectors, acknowledgements, repeated walks, light
faults, side-log replay, write-backs and links (R164, R168, R170, R171, R174, R175, R179). -/

set_option Elab.async false

namespace Sys2Proof.Machine

/-- LOAD_SECTOR_RETURN: a sector of an outstanding load or atomic is performed and returns (R60, R171, R191). -/
def execLoadSectorReturn (wk ld sec : Nat) (s : State) : Out State := .next (loadSector wk ld sec s)

/-- STORE_ACK: the home slice, the host or a peer performs and acknowledges a sector of a store (R192). -/
def execStoreAck (id : Nat) (s : State) : Out State := .next (storeSector id s)

/-- A fault still waits for its answer. -/
def faultWaits (s : State) (key : Nat) : Bool := s.faults.any fun f => f.key == key && !f.dead

/-- Releases the lanes of a set that a load holds (R171). -/
def releaseLoad (wk id : Nat) (ls : Word) (s : State) : State :=
  modWarp wk (fun w => { w with
    lanes := lmap (fun l (x : Lane) => if ls.getLsbD l && x.hold == .load id then releaseLane 0 x else x) w.lanes }) s

/-- R175: lanes that a load holds owe a precise trap; their part of the load is cancelled. A load of which nothing is left
gives the load-value queue nothing (R245). -/
def failLoad (wk : Nat) (o : LoadOp) (ls : Word) (cause addr : Nat) (s : State) : State :=
  let gone := if o.uniform then o.accs else o.accs.filter fun a => ls.getLsbD a.lane
  let ls := if o.uniform then o.lanes else ls
  let accs := if o.uniform then [] else o.accs.filter fun a => !ls.getLsbD a.lane
  let n := if o.rmw.isSome then (sectorsOf (ordinary s wk gone)).length else 0
  let o' := { o with accs := accs, lanes := o.lanes &&& ~~~ls }
  let s := modWarp wk (fun w => { w with
    owed := w.owed ++ [(ls, cause, addr)]
    rsc := w.rsc - n
    acquiring := if accs.isEmpty && o.acquire then false else w.acquiring
    cmps := w.cmps.map fun c => if accs.isEmpty && o.feeds != 0 && c.id == o.feeds then { c with vals := some [] } else c
    loads := if accs.isEmpty then w.loads.filter fun p => p.id != o.id else w.loads.map fun p => if p.id == o.id then o' else p }) s
  if accs.isEmpty then s else settleLoad wk o' s

/-- The accesses of a load to a page that wait for no fault any more. -/
def walkable (s : State) (o : LoadOp) (vpn : Nat) : List Acc :=
  o.accs.filter fun a => a.wait != 0 && a.va / 4096 == vpn && !faultWaits s a.wait

/-- The page of a load's waiting lanes is walked again (R171, R172): they go on, wait anew, or trap. -/
def rewalkLoad (wk id vpn : Nat) (s : State) : State :=
  match loadOf s wk id with
  | none => s
  | some o =>
    match walkable s o vpn with
    | [] => s
    | a :: t =>
      let bid := (warpOf s wk).bid
      let b := blkOf s bid
      let g := (gridOf s b.gid).segs.getD o.seg {}
      let rev := revOf s bid
      let w := if o.rmw.isSome then Want.readWrite else .read
      let ls := laneSet ((a :: t).map fun a => a.lane)
      match reach b.core b.ctx rev g w (if o.rmw.isSome then 2 else 0) a.va s with
      | (s, .wait kind level) =>
        let f := raiseFault b.ctx rev a.va kind level b.core s
        putLoad wk { o with accs := o.accs.map fun x => if ls.getLsbD x.lane && x.wait != 0 then { x with wait := f.1 } else x } f.2
      | (s, .refused c) => failLoad wk o ls c a.va s
      | (s, .weak) => failLoad wk o ls 0x13 a.va s
      | (s, .at p v) =>
        let accs := (o.accs.map fun x =>
          if ls.getLsbD x.lane && x.wait != 0 then halves { x with wait := 0, vpn := v, pa := some (p - a.va % 4096 + x.va % 4096) }
          else [x]).flatten
        releaseLoad wk id (if o.uniform then o.lanes else ls) (putLoad wk { o with accs := accs } s)

/-- PAGE_WALK_COMPLETE: a walk ends for the loads and atomics of a core that waited for the page (R164, R171); the
first walk of an access is part of its issue (log 5). -/
def execPageWalkComplete (core ctx rev va : Nat) (s : State) : Out State :=
  .next ((s.warps.filter fun e => (blkOf s e.2.bid).core == core && (blkOf s e.2.bid).ctx == ctx && revOf s e.2.bid == rev).foldl
    (fun s e => e.2.loads.foldl (fun s o => rewalkLoad e.1 o.id (va / 4096) s) s) s)

/-- LIGHT_FAULT: Xanyaz sets the entry's dirty bit, invalidates the stale TLB entries and releases the access (R170). -/
def execLightFault (ctx va : Nat) (s : State) : Out State :=
  if s.faults.any fun f => f.ctx == ctx && f.vpn == va / 4096 && f.kind == 8 then
    let s := { s with faults := s.faults.filter fun f => !(f.ctx == ctx && f.vpn == va / 4096 && f.kind == 8) }
    match walkPlain ctx va s with
    | (s, .leaf t _ _ _) =>
      let s := sliceWrite t.pte (leBytes 8 (Nat.lor (readNat s t.pte 8) 256)) (.set none) s
      .next { s with tlb := s.tlb.filter fun e => !tlbCovers e.1 ctx va }
    | (s, _) => .next s
  else .next s

/-- R174, R246: an entry may replay: its page's fault is answered, no earlier entry of its warp remains, and no comparison
is awaited. -/
def replayReady (s : State) (e : SideEntry) : Bool :=
  e.await == 0 && !faultWaits s e.waits && !s.side.any fun x => x.wk == e.wk && decide (x.id < e.id)

/-- R175: a logged store is lost: its sectors leave the release store count, and the warp traps before its next issue. -/
def loseEntry (e : SideEntry) (cause : Nat) (s : State) : State :=
  let low := e.accs.foldl (fun m a => min m a.va) ((e.accs.headD { lane := 0, off := 0, va := 0, size := 1 }).va)
  raiseAsync e.wk cause low (modWarp e.wk (fun w => { w with rsc := w.rsc - e.sectors })
    { s with side := s.side.filter fun x => x.id != e.id })

/-- SIDE_LOG_REPLAY: an entry translates its page afresh and goes to its home slices (R174). -/
def execSideLogReplay (id : Nat) (s : State) : Out State :=
  match s.side.find? fun e => e.id == id with
  | none => .next s
  | some e =>
    if replayReady s e then
      let w := if e.rmw.isSome then Want.readWrite else .write
      let va := headVa e.accs
      match reach e.core e.ctx e.rev e.seg w (if e.rmw.isSome then 2 else 1) va s with
      | (s, .wait kind level) =>
        let f := raiseFault e.ctx e.rev va kind level e.core s
        .next { f.2 with side := f.2.side.map fun x => if x.id == id then { x with waits := f.1 } else x }
      | (s, .refused c) => .next (loseEntry e c s)
      | (s, .weak) => .next (loseEntry e 0x13 s)
      | (s, .at p v) =>
        let accs := (e.accs.map fun a => (halves { a with pa := some (p - va % 4096 + a.va % 4096) }).map fun a => (a, v)).flatten
        let s := if e.rmw.isNone then storeLines (blkOf s e.bid) (accs.map fun a => a.1) s else s
        .next (storeOps {
            id := 0, wk := e.wk, bid := e.bid, core := e.core, ctx := e.ctx, rev := e.rev, accs := [], rmw := e.rmw
            size := e.size, release := e.release, scope := e.scope, seq := e.id, ins := e.ins, clk := s.clock }
          accs ((accs.filterMap fun e => paSector e.1).eraseDups)
          { s with side := s.side.filter fun x => x.id != id })
    else .next s

/-- R160, R168, R194: a line leaves the second-level cache, written back, with its stamps. -/
def evictLine (line : Nat) (s : State) : State :=
  let s := writebackLine line s
  { s with l2 := s.l2.filter fun e => e.1 / 4 != line }

/-- L2_LINE_WRITEBACK: a line's dirty sectors are written to memory, and an evicted line leaves the second-level cache (R160,
R168). -/
def execL2LineWriteback (line : Nat) (evict : Bool) (s : State) : Out State :=
  .next (if evict then evictLine line s else writebackLine line s)

/-- Changes a link. -/
def modLink (n : Nat) (f : Link → Link) (s : State) : State := { s with links := lset {} n (f (lget {} n s.links)) s.links }

/-- 50 ms in nanoseconds (R179). -/
def recoveryLimit : Nat := 50000000

/-- LINK_RECOVERY_START (R179). -/
def execLinkRecoveryStart (n : Nat) (s : State) : Out State :=
  .next (modLink n (fun l => if l.recovery.isSome || l.unreachable then l else { l with recovery := some (timeOf s) }) s)

/-- LINK_RECOVERY_END: within 50 ms of its start, the waiting operations proceed unchanged (R179). -/
def execLinkRecoveryEnd (n : Nat) (s : State) : Out State :=
  .next (modLink n (fun l => match l.recovery with
    | some t => if !l.unreachable && decide (timeOf s < t + recoveryLimit) then { l with recovery := none } else l
    | none => l) s)

/-- PEER_UNREACHABLE: at 50 ms the device declares the peer unreachable (R179). -/
def execPeerUnreachable (n : Nat) (s : State) : Out State :=
  .next (modLink n (fun l => match l.recovery with
    | some t => if timeOf s ≥ t + recoveryLimit then { l with unreachable := true } else l
    | none => l) s)

/-- LINK_RESTORE: the host restores the link (R179). -/
def execLinkRestore (n : Nat) (s : State) : Out State := .next (modLink n (fun _ => {}) s)

end Sys2Proof.Machine
end

