-- ==== Sys2Proof/Machine/Tiles.lean ====
section
/-! DEFINITION. Tiles, range locks and completion counters of engine operations (R36, R51 to R54, R112, R127, R145 to
R151, R196, R338, R350, R495, R496). -/

set_option Elab.async false

namespace Sys2Proof.Machine

/-- The geometry that words 0 and 1 of a tile entry hold (R146). -/
structure Geo where
  sp : Nat
  fmt : Nat
  rows : Nat
  cols : Nat
  base : Nat
  pitch : Nat
  deriving DecidableEq, Repr

/-- R146: the geometry of two words. -/
def geoOf (w0 w1 : Word) : Geo := {
  sp := (w0.extractLsb' 29 3).toNat
  fmt := (w0.extractLsb' 26 3).toNat
  rows := (w0.extractLsb' 14 12).toNat + 1
  cols := (w0.extractLsb' 2 12).toNat + 1
  base := 32 * (w1.extractLsb' 18 14).toNat
  pitch := 16 * (w1.extractLsb' 4 14).toNat }

/-- Bits of an element of a tile format (R147). -/
def tileBits (fmt : Nat) : Nat :=
  match fmt with | 0 => 8 | 1 => 16 | 2 => 32 | 3 => 4 | 4 => 8 | 5 => 8 | 6 => 16 | _ => 32

/-- R147: bytes of a row. -/
def Geo.rowBytes (g : Geo) : Nat := g.cols * tileBits g.fmt / 8

/-- The bytes from a tile's first to its last (R127, R147). -/
def Geo.extent (g : Geo) : Nat := (g.rows - 1) * g.pitch + g.rowBytes

/-- R147: the formats that a store allows. -/
def formatAllowed (sp fmt : Nat) : Bool :=
  match sp with
  | 0 => true
  | 1 => fmt != 4
  | 2 => decide (fmt < 4)
  | 3 => fmt == 2 || fmt == 7
  | _ => fmt == 4

/-- R147: the checks of TDESC on a geometry. -/
def geometryOk (b : Block) (g : Geo) : Bool :=
  formatAllowed g.sp g.fmt && (g.fmt != 3 || g.cols % 32 == 0) && decide (g.rowBytes ≤ g.pitch) &&
    decide (g.base + g.extent ≤ b.alloc.getD g.sp 0)

/-- The tile entry of a number. -/
def tileAt (b : Block) (t : Nat) : Tile := lget {} t b.tiles

/-- Changes a tile entry. -/
def modTile (bid t : Nat) (f : Tile → Tile) (s : State) : State :=
  modBlk bid (fun b => { b with tiles := lset {} t (f (tileAt b t)) b.tiles }) s

/-- The geometry of a tile. -/
def geoAt (b : Block) (t : Nat) : Geo := geoOf (tileAt b t).w0 (tileAt b t).w1

/-- R145, R148: the block owns the entry and it has been described. A described entry always has a pitch, so word 1 tells:
word 0 alone is zero for a tile of one L8 element in sb, which R148's "geometry zero" cannot mean (DEDUCED, log 43). -/
def tileKnown (b : Block) (t : Nat) : Bool := decide (t < b.tilesN) && (tileAt b t).w1 != 0

/-- R148: a tile that is filling or draining. -/
def tileBusy (b : Block) (t : Nat) : Bool := (tileAt b t).state == 1 || (tileAt b t).state == 3

/-- Word 2 of a tile entry (R146). -/
def tileWord2 (b : Block) (t : Nat) : Word :=
  let x := tileAt b t
  BitVec.ofNat 32 (x.satcnt * 65536 + (if x.nan then 32768 else 0) + (if x.err then 16384 else 0) + x.state * 4096 +
    b.slot % 64 * 64 + x.rdcnt * 4)

/-- A range that an operation is about to lock. -/
structure Range where
  core : Nat
  bid : Nat
  space : Nat
  lo : Nat
  hi : Nat
  write : Bool
  deriving DecidableEq, Repr

/-- The range of a tile. -/
def tileRange (s : State) (bid t : Nat) (write : Bool) : Range :=
  let g := geoAt (blkOf s bid) t
  { core := (blkOf s bid).core, bid := bid, space := g.sp, lo := g.base, hi := g.base + g.extent, write := write }

/-- R151: a range of an operation in flight on the same core that a new range must wait for. -/
def rangeBlocked (s : State) (r : Range) : Bool :=
  s.locks.any fun l => l.core == r.core && l.space == r.space && (r.write || l.write) && decide (r.lo < l.hi) &&
    decide (l.lo < r.hi) && (if r.space = 5 then (blkOf s l.bid).ctx == (blkOf s r.bid).ctx else l.bid == r.bid)

/-- R151: each core that the ranges name has an entry for each of them among its 32. -/
def entriesFree (s : State) (rs : List Range) : Bool :=
  rs.all fun r => decide ((s.locks.filter fun l => l.core == r.core).length + (rs.filter fun q => q.core == r.core).length ≤ 32)

/-- R127, R199: registers the ranges of an operation. -/
def lockRanges (op : Nat) (rs : List Range) (s : State) : State :=
  { s with locks := s.locks ++ rs.map fun r => {
      core := r.core, bid := r.bid, op := op, space := r.space, lo := r.lo, hi := r.hi, write := r.write } }

/-- Frees the ranges of an operation (R127, R197). -/
def freeLocks (op : Nat) (s : State) : State := { s with locks := s.locks.filter fun l => l.op != op }

/-- R338: the counter that the sel bit of an instruction names in its clause. -/
def counterOf (sel : BitVec 1) (s : State) : Nat :=
  let h := headerOf s.iss.hdr
  (if sel = 1 then h.cntB else h.cntA).toNat

/-- R51: adds 1 to a counter of the issuing warp. -/
def countUp (c : Nat) (s : State) : State := modCur (fun w => { w with cnt := lset 0 c (lget 0 c w.cnt + 1) w.cnt }) s

/-- R51, R52: the counter stood at 63 at the end of the last cycle. -/
def counterFull (c : Nat) (s : State) : Bool := decide (lget 0 c (curWarp s).cntSeen ≥ 63)

/-- R53: an operation without active lanes counts, and its counter falls in the next cycle. -/
def emptyOperation (c : Nat) (s : State) : Res :=
  if counterFull c s then .hold
  else .next (modCur (fun w => { w with drops := w.drops ++ [(c, s.clock + 1)] }) (countUp c s))

/-- R407: every warp of a block has ended. -/
def blockEnded (s : State) (bid : Nat) : Bool :=
  (s.blocks.any fun e => e.1 == bid) && s.warps.all fun e => e.2.bid != bid || e.2.lanes.all fun l => l.2.exited

/-- R407: an operation's error status has no warp in which to trap: an Assured block rolls back; any other block's context
ends with an event record of kind 0. -/
def lateError (wk : Nat) (pc : Word) (cause addr : Nat) (s : State) : State :=
  let w := warpOf s wk
  let b := blkOf s w.bid
  if b.cls = 2 then rollback w.bid cause s
  else endContext b.ctx (eventRecord b.ctx 0 cause b.core w.num pc.toNat addr s)

/-- R54: what an operation's completion does to its warp: its counter falls, with an error status where there is one. -/
def lowerCounter (c : Nat) (err : Option (Nat × Nat)) (w : Warp) : Warp :=
  { w with
    cnt := lset 0 c (lget 0 c w.cnt - 1) w.cnt
    cerr := match err with
      | some e => if (lfind c w.cerr).isSome then w.cerr else lput c e w.cerr
      | none => w.cerr }

/-- R54, R407: an operation that the instruction at `pc` issued completes. -/
def completeCounter (wk c : Nat) (pc : Word) (err : Option (Nat × Nat)) (s : State) : State :=
  let s' := modWarp wk (lowerCounter c err) s
  match err with
  | some e => if blockEnded s (warpOf s wk).bid then lateError wk pc e.1 e.2 s' else s'
  | none => s'

/-- TDESC (R146, R147, R148, R495, R496). -/
def execTdesc (t a : BitVec 6) (s : State) : Out State :=
  issue (.tdesc t a) s fun s => uniformly 0 s fun s =>
    let w0 := readQ s a.toNat
    let w1 := readQ s (a.toNat + 1)
    let b := curBlk s
    let g := geoOf w0 w1
    if g.sp ≥ 5 ∨ w0 &&& 3 ≠ 0 ∨ w1 &&& 15 ≠ 0 then .trap s 0x01 0
    else if t.toNat ≥ b.tilesN ∨ geometryOk b g = false then .trap s 0x0B 0
    else if (tileAt b t.toNat).state = 2 then .trap s 0x0B 0
    else if tileBusy b t.toNat then .hold
    else .next (modTile s.iss.bid t.toNat
      (fun x => { x with w0 := w0, w1 := w1, satcnt := 0, nan := false, err := false }) s)

/-- TSTATE (R148, R495, R496). -/
def execTstate (d t : BitVec 6) (s : State) : Out State :=
  issue (.tstate d t) s fun s => uniformly 0 s fun s =>
    if t.toNat ≥ (curBlk s).tilesN then .trap s 0x0B 0
    else .next (writeQ d.toNat (tileWord2 (curBlk s) t.toNat) s)

/-- TREL (R125, R148, R495, R496). -/
def execTrel (t : BitVec 6) (s : State) : Out State :=
  issue (.trel t) s fun s => uniformly 0 s fun s =>
    let b := curBlk s
    let x := tileAt b t.toNat
    if !tileKnown b t.toNat then .trap s 0x0B 0
    else if tileBusy b t.toNat || (x.state == 2 && decide (x.rdcnt > 0)) then .hold
    else if x.state = 2 then .next (modTile s.iss.bid t.toNat (fun x => { x with state := 0 }) s)
    else .next s

end Sys2Proof.Machine
end

