-- ==== Sys2Proof/Machine/Matrix.lean ====
section
/-! DEFINITION. The matrix engine (R113 to R135, R458, R459, R463, R464, R466, R467). -/

set_option Elab.async false

namespace Sys2Proof.Machine

/-- A loop descriptor (R118). -/
structure LoopDesc where
  c : Nat
  b : Nat
  a : Nat
  fmt : Nat
  gat : Bool
  bsa : Bool
  bsb : Bool
  sat : Bool
  ntrap : Bool
  pod : Bool
  pmask : Nat
  as : Nat
  bs : Nat
  n : Nat
  binc : Nat
  ainc : Nat
  brow : Nat
  acol : Nat
  deriving DecidableEq, Repr

/-- R118: the fields of the four words. -/
def loopDesc (ws : List Word) : LoopDesc :=
  let f := fun (i lo n : Nat) => ((ws.getD i 0).extractLsb' lo n).toNat
  let b := fun (i lo : Nat) => (ws.getD i 0).getLsbD lo
  { c := f 0 24 6, b := f 0 18 6, a := f 0 12 6, fmt := f 0 9 3, gat := b 0 8, bsa := b 0 7, bsb := b 0 6, sat := b 0 5
    ntrap := b 0 4, pod := b 0 3, pmask := f 1 24 8, as := f 1 18 6, bs := f 1 12 6, n := f 1 0 12 + 1
    binc := f 2 16 16, ainc := f 2 0 16, brow := f 3 16 16, acol := f 3 0 16 }

/-- R113: elements of K in a step. -/
def stepLen (fmt : Nat) : Nat := match fmt with | 0 => 32 | 1 => 16 | 2 => 8 | _ => 64

/-- R113: the tree format. -/
def treeFmt (fmt : Nat) : Fmt := if fmt = 1 ∨ fmt = 2 then fL32 else fTQ12

/-- R113, R121: the format in which operands are read. -/
def operandFmt (fmt : Nat) : Fmt := if fmt = 1 then fL16 else if fmt = 2 then fL32 else fL8

/-- R119: the field checks on a descriptor of a pod of p blocks. -/
def loopFieldsOk (ws : List Word) (p : Nat) : Bool :=
  let d := loopDesc ws
  (ws.getD 0 0) &&& 0xC0000007 == 0 && decide (d.fmt < 4) && (d.pod || d.pmask == 0) && (!d.pod || d.pmask != 0) &&
    decide (d.pmask < 2 ^ p)

/-- R119: one operand tile that a member must own, described and not empty, in a store and a format. -/
def operandTile (b : Block) (t sp fmt : Nat) : Bool :=
  tileKnown b t && (tileAt b t).state != 0 && (geoAt b t).sp == sp && (geoAt b t).fmt == fmt

/-- R115, R117, R119: the tile checks of one member. -/
def loopTilesOk (d : LoopDesc) (b : Block) : Bool :=
  let ga := geoAt b d.a
  let gb := geoAt b d.b
  let gc := geoAt b d.c
  let gs := geoAt b d.as
  let gt := geoAt b d.bs
  operandTile b d.a 1 d.fmt && operandTile b d.b 2 d.fmt && operandTile b d.c 3 2 &&
  (!d.bsa || operandTile b d.as 4 4) && (!d.bsb || operandTile b d.bs 4 4) &&
  gc.rows % 32 == 0 && decide (gc.rows ≤ 512) && (gc.cols == 32 || gc.cols == 64) &&
  decide (d.acol + (d.n - 1) * d.ainc + stepLen d.fmt ≤ ga.cols) && decide (d.brow + (d.n - 1) * d.binc + stepLen d.fmt ≤ gb.rows) &&
  gb.cols == gc.cols && (d.gat || decide (gc.rows ≤ ga.rows)) &&
  (d.fmt != 3 || (d.acol % 32 == 0 && d.ainc % 32 == 0 && d.brow % 32 == 0 && d.binc % 32 == 0)) &&
  (!d.bsa || (decide (ga.rows ≤ gs.rows) && decide ((ga.cols + 31) / 32 ≤ gs.cols))) &&
  (!d.bsb || (decide ((gb.rows + 31) / 32 ≤ gt.rows) && decide (gb.cols ≤ gt.cols)))

/-- The tiles that a loop reads. One tile that serves as both block scales is one tile. -/
def loopReads (d : LoopDesc) : List Nat :=
  [d.a, d.b] ++ ((if d.bsa then [d.as] else []) ++ (if d.bsb then [d.bs] else [])).eraseDups

/-- The members of a loop (R132): the issuer's block outside pod mode. A member whose block has ended is missing. -/
def loopMembers (d : LoopDesc) (bid : Nat) (s : State) : List Nat :=
  if d.pod then
    let x := blkOf s bid
    let pod := if x.podTag = 0xFFFFF then [bid] else (s.blocks.filter fun e => e.2.podTag == x.podTag).map fun e => e.1
    pod.filter fun m => d.pmask / 2 ^ (blkOf s m).pod % 2 == 1
  else [bid]

/-- R119, R407: every member named by pmask still has a block, which owns its tiles. -/
def membersThere (d : LoopDesc) (ms : List Nat) : Bool :=
  !d.pod || ms.length == laneCount (BitVec.ofNat 32 d.pmask)

/-- The ranges that a loop locks (R127, R132). -/
def loopRanges (d : LoopDesc) (ms : List Nat) (s : State) : List Range :=
  (ms.map fun m => tileRange s m d.c true :: (loopReads d).map fun t => tileRange s m t false).flatten

/-- R126: the matrix queue of a core holds 8 operations. -/
def matrixFull (s : State) (core : Nat) : Bool := decide ((s.mats.filter fun m => m.core == core).length ≥ 8)

/-- Issues a matrix operation that nothing holds: its counter, its locks, its place in the queue (R126, R127). -/
def queueMatrix (c : Nat) (rs : List Range) (op : MatOp) (s : State) : State :=
  let id := freshId s
  lockRanges id.1 rs (countUp c { id.2 with mats := id.2.mats ++ [{ op with id := id.1 }] })

/-- What holds a matrix operation at issue (R120, R127, R151, R192). -/
def matrixHeld (c : Nat) (rs : List Range) (s : State) : Bool :=
  matrixFull s (curBlk s).core || counterFull c s || !entriesFree s rs || rs.any (rangeBlocked s) || !releaseReady (curWarp s)

/-- An operation of the issuing warp. -/
def matOpOf (k : MatKind) (c : Nat) (s : State) : MatOp :=
  { id := 0, kind := k, bid := s.iss.bid, wk := s.iss.wk, core := (curBlk s).core, cnt := c, pc := s.iss.pc, tA := (curBlk s).tA, tB := (curBlk s).tB,
    members := [s.iss.bid] }

/-- MIDX (R116, R459). -/
def execMidx (a b : BitVec 6) (sel : BitVec 1) (s : State) : Out State :=
  issue (.midx a b sel) s fun s =>
    let c := counterOf sel s
    if active s 0 = 0 then emptyOperation c s
    else
      let lo := (readQ s a.toNat).toNat
      let n := (readQ s b.toNat).toNat
      let rs : List Range := [{ core := (curBlk s).core, bid := s.iss.bid, space := 0, lo := lo, hi := lo + 2 * n, write := false }]
      if n = 0 ∨ n > 512 then .trap s 0x01 0
      else if lo % 2 = 1 then .trap s 0x05 lo
      else if lo + 2 * n > (curBlk s).alloc.getD 0 0 then .trap s 0x06 lo
      else if matrixHeld c rs s then .hold
      else .next (queueMatrix c rs { matOpOf .midx c s with a := lo, b := n } s)

/-- MCLR (R125, R458). -/
def execMclr (t : BitVec 6) (sel : BitVec 1) (s : State) : Out State :=
  issue (.mclr t sel) s fun s =>
    let c := counterOf sel s
    if active s 0 = 0 then emptyOperation c s
    else
      let b := curBlk s
      let rs := [tileRange s s.iss.bid t.toNat true]
      if tileKnown b t.toNat = false ∨ (geoAt b t.toNat).sp ≠ 3 ∨ (geoAt b t.toNat).fmt ≠ 2 then .trap s 0x0B 0
      else if tileBusy b t.toNat || matrixHeld c rs s then .hold
      else .next (modTile s.iss.bid t.toNat (fun x => { x with state := 1 })
        (queueMatrix c rs { matOpOf .mclr c s with a := t.toNat } s))

/-- R120: a tile of a member keeps a loop at issue: it is filling or draining, or its readers are 15 (R149). -/
def loopTileHeld (d : LoopDesc) (b : Block) : Bool :=
  tileBusy b d.c || (loopReads d).any fun t => tileBusy b t || decide ((tileAt b t).rdcnt ≥ 15)

/-- R125, R148: a member's tiles at the issue of a loop. -/
def claimLoopTiles (d : LoopDesc) (m : Nat) (s : State) : State :=
  (loopReads d).foldl (fun s t => modTile m t (fun x => { x with rdcnt := x.rdcnt + 1 }) s)
    (modTile m d.c (fun x => { x with state := 1 }) s)

/-- MLOOP (R119, R120, R463). -/
def execMloop (q : BitVec 6) (sel : BitVec 1) (s : State) : Out State :=
  issue (.mloop q sel) s fun s =>
    let c := counterOf sel s
    if active s 0 = 0 then emptyOperation c s
    else
      let ws := (List.range 4).map fun i => readQ s (q.toNat + i)
      let d := loopDesc ws
      let ms := loopMembers d s.iss.bid s
      let rs := loopRanges d ms s
      if loopFieldsOk ws (curGrid s).pkt.pod = false then .trap s 0x01 0
      else if membersThere d ms = false ∨ (ms.all fun m => loopTilesOk d (blkOf s m)) = false then .trap s 0x0B 0
      else if (ms.any fun m => loopTileHeld d (blkOf s m)) || matrixHeld c rs s then .hold
      else .next (ms.foldl (fun s m => claimLoopTiles d m s)
        (queueMatrix c rs { matOpOf .mloop c s with desc := ws, members := ms } s))

/-- MSCL (R126, R466). -/
def execMscl (a b : BitVec 6) (s : State) : Out State :=
  issue (.mscl a b) s fun s => uniformly 0 s fun s =>
    .next (modBlk s.iss.bid (fun x => { x with tA := readQ s a.toNat, tB := readQ s b.toNat }) s)

/-- MSTAT (R129, R467). -/
def execMstat (d : BitVec 6) (m : BitVec 1) (t : BitVec 6) (s : State) : Out State :=
  issue (.mstat d m t) s fun s => uniformly 0 s fun s =>
    let b := curBlk s
    let x := tileAt b t.toNat
    if tileKnown b t.toNat = false ∨ x.state = 0 then .trap s 0x0B 0
    else if tileBusy b t.toNat then .hold
    else
      let s1 := writeQ d.toNat (BitVec.ofNat 32 (x.satcnt * 65536 + (if x.nan then 32768 else 0) + if x.err then 16384 else 0)) s
      .next (if m = 1 then modTile s.iss.bid t.toNat (fun x => { x with satcnt := 0, nan := false }) s1 else s1)

/-- The code of a tile element. -/
def elemAt (b : Block) (g : Geo) (r c : Nat) : Nat :=
  let n := tileBits g.fmt
  if n = 4 then leNat (storeBytes b g.sp (g.base + r * g.pitch + c / 2) 1) / 2 ^ (4 * (c % 2)) % 16
  else leNat (storeBytes b g.sp (g.base + r * g.pitch + c * (n / 8)) (n / 8))

/-- An operand element as the unit reads it: its value and its block scale (R79, R121). -/
structure Opnd where
  v : LV
  sc : Nat
  deriving DecidableEq, Repr

/-- K consecutive operand elements, with the flags of decoding them: `code k` and `scale k` give element k (R77, R121). -/
def operandRun (fmt lo n : Nat) (code scale : Nat → Nat) : List Opnd × Nat :=
  if fmt = 3 then
    (List.range (n / 32)).foldl (fun (r : List Opnd × Nat) i =>
      let k0 := lo + 32 * i
      let blk := (List.range 32).foldl (fun v j => v + code (k0 + j) * 2 ^ (4 * j)) 0
      let d := i4xBlock blk (scale k0)
      (r.1 ++ d.1.map fun e => { v := lval fL8 e, sc := scale k0 }, if d.2 then Nat.lor r.2 flIV else r.2)) ([], 0)
  else ((List.range n).map fun j => { v := lval (operandFmt fmt) (code (lo + j)), sc := scale (lo + j) }, 0)

/-- Row i of A for step s (R116, R121). -/
def rowOfA (d : LoopDesc) (b : Block) (latch : SMap Nat) (i s : Nat) : List Opnd × Nat :=
  let g := geoAt b d.a
  let ra := if d.gat then lget 0 i latch else i
  let n := stepLen d.fmt
  if d.gat ∧ ra ≥ g.rows then (List.replicate n { v := .zero false, sc := 0 }, flIV)
  else operandRun d.fmt (d.acol + s * d.ainc) n (elemAt b g ra)
    (fun k => if d.bsa then elemAt b (geoAt b d.as) ra (k / 32) else 0)

/-- Column j of B for step s (R121). -/
def colOfB (d : LoopDesc) (b : Block) (j s : Nat) : List Opnd × Nat :=
  operandRun d.fmt (d.brow + s * d.binc) (stepLen d.fmt) (fun k => elemAt b (geoAt b d.b) k j)
    (fun k => if d.bsb then elemAt b (geoAt b d.bs) (k / 32) j else 0)

/-- A scale code as a signed number (R79). -/
def scaleVal (c : Nat) : Int := if c < 128 then (c : Int) else (c : Int) - 256

/-- What a leaf, a node or a step gives: its value, flags, and whether it recorded a clamp (R121, R122, R129). -/
structure Sum where
  v : LV
  fl : Nat := 0
  clamp : Bool := false
  deriving DecidableEq, Repr

/-- One product (R121). -/
def leaf (fmt : Nat) (tA tB : LV) (x y : Opnd) : Sum :=
  let ft := treeFmt fmt
  let k := 22 - (operandFmt fmt).f
  let a := lwidenBy k (if x.sc = 0x80 then .zero false else x.v)
  let b := lwidenBy k (if y.sc = 0x80 then .zero false else y.v)
  let fs := [a, b, tA, tB]
  let sg := fs.foldl (fun g v => g != v.sign) false
  if fs.any LV.isNan then
    { v := (logNarrow fL32 ft false 0 0 (fs.foldl (fun n v => if v.isNan then nanPick n v else n) (.zero false))).1 }
  else
    let isZ := fun v => match v with | LV.zero _ => true | _ => false
    let isI := fun v => match v with | LV.inf _ => true | _ => false
    let e := fun v => match v with | LV.fin _ e => e | _ => 0
    if fs.any isZ then (if fs.any isI then { v := lnan, fl := flIV } else { v := .zero sg })
    else if fs.any isI then { v := .inf sg }
    else
      let p := fs.foldl (fun t v => t + e v) 0 + scaleVal x.sc * 2 ^ 19 + scaleVal y.sc * 2 ^ 19
      let p := if ft.f = 12 then (p + 511 + p / 2 ^ 10 % 2) / 2 ^ 10 else p
      if p > ft.eMax then { v := .fin sg ft.eMax, fl := flOV, clamp := true }
      else if p < ft.eMin then { v := .zero sg, fl := flUF }
      else { v := .fin sg p }

/-- R122: a node of the tree. -/
def treeNode (ft : Fmt) (sat : Bool) (x y : Sum) : Sum :=
  let r := logAdd ft sat x.v y.v
  { v := r.1, fl := Nat.lor (Nat.lor x.fl y.fl) r.2, clamp := x.clamp || y.clamp || (sat && decide (Nat.land r.2 flOV ≠ 0)) }

/-- The nodes of the next level. -/
def treeLevel (ft : Fmt) (sat : Bool) : List Sum → List Sum
  | x :: y :: t => treeNode ft sat x y :: treeLevel ft sat t
  | t => t

/-- R122: the pairwise tree, with its levels as fuel. -/
def treeRoot (ft : Fmt) (sat : Bool) : Nat → List Sum → Sum
  | 0, t => t.headD { v := .zero false }
  | n + 1, t => treeRoot ft sat n (treeLevel ft sat t)

/-- R123: one element's accumulation in one step. -/
def accumulate (d : LoopDesc) (tA tB acc : LV) (row col : List Opnd) : Sum :=
  let ft := treeFmt d.fmt
  let r := treeRoot ft d.sat 6 (row.zipWith (leaf d.fmt tA tB) col)
  let z := logAdd fL32 d.sat acc (lwidenBy (22 - ft.f) r.v)
  { v := z.1, fl := Nat.lor r.fl z.2, clamp := r.clamp || (d.sat && decide (Nat.land z.2 flOV ≠ 0)) }

/-- A loop of one member under way (R123, R129, R130): its block, and the 32 by 32 accumulators of the current C block, by
32 * row + column; none before the unit has read them. -/
structure LoopRun where
  b : Block
  acc : List LV := []
  p : MatProg := {}
  deriving DecidableEq, Repr

/-- R124: the C blocks of a tile, by block row and then by block column. -/
def cBlocks (g : Geo) : List (Nat × Nat) :=
  ((List.range (g.rows / 32)).map fun i => (List.range (g.cols / 32)).map fun j => (32 * i, 32 * j)).flatten

/-- R238: n consecutive elements of a tile's row touch a failing word. -/
def segBad (b : Block) (g : Geo) (r c n : Nat) : Bool :=
  !(badWords b g.sp (g.base + r * g.pitch + c * tileBits g.fmt / 8) (max 1 (n * tileBits g.fmt / 8))).isEmpty

/-- R128: a step reads a failing word of an operand. -/
def stepBad (d : LoopDesc) (b : Block) (latch : SMap Nat) (i0 j0 s : Nat) : Bool :=
  let k := stepLen d.fmt
  let c0 := d.acol + s * d.ainc
  let r0 := d.brow + s * d.binc
  !b.bad.isEmpty &&
    (((List.range 32).any fun i =>
      let ra := if d.gat then lget 0 (i0 + i) latch else i0 + i
      decide (ra < (geoAt b d.a).rows) &&
        (segBad b (geoAt b d.a) ra c0 k || (d.bsa && segBad b (geoAt b d.as) ra (c0 / 32) ((c0 + k - 1) / 32 - c0 / 32 + 1)))) ||
    (List.range k).any fun n => segBad b (geoAt b d.b) (r0 + n) j0 32 || (d.bsb && segBad b (geoAt b d.bs) ((r0 + n) / 32) j0 32))

/-- The accumulators of a C block as cb holds them, and whether a word of them fails. -/
def readBlock (d : LoopDesc) (b : Block) (i0 j0 : Nat) : List LV × Bool :=
  let g := geoAt b d.c
  ((List.range 1024).map fun e => lval fL32 (elemAt b g (i0 + e / 32) (j0 + e % 32)),
    !b.bad.isEmpty && (List.range 32).any fun i => segBad b g (i0 + i) j0 32)

/-- Writes a C block back (R123). -/
def writeBlock (g : Geo) (i0 j0 : Nat) (codes : List Nat) (b : Block) : Block :=
  codes.zipIdx.foldl (fun b e => storePut g.sp (g.base + (i0 + e.2 / 32) * g.pitch + 4 * (j0 + e.2 % 32)) (leBytes 4 e.1) b) b

/-- The bytes of a C block's result. -/
def blockBytesOf (codes : List Nat) : List Nat := (codes.map fun c => (leBytes 4 c).map (·.toNat)).flatten

/-- The first result of a C block, with the bytes that an upset has struck. -/
def struckCodes (op : MatOp) (m blk : Nat) (codes : List Nat) : List Nat :=
  if op.struck.isEmpty then codes
  else codes.zipIdx.map fun e =>
    Nat.xor e.1 (leNat ((List.range 4).map fun i => lget 0 ((m * 32 + blk) * 4096 + 4 * e.2 + i) op.struck))

/-- R123, R247: the accumulators of the current C block are written back. An Assured kernel's block is computed twice, and
only where the CRC-32C of the two results agree is the result written (log 43). -/
def closeBlock (op : MatOp) (m : Nat) (r : LoopRun) : LoopRun :=
  let d := loopDesc op.desc
  let g := geoAt r.b d.c
  let at' := (cBlocks g).getD r.p.blk (0, 0)
  let codes := r.acc.map (lcode fL32)
  let first := struckCodes op m r.p.blk codes
  if r.acc.isEmpty then r
  else if r.b.cls = 2 ∧ first ≠ codes ∧ crc32c (blockBytesOf first) ≠ crc32c (blockBytesOf codes) then
    { r with acc := [], p := { r.p with diff := true } }
  else { b := writeBlock g at'.1 at'.2 first r.b, acc := [], p := { r.p with nan := r.p.nan || r.acc.any LV.isNan } }

/-- One step of one member (R121 to R124, R129, R130): the first step of a C block reads its accumulators, and the last writes
them back. -/
def loopStep (op : MatOp) (m : Nat) (latch : SMap Nat) (r : LoopRun) : LoopRun :=
  let d := loopDesc op.desc
  let tA := lval fL32 op.tA.toNat
  let tB := lval fL32 op.tB.toNat
  match (cBlocks (geoAt r.b d.c))[r.p.blk]?, r.p.stop with
  | some (i0, j0), none =>
    let c := if r.acc.isEmpty then readBlock d r.b i0 j0 else (r.acc, false)
    let rows := (List.range 32).map fun i => rowOfA d r.b latch (i0 + i) r.p.step
    let cols := (List.range 32).map fun j => colOfB d r.b (j0 + j) r.p.step
    let sums := c.1.zipIdx.map fun e =>
      accumulate d tA tB e.1 ((rows.getD (e.2 / 32) ([], 0)).1) ((cols.getD (e.2 % 32) ([], 0)).1)
    let fl := (rows.map fun e => e.2) ++ (cols.map fun e => e.2) ++ sums.map fun x => x.fl
    let fresh := (c.1.zip sums).zipIdx.find? fun e => !e.1.1.isNan && e.1.2.v.isNan
    let stop := if d.ntrap then fresh.map fun e => (i0 + e.2 / 32, j0 + e.2 % 32, r.p.step) else none
    let r' : LoopRun := { r with
      acc := sums.map fun x => x.v
      p := { r.p with
        step := r.p.step + 1
        fl := fl.foldl Nat.lor r.p.fl
        count := min 65535 (r.p.count + (sums.filter fun x => x.clamp).length)
        ue := r.p.ue || c.2 || stepBad d r.b latch i0 j0 r.p.step
        stop := stop } }
    if stop.isSome then closeBlock op m r'
    else if r.p.step + 1 = d.n then
      let x := closeBlock op m r'
      { x with p := { x.p with blk := r.p.blk + 1, step := 0 } }
    else r'
  | _, _ => r

/-- A number of steps of one member. -/
def loopSteps (op : MatOp) (m : Nat) (latch : SMap Nat) : Nat → LoopRun → LoopRun
  | 0, r => r
  | n + 1, r => loopSteps op m latch n (loopStep op m latch r)

/-- Where a member begins, or resumes after a save (R134). -/
def loopBegin (op : MatOp) (m : Nat) (b : Block) : LoopRun :=
  { b := b, p := (lfind m op.prog).getD { count := (tileAt b (loopDesc op.desc).c).satcnt } }

/-- The steps that a member has from its first to its last. -/
def loopLength (op : MatOp) (b : Block) : Nat :=
  (cBlocks (geoAt b (loopDesc op.desc).c)).length * (loopDesc op.desc).n

/-- The loop of one member to its end. -/
def memberLoop (op : MatOp) (m : Nat) (latch : SMap Nat) (b : Block) : LoopRun :=
  loopSteps op m latch (loopLength op b) (loopBegin op m b)

/-- R134: a save interrupts a member after a step that the spec leaves open (log 1): its accumulators are written back. -/
def pauseLoop (op : MatOp) (m : Nat) (latch : SMap Nat) (free : Nat) (b : Block) : LoopRun :=
  closeBlock op m (loopSteps op m latch ((Config.freeWord free).toNat % (loopLength op b + 1)) (loopBegin op m b))

/-- R126: the cores whose units an operation uses. -/
def matCores (s : State) (op : MatOp) : List Nat := op.core :: op.members.map fun m => (blkOf s m).core

/-- R126, R132: no earlier operation uses a unit that this one needs. -/
def matrixNext (s : State) (op : MatOp) : Bool :=
  !(s.mats.any fun m => decide (m.id < op.id) && (matCores s m).any fun c => (matCores s op).contains c)

/-- The operation of a core's queue that is under way. -/
def matrixRunning (s : State) (core : Nat) (k : MatKind) : Option MatOp :=
  match s.mats.find? fun m => m.core == core with
  | some m => if m.started && m.kind == k then some m else none
  | none => none

/-- MATRIX_OP_START: the unit takes the next operation of a core's queue (R126). -/
def execMatrixOpStart (core : Nat) (s : State) : Out State :=
  match s.mats.find? fun m => m.core == core with
  | some op =>
    if !op.started && matrixNext s op then
      .next { s with mats := s.mats.map fun m => if m.id == op.id then { m with started := true } else m }
    else .next s
  | none => .next s

/-- An operation leaves the queue: its locks are freed and its counter falls (R54, R127). -/
def endMatrix (op : MatOp) (err : Option (Nat × Nat)) (s : State) : State :=
  completeCounter op.wk op.cnt op.pc err (freeLocks op.id { s with mats := s.mats.filter fun m => m.id != op.id })

/-- R128, R238, R243: an operation of the block reads failing words of a range: counted and charged outside Assured
kernels (R254). -/
def consumeRange (bid sp a n : Nat) (s : State) : State × Bool :=
  if (badWords (blkOf s bid) sp a n).isEmpty then (s, false)
  else ((if (blkOf s bid).cls = 2 then s else consume (blkOf s bid).ctx s), true)

/-- MIDX_COMPLETE (R116, R459). A failing word of its range reads as zero and completes the counter with error status 0x20, as it
does for a loop (R128): R254 names no MIDX (DESIGN CHOICE, log 43). -/
def execMidxComplete (core : Nat) (s : State) : Out State :=
  match matrixRunning s core .midx with
  | none => .next s
  | some op =>
    let c := consumeRange op.bid 0 op.a (2 * op.b) s
    let b := blkOf c.1 op.bid
    let latch := (List.range op.b).foldl (fun m j => lset 0 j (leNat (storeBytes b 0 (op.a + 2 * j) 2)) m) b.latch
    .next (endMatrix op (if c.2 then some (0x20, 0) else none) (modBlk op.bid (fun b => { b with latch := latch }) c.1))

/-- R249: the journal units of a C tile. -/
def tileUnits (b : Block) (t : Nat) : List Nat :=
  let g := geoAt b t
  (List.range ((g.base + g.extent + 127) / 128 - g.base / 128)).map fun i => storeUnit g.sp (128 * (g.base / 128 + i))

/-- MCLR_COMPLETE (R125, R458). -/
def execMclrComplete (core : Nat) (s : State) : Out State :=
  match matrixRunning s core .mclr with
  | none => .next s
  | some op =>
    let s := journalAdd op.bid op.wk (tileUnits (blkOf s op.bid) op.a) s
    let g := geoAt (blkOf s op.bid) op.a
    let s := modBlk op.bid (fun b => (List.range (g.rows * g.cols)).foldl
      (fun b i => storePut g.sp (g.base + i / g.cols * g.pitch + 4 * (i % g.cols)) (leBytes 4 0x40000000) b) b) s
    .next (endMatrix op none (modTile op.bid op.a (fun x => { x with state := 2, satcnt := 0, nan := false, err := false }) s))

/-- The loops of every member, in order of sr.pod. -/
def loopEnds (op : MatOp) (s : State) : List (Nat × LoopRun) :=
  (sortBy (fun m => (blkOf s m).pod) op.members).map fun m => (m, memberLoop op m (blkOf s op.bid).latch (blkOf s m))

/-- The member has completed with an error status (R128, R130, R247). -/
def LoopRun.failed (r : LoopRun) : Bool := r.p.stop.isSome || r.p.ue || r.p.diff

/-- A member's stores after steps of its loop (R249). -/
def putLoop (op : MatOp) (e : Nat × LoopRun) (s : State) : State :=
  let s := journalAdd e.1 op.wk (tileUnits (blkOf s e.1) (loopDesc op.desc).c) s
  modBlk e.1 (fun b => { b with ls := e.2.b.ls, bad := e.2.b.bad }) s

/-- R125, R129, R133, R149: a member's C tile and readers at completion. -/
def settleLoop (op : MatOp) (e : Nat × LoopRun) (s : State) : State :=
  let d := loopDesc op.desc
  let s := modTile e.1 d.c (fun x => { x with
    state := 2, satcnt := e.2.p.count, nan := x.nan || e.2.p.nan, err := e.2.failed }) (putLoop op e s)
  (loopReads d).foldl (fun s t => modTile e.1 t (fun x => { x with rdcnt := x.rdcnt - 1 }) s) s

/-- R134: a save interrupts the loops of a block that are under way: each member writes its accumulators back after some
step, and the operation keeps its place and goes on after the resume. -/
def pauseLoops (bid : Nat) (s : State) : State :=
  (s.mats.filter fun op => op.bid == bid && op.kind == .mloop && op.started).foldl (fun s op =>
    let r := op.members.foldl (fun (r : State × SMap MatProg) m =>
      let f := freeNat r.1
      let x := pauseLoop op m (blkOf f.2 op.bid).latch f.1 (blkOf f.2 m)
      (putLoop op (m, x) f.2, lput m x.p r.2)) (s, op.prog)
    { r.1 with mats := r.1.mats.map fun o => if o.id == op.id then { o with started := false, prog := r.2 } else o }) s

/-- R131: the value of sr.mnan for a stop. -/
def mnanOf (member ctile : Nat) (p : Nat × Nat × Nat) : BitVec 64 :=
  BitVec.ofNat 64 (2 ^ 36 + member % 8 * 2 ^ 33 + ctile % 64 * 2 ^ 27 + p.1 % 512 * 2 ^ 18 + p.2.1 % 64 * 2 ^ 12 + p.2.2 % 4096)

/-- The end of a loop: every member's outcome, the flags of the issuing block, sr.mnan and the counter (R125 to R133). The
spec leaves three points open, which the model settles (DESIGN CHOICE, log 43). A loop that both stops on a NaN and has met an
uncorrectable error, or a difference of R247, completes with 0x20, and its trap address is sr.mnan[31:0]. That value is sampled
when the loop stops, not when the wait traps. The members' C tiles, readers and locks are settled together, when the last
member completes. -/
def endLoop (op : MatOp) (ends : List (Nat × LoopRun)) (s : State) : State :=
  let d := loopDesc op.desc
  let ue := ends.any fun e => e.2.p.ue
  let worse := ue || ends.any fun e => e.2.p.diff
  let s := if ue ∧ (blkOf s op.bid).cls ≠ 2 then consume (blkOf s op.bid).ctx s else s
  let s := ends.foldl (fun s e => settleLoop op e s) s
  let s := setFlags op.bid (BitVec.ofNat 32 (flUnion (ends.map fun e => e.2.p.fl))) s
  match ends.find? fun e => e.2.p.stop.isSome with
  | some (m, e) =>
    let v := mnanOf (if d.pod then (blkOf s m).pod else 0) d.c (e.p.stop.getD (0, 0, 0))
    let s := modWarp op.wk (fun w => if w.mnan.getLsbD 36 then w else { w with mnan := v }) s
    endMatrix op (some (if worse then 0x20 else 0x0D, ((warpOf s op.wk).mnan.setWidth 32).toNat)) s
  | none => endMatrix op (if worse then some (0x20, 0) else none) s

/-- MLOOP_COMPLETE: every step has run (R123, R125). -/
def execMloopComplete (core : Nat) (s : State) : Out State :=
  match matrixRunning s core .mloop with
  | none => .next s
  | some op =>
    let ends := loopEnds op s
    if ends.any fun e => e.2.p.stop.isSome then .next s else .next (endLoop op ends s)

/-- MLOOP_NAN_STOP: a loop with ntrap has met a NaN (R130, R133). -/
def execMloopNanStop (core : Nat) (s : State) : Out State :=
  match matrixRunning s core .mloop with
  | none => .next s
  | some op =>
    let ends := loopEnds op s
    if ends.any fun e => e.2.p.stop.isSome then .next (endLoop op ends s) else .next s

end Sys2Proof.Machine
end

