-- ==== Sys2Proof/Machine/Huller.lean ====
section
/-! DEFINITION. The Huller as functions of streams: element formats, graph images and their checks, and the operators of
the cells (R154, R211, R220 to R231, R510). -/

set_option Elab.async false

namespace Sys2Proof.Machine

/-- Bits of an element of a tensor format (R154, R510). -/
def fmtBits (f : Nat) : Nat := [8, 16, 32, 4, 8, 6, 32, 16, 16, 8, 8, 8, 16, 32, 8].getD f 8

/-- R211: the zero of a tensor format. -/
def fmtZero (f : Nat) : Nat := [0x40, 0x4000, 0x40000000, 0, 0x80, 0x10].getD f 0

/-- The tensor format that a tile format names (R146, R154). -/
def tileFmt (f : Nat) : Nat := if f < 5 then f else f + 6

/-- The logarithmic format of a format code, if it is one. -/
def logFmt (f : Nat) : Option Fmt := match f with | 0 => some fL8 | 1 => some fL16 | 2 => some fL32 | 5 => some fL6 | _ => none

/-- The external format of a format code, if it is one. -/
def extFmt (f : Nat) : Option Ext := if 6 ≤ f ∧ f ≤ 10 then some (extOf (f - 6)) else none

/-- An unsigned format (R154). -/
def isUnsigned (f : Nat) : Bool := f == 11 || f == 12 || f == 13

/-- What the work on a stream has added: flags, saturations, and the generator that SR draws from (R217). -/
structure Fx where
  fl : Nat := 0
  sat : Nat := 0
  rng : BitVec 64 := 0
  deriving DecidableEq, Repr

/-- R106, R217: the draw of an element that rounds, taken in the SR mode from a finite non-zero input. -/
def fxDraw (mode : Nat) (need : Bool) (x : Fx) : Nat × Fx :=
  if mode = 5 ∧ need then ((rngDraw x.rng).2, { x with rng := (rngDraw x.rng).1 }) else (0, x)

/-- R217: an element's flags, and its saturation where R91 or R86 clamped it. -/
def fxNote (sat : Bool) (fl : Nat) (x : Fx) : Fx :=
  { x with fl := Nat.lor x.fl fl, sat := x.sat + if sat && decide (Nat.land fl flOV ≠ 0) then 1 else 0 }

/-- R217: an element that saturation clamped without OV: an infinity that becomes a finite magnitude (R86, R88). -/
def fxClamp (clamped : Bool) (x : Fx) : Fx := { x with sat := x.sat + clamped.toNat }

/-- R86: saturation turns an infinity into a finite magnitude of the target. -/
def infClamped (Y : Ext) (sat inf : Bool) : Bool := Y.e4m3 && sat && inf

/-- R72, R73: between logarithmic formats, with the draw of mode 5. -/
def logToLog (F G : Fmt) (sat : Bool) (mode draw : Nat) (v : LV) : LV × Nat :=
  if F.f ≤ G.f then (lwidenBy (G.f - F.f) v, 0) else logNarrow F G sat mode draw v

/-- CONV of one element, and the fixed paths 1 to 6 (R72, R73, R80, R84 to R88, R216, R222). R88 speaks of one format to
another: where both are the same, every code passes unchanged, a signalling NaN too, without a flag (DESIGN CHOICE, log
44). -/
def convElem (a b mode : Nat) (sat : Bool) (w : Nat) (x : Fx) : Nat × Fx :=
  if a = b then (w, x)
  else if a = 9 ∧ b = 4 then ((scaleImport w).1, fxNote false (scaleImport w).2 x)
  else
    match logFmt a, logFmt b, extFmt a, extFmt b with
    | some F, some G, _, _ =>
      let d := fxDraw mode ((lval F w).isFin && decide (G.f < F.f)) x
      let r := logToLog F G sat mode d.1 (lval F w)
      (lcode G r.1, fxNote sat r.2 d.2)
    | none, some G, some X, _ =>
      let d := fxDraw mode (match xval X w with | .fin .. => true | _ => false) x
      let r := (xImport X G sat mode d.1 none w).1
      (lcode G r.1, fxNote sat r.2 d.2)
    | some F, none, _, some Y =>
      let d := fxDraw mode (lval F w).isFin x
      let r := xExport Y F sat mode d.1 (lval F w)
      (r.1, fxClamp (infClamped Y sat (match lval F w with | .inf _ => true | _ => false)) (fxNote sat r.2 d.2))
    | none, none, some X, some Y =>
      let d := fxDraw mode (match xval X w with | .fin .. => true | _ => false) x
      let r := xConv X Y sat mode d.1 w
      (r.1, fxClamp (infClamped Y sat (match xval X w with | .inf _ => true | _ => false)) (fxNote sat r.2 d.2))
    | _, _, _, _ => (w, x)

/-- R216, R222: the scale rule of I4X: a finite value times 2^(s / 8), under R91. -/
def scaleI4x (sat : Bool) (scale code : Nat) (x : Fx) : Nat × Fx :=
  match lval fL8 code with
  | .fin s e =>
    if scale = 0x80 then (code, x)
    else
      let r := rangeFit fL8 sat s (e + signedOf 8 (scale % 256))
      (lcode fL8 r.1, fxNote sat r.2 x)
  | _ => (code, x)

/-- SCALE of one element by the L32 code p (R93, R94, R222). -/
def scaleElem (F G : Fmt) (p mode : Nat) (sat : Bool) (w : Nat) (x : Fx) : Nat × Fx :=
  let v := lwidenBy (22 - F.f) (lval F w)
  let q := lval fL32 p
  let d := fxDraw mode (v.isFin && q.isFin) x
  let m := rawMul v q
  let r := logNarrow fL32 G sat mode d.1 m.1
  (lcode G r.1, fxNote sat (Nat.lor m.2 r.2) d.2)

/-- CLAMP of one element (R222). -/
def clampElem (fin p w : Nat) (x : Fx) : Nat × Fx :=
  match logFmt fin with
  | none => if w > p then (p, { x with sat := x.sat + 1 }) else (w, x)
  | some F =>
    let v := lval F w
    match lval fL32 p, v with
    | .nan _ _, _ => (w, x)
    | .inf _, _ => (w, x)
    | _, .nan _ _ => (w, x)
    | _, .zero _ => (w, x)
    | .zero _, _ => (lcode F (.zero v.sign), { x with sat := x.sat + 1 })
    | .fin _ pe, _ =>
      let lim := pe / 2 ^ (22 - F.f)
      let past := match v with | .fin _ e => decide (e > lim) | _ => true
      if past then (lcode F (rangeFit F true v.sign lim).1, { x with sat := x.sat + 1 }) else (w, x)

/-- R223: the scale of a group whose largest logarithm is M, in eighths. -/
def blockScale (f : Nat) (i4x : Bool) (M : Int) : Int :=
  let c : Int := if i4x then (if f = 3 then 186 else if f = 9 then 11906 else 97539062) else 31 * 2 ^ f
  max (-127) (min 127 (-((c - 8 * M) / 2 ^ f)))

/-- R223: one element of a group whose scale is s. -/
def blkscElem (F : Fmt) (i4x : Bool) (mode : Nat) (sat : Bool) (s : Int) (w : Nat) (x : Fx) : Nat × Fx :=
  match lval F w with
  | .fin sg e =>
    let d := fxDraw mode true x
    let q := 8 * e - s * 2 ^ F.f
    if i4x then
      let e22 := q * 2 ^ (19 - F.f) / 2 ^ (F.f - 19)
      let iv := formVal e22
      let n := roundInt mode sg iv.2 (iv.1 - 26) d.1
      let m := min n 7
      (((if sg then -m else m) % 16).toNat, { d.2 with sat := d.2.sat + if n > 7 then 1 else 0 })
    else
      let r := rangeFit fL8 sat sg (roundBits mode sg q F.f d.1)
      (lcode fL8 r.1, fxNote sat r.2 d.2)
  | v =>
    if i4x then (0, fxNote false (match v with | .zero _ => 0 | _ => flIV) x)
    else (lcode fL8 (logToLog F fL8 sat mode 0 v).1, x)

/-- R223: a group: the elements of out0 and the scale. -/
def blkscGroup (F : Fmt) (i4x : Bool) (mode : Nat) (sat : Bool) (ws : List Nat) (x : Fx) : List Nat × Nat × Fx :=
  let es := ws.filterMap fun w => match lval F w with | .fin _ e => some e | _ => none
  match es with
  | [] =>
    let iv := ws.any fun w => match lval F w with | .zero _ => false | _ => true
    (ws.map fun _ => if i4x then 0 else 0x40, 0x80, fxNote false (if iv then flIV else 0) x)
  | e :: t =>
    let s := blockScale F.f i4x (t.foldl max e)
    let r := ws.foldl (fun (r : List Nat × Fx) w =>
      let y := blkscElem F i4x mode sat s w r.2
      (r.1 ++ [y.1], y.2)) ([], x)
    (r.1, (s % 256).toNat, r.2)

/-- REDUCE of one group (R222). -/
def reduceGroup (a b mode : Nat) (sat : Bool) (ws : List Nat) (x : Fx) : Nat × Fx :=
  match logFmt a, logFmt b with
  | some F, some G =>
    let r := (ws.drop 1).foldl (fun (r : LV × Nat) w =>
      let y := logAdd F sat r.1 (lval F w)
      (y.1, Nat.lor r.2 y.2)) (lval F (ws.headD 0), 0)
    let d := fxDraw mode (r.1.isFin && decide (G.f < F.f)) x
    let z := logToLog F G sat mode d.1 r.1
    (lcode G z.1, fxNote sat (Nat.lor r.2 z.2) d.2)
  | _, _ => (ws.foldl (· + ·) 0 % 2 ^ fmtBits b, x)

/-- R229: the canonical codes: length, code and symbol, with the final code. -/
def kaskoCodes (lens : List Nat) : List (Nat × Nat × Nat) × Nat :=
  (List.range 15).foldl (fun (r : List (Nat × Nat × Nat) × Nat) l =>
    let y := (List.range 16).foldl (fun (r : List (Nat × Nat × Nat) × Nat) s =>
      if lens.getD s 0 = l + 1 then (r.1 ++ [(l + 1, r.2, s)], r.2 + 1) else r) r
    (y.1, y.2 * 2)) ([], 0)

/-- R229: reads symbols from bits until `need` are found: the symbols, the bits left, and whether decoding failed. -/
def kaskoSymbols (codes : List (Nat × Nat × Nat)) : List Bool → Nat → Nat → Nat → List Nat × List Bool × Bool
  | [], need, _, _ => ([], [], need != 0)
  | b :: t, need, len, code =>
    if need = 0 then ([], b :: t, false)
    else
      let c := 2 * code + b.toNat
      match codes.find? fun e => e.1 == len + 1 && e.2.1 == c with
      | some e => let r := kaskoSymbols codes t (need - 1) 0 0; (e.2.2 :: r.1, r.2)
      | none => if len + 1 ≥ 15 then ([], t, true) else kaskoSymbols codes t need (len + 1) c

/-- The bits of bytes, least significant first. -/
def bitsOf (bs : List Nat) : List Bool := (bs.map fun b => (List.range 8).map fun i => b.testBit i).flatten

/-- R229: nibbles of symbols, under kind 1 as running sums. -/
def kaskoNibbles (kind prev : Nat) : List Nat → List Nat
  | [] => []
  | s :: t => let n := if kind = 1 then (s + prev) % 16 else s; n :: kaskoNibbles kind n t

/-- Pairs of nibbles as bytes, low nibble first. -/
def nibblePairs : List Nat → List Nat
  | a :: b :: t => (a + 16 * b) :: nibblePairs t
  | _ => []

/-- The little-endian number of bytes. -/
def numOf (bs : List Nat) : Nat := bs.foldr (fun b v => b + 256 * v) 0

/-- R228 to R230: a whole Kasko block: its decoded bytes as far as they go, and the kind of its error (0 CRC, 1 format). -/
def kaskoBlock (bs : List Nat) : List Nat × Option Nat :=
  let len := numOf ((bs.drop 4).take 2) + 1
  let W := numOf ((bs.drop 6).take 2)
  let kind := bs.getD 3 0 % 16
  let lens := (List.range 16).map fun s => bs.getD (8 + s / 2) 0 / 16 ^ (s % 2) % 16
  let codes := kaskoCodes lens
  let present := lens.filter (· != 0)
  if numOf (bs.take 2) ≠ 0x4B42 ∨ bs.getD 2 0 ≠ 1 ∨ bs.getD 3 0 / 16 ≠ 0 ∨ kind > 1 ∨ W = 0 then ([], some 1)
  else if codes.2 ≠ 2 ^ 16 ∧ present ≠ [1] then ([], some 1)
  else
    let r := kaskoSymbols codes.1 (bitsOf ((bs.drop 16).take (4 * W))) (2 * len) 0 0
    let out := nibblePairs (kaskoNibbles kind 0 r.1)
    if r.2.2 || r.2.1.any id then (out, some 1)
    else (out, if crc32c out = numOf ((bs.drop (16 + 4 * W)).take 4) then none else some 0)

/-- Packs elements of a width into tokens, as many as fit (R510); what does not fill a token stays unless `all`. -/
def packElems (w : Nat) (all : Bool) : Nat → List Elem → List Token × List Elem
  | 0, es => ([], es)
  | fuel + 1, es =>
    let n := 64 / w
    if es.isEmpty || (decide (es.length < n) && !all) then ([], es)
    else
      let g := es.take n
      let d := g.zipIdx.foldl (fun v e => v + e.1.1 % 2 ^ w * 2 ^ (w * e.2)) 0
      let r := packElems w all fuel (es.drop n)
      ({ data := BitVec.ofNat 64 d, bits := w * g.length, poison := g.any fun e => e.2 } :: r.1, r.2)

/-- The whole elements of a token (R510). -/
def tokenElems (w : Nat) (t : Token) : List Elem :=
  (List.range (t.bits / w)).map fun j => (t.data.toNat / 2 ^ (w * j) % 2 ^ w, t.poison)

/-- The bytes of a token, for CKSUM: a last byte that its valid bits do not fill is filled with zeros (log 44). -/
def tokenBytes (t : Token) : List Elem :=
  (List.range ((t.bits + 7) / 8)).map fun j => (t.data.toNat % 2 ^ t.bits / 256 ^ j % 256, t.poison)

/-- The elements of tokens. -/
def tokensElems (w : Nat) (ts : List Token) : List Elem := (ts.map (tokenElems w)).flatten

/-- What an operator's work answers: its state, what it added, and an error with its kind, Kasko block index and stream
position. -/
structure OpRun where
  st : OpState
  fx : Fx
  err : Option (Nat × Nat × Nat) := none
  /-- ENTD has lost the framing (R231) -/
  lost : Bool := false
  deriving DecidableEq, Repr

/-- Adds elements to output 0. -/
def emit (es : List Elem) (r : OpRun) : OpRun := { r with st := { r.st with o0 := r.st.o0 ++ es } }

/-- An element-wise operator on elements. -/
def eachElem (f : Nat → Fx → Nat × Fx) (es : List Elem) (r : OpRun) : OpRun :=
  es.foldl (fun r e => let y := f e.1 r.fx; emit [(y.1, e.2)] { r with fx := y.2 }) r

/-- Consumes whole groups of n elements of input 0, and at the end the rest as one group (R222, R223). -/
def eachGroup (n : Nat) (fin : Bool) (f : List Elem → OpRun → OpRun) : Nat → OpRun → OpRun
  | 0, r => r
  | fuel + 1, r =>
    if r.st.e0.isEmpty || (decide (r.st.e0.length < n) && !fin) then r
    else
      let g := r.st.e0.take n
      eachGroup n fin f fuel (f g { r with st := { r.st with e0 := r.st.e0.drop n } })

/-- BLKSC on a group (R223, R231). -/
def runBlksc (c : Cell) (g : List Elem) (r : OpRun) : OpRun :=
  let y := blkscGroup ((logFmt c.fin).getD fL8) (c.fout == 3) c.rnd c.sat (g.map (·.1)) r.fx
  let p := g.any (·.2)
  { r with
    fx := y.2.2
    st := { r.st with o0 := r.st.o0 ++ y.1.map fun w => (w, p), o1 := r.st.o1 ++ [(y.2.1, p)] } }

/-- REDUCE on a group (R222, R231). -/
def runReduce (c : Cell) (g : List Elem) (r : OpRun) : OpRun :=
  let y := reduceGroup c.fin c.fout c.rnd c.sat (g.map (·.1)) r.fx
  emit [(y.1, g.any (·.2))] { r with fx := y.2 }

/-- UNPACK of an I4X block with its scale (R77, R216, R222); poison of the block or its scale spreads over the block. In a last
block of fewer than 32 elements the missing ones, an escape's data nibbles among them, read as code 0 (DESIGN CHOICE, log 44). -/
def runI4x (c : Cell) (g : List Elem) (r : OpRun) : OpRun :=
  let sc := r.st.e1.headD (0, false)
  let r := { r with st := { r.st with e1 := r.st.e1.drop 1 } }
  let d := i4xBlock (g.zipIdx.foldl (fun v e => v + e.1.1 * 2 ^ (4 * e.2)) 0) sc.1
  let p := sc.2 || g.any (·.2)
  let r := { r with fx := fxNote false (if d.2 then flIV else 0) r.fx }
  eachElem (scaleI4x c.sat sc.1) ((d.1.take g.length).map fun w => (w, p)) r

/-- ENTD: decodes the whole blocks of the bytes taken (R228 to R231). `fin` says that no more bytes follow. A block whose
header is poisoned leaves one poisoned byte in its place, so that what follows is a poisoned stream (log 44). -/
def runEntd (fin : Bool) : Nat → OpRun → OpRun
  | 0, r => r
  | fuel + 1, r =>
    let es := r.st.e0
    if es.isEmpty || r.lost || r.err.isSome then r
    else if (es.take 16).any (·.2) then emit [(0, true)] { r with lost := true, st := { r.st with e0 := [] } }
    else if es.length < 16 then
      if fin then { r with err := some (1, min r.st.cnt 32767, r.st.acc) } else r
    else
      let hd := es.map (·.1)
      let n := 20 + 4 * numOf ((hd.drop 6).take 2)
      let len := numOf ((hd.drop 4).take 2) + 1
      if es.length < n then
        if !fin then r
        else if es.any (·.2) then emit (List.replicate len (0, true)) { r with st := { r.st with e0 := [] } }
        else { r with err := some (1, min r.st.cnt 32767, r.st.acc) }
      else
        let g := es.take n
        let nx : OpState := { r.st with e0 := es.drop n, cnt := r.st.cnt + 1, acc := r.st.acc + n }
        if g.any (·.2) then runEntd fin fuel (emit (List.replicate len (0, true)) { r with st := nx })
        else
          match kaskoBlock (g.map (·.1)) with
          | (out, none) => runEntd fin fuel (emit (out.map fun b => (b, false)) { r with st := nx })
          | (out, some k) => { emit (out.map fun b => (b, false)) r with err := some (k, min r.st.cnt 32767, r.st.acc) }

/-- CKSUM: passes bytes with their running CRC; with k[0] = 1 the last four stay behind (R222, R231). k's other bits have
no meaning. -/
def runCksum (c : Cell) (fin : Bool) (r : OpRun) : OpRun :=
  let es := r.st.e0
  let n := if c.k % 2 = 1 then es.length - 4 else es.length
  let r := (es.take n).foldl (fun r e =>
    let p := r.st.pois || e.2
    emit [(e.1, p)] { r with st := { r.st with acc := crc32cByte r.st.acc e.1, pois := p } })
    { r with st := { r.st with e0 := es.drop n } }
  if !fin then r
  else
    let crc := Nat.xor r.st.acc 0xFFFFFFFF
    if c.k % 2 = 0 then emit ((List.range 4).map fun i => (crc / 256 ^ i % 256, r.st.pois)) r
    else
      let rest := r.st.e0
      let bad := rest.length < 4 ∨ numOf (rest.map (·.1)) ≠ crc
      let p := r.st.pois || rest.any (·.2)
      { r with st := { r.st with e0 := [] }, err := if bad ∧ p = false then some (0, 0, 0) else none }

/-- R222: the transpose of n tokens of n elements of w bits. -/
def transpose (w : Nat) (ts : List Token) : List Token :=
  let n := 64 / w
  let p := ts.any (·.poison)
  (List.range n).map fun c =>
    { data := BitVec.ofNat 64 ((List.range n).foldl (fun v r =>
        v + (ts.getD r { bits := 64 }).data.toNat / 2 ^ (w * c) % 2 ^ w * 2 ^ (w * r)) 0)
      bits := 64, poison := p }

/-- XPOSE on the tokens taken (R222). -/
def runXpose (w : Nat) (fin : Bool) : Nat → OpRun → OpRun
  | 0, r => r
  | fuel + 1, r =>
    let n := 64 / w
    let ts := r.st.t0
    if ts.isEmpty || (decide (ts.length < n) && !fin) then r
    else
      let g := ts.take n
      let out := if g.length = n ∧ (g.all fun t => t.bits == 64) then transpose w g else g
      runXpose w fin fuel { r with st := { r.st with t0 := ts.drop n, q0 := r.st.q0 ++ out } }

/-- MERGE on the tokens taken: k of in0, k of in1; an ended input lets the other pass (R222). -/
def runMerge (k : Nat) : Nat → OpRun → OpRun
  | 0, r => r
  | fuel + 1, r =>
    let st := r.st
    let mine := if st.turn then st.t1 else st.t0
    let past := if st.turn then st.done1 else st.done0
    match mine with
    | t :: rest =>
      let full := decide (st.cnt + 1 ≥ k)
      let st := { st with q0 := st.q0 ++ [t], cnt := if full then 0 else st.cnt + 1, turn := if full then !st.turn else st.turn }
      runMerge k fuel { r with st := if r.st.turn then { st with t1 := rest } else { st with t0 := rest } }
    | [] =>
      if past && !(if st.turn then st.done0 && st.t0.isEmpty else st.done1 && st.t1.isEmpty) then
        runMerge k fuel { r with st := { st with cnt := 0, turn := !st.turn } }
      else r

/-- SPLIT of a token (R222). -/
def splitToken (k : Nat) (t : Token) (r : OpRun) : OpRun :=
  let st := r.st
  if k = 0 then { r with st := { st with q0 := st.q0 ++ [t], q1 := st.q1 ++ [t] } }
  else
    let full := decide (st.cnt + 1 ≥ k)
    let nx := { st with cnt := if full then 0 else st.cnt + 1, turn := if full then !st.turn else st.turn }
    { r with st := if st.turn then { nx with q1 := st.q1 ++ [t] } else { nx with q0 := st.q0 ++ [t] } }

/-- FILTER of an element (R222). -/
def filterElem (c : Cell) (e : Elem) (r : OpRun) : OpRun :=
  let r' := { r with st := { r.st with cnt := r.st.cnt + 1 } }
  if c.p.testBit (r.st.cnt % c.k) then emit [e] r' else r'

/-- DELTA of an element (R222, R231). -/
def deltaElem (c : Cell) (e : Elem) (r : OpRun) : OpRun :=
  let fresh := c.k != 0 && r.st.cnt % c.k == 0
  let v := ((if fresh then 0 else r.st.acc) + e.1) % 2 ^ fmtBits c.fin
  let p := (if fresh then false else r.st.pois) || e.2
  emit [(v, p)] { r with st := { r.st with cnt := r.st.cnt + 1, acc := v, pois := p } }

/-- Moves the elements formed into tokens; at the end the last token may hold fewer (R222). -/
def repack (w0 w1 : Nat) (all : Bool) (r : OpRun) : OpRun :=
  let a := packElems w0 all (r.st.o0.length + 1) r.st.o0
  let b := packElems w1 all (r.st.o1.length + 1) r.st.o1
  { r with st := { r.st with q0 := r.st.q0 ++ a.1, o0 := a.2, q1 := r.st.q1 ++ b.1, o1 := b.2 } }

/-- The width of the elements of an operator's output 0. -/
def outWidth (c : Cell) : Nat :=
  match c.op with
  | 5 => 8
  | 8 => 6
  | 9 => 8
  | 12 => fmtBits c.fin
  | 14 => fmtBits c.fin
  | 15 => fmtBits c.fin
  | _ => fmtBits c.fout

/-- An operator takes the tokens of one beat of an input, in every case but GATHR (R222). The marks of ended inputs are
already set. -/
def runOp (c : Cell) (second : Bool) (ts : List Token) (r : OpRun) : OpRun :=
  let w := fmtBits c.fin
  let es := tokensElems w ts
  let keep := { r with st := { r.st with e0 := r.st.e0 ++ es } }
  let fuel := r.st.e0.length + es.length + r.st.t0.length + r.st.t1.length + ts.length + 4
  let ended := r.st.done0
  let r := match c.op with
    | 0 => { r with st := { r.st with q0 := r.st.q0 ++ ts } }
    | 1 => eachElem (convElem c.fin c.fout c.rnd c.sat) es r
    | 2 => eachElem (scaleElem ((logFmt c.fin).getD fL8) ((logFmt c.fout).getD fL8) c.p c.rnd c.sat) es r
    | 3 => eachGroup 32 ended (runBlksc c) fuel keep
    | 4 => runEntd ended fuel keep
    | 5 => runCksum c ended { r with st := { r.st with e0 := r.st.e0 ++ (ts.map tokenBytes).flatten } }
    | 6 => runXpose w ended fuel { r with st := { r.st with t0 := r.st.t0 ++ ts } }
    | 7 => r
    | 8 => eachElem (convElem 0 5 c.rnd c.sat) es r
    | 9 =>
      if c.k = 0 then eachElem (convElem 5 0 c.rnd c.sat) es r
      else
        let st := if second then { r.st with e1 := r.st.e1 ++ tokensElems 8 ts } else { r.st with e0 := r.st.e0 ++ es }
        let n := if st.done1 then st.e0.length / 32 + 1 else st.e1.length
        eachGroup 32 (ended && (st.done1 || decide (st.e0.length / 32 < st.e1.length))) (runI4x c) n { r with st := st }
    | 10 => runMerge c.k (2 * fuel) { r with
        st := if second then { r.st with t1 := r.st.t1 ++ ts } else { r.st with t0 := r.st.t0 ++ ts } }
    | 11 => ts.foldl (fun r t => splitToken c.k t r) r
    | 12 => es.foldl (fun r e => filterElem c e r) r
    | 13 => eachGroup c.k ended (runReduce c) fuel keep
    | 14 => es.foldl (fun r e => deltaElem c e r) r
    | _ => eachElem (clampElem c.fin c.p) es r
  let past := match c.op with
    | 7 => r.st.done0 && r.st.done1
    | 9 => r.st.done0 && r.st.e0.isEmpty
    | 10 => r.st.done0 && r.st.done1 && r.st.t0.isEmpty && r.st.t1.isEmpty
    | _ => r.st.done0
  let past := past || r.lost
  repack (outWidth c) 8 past { r with st := { r.st with fin := r.st.fin || past } }

/-- The input that an operator takes its next beat from, given which inputs hold an entry (R220, R222). -/
def wantInput (c : Cell) (st : OpState) (has0 has1 : Bool) : Option Bool :=
  match c.op with
  | 7 => if has1 then some true else if has0 then some false else none
  | 9 =>
    if c.k = 0 then (if has0 then some false else none)
    else if has1 && st.e1.isEmpty then some true
    else if has0 && (!st.e1.isEmpty || st.done1 || decide (st.e0.length < 32)) then some false
    else if has1 then some true
    else none
  | 10 =>
    let second := if st.turn then !(st.done1 && st.t1.isEmpty) else st.done0 && st.t0.isEmpty
    if second then (if has1 then some true else none) else (if has0 then some false else none)
  | _ => if has0 then some false else none

/-- R222, R227: parameters and formats in the ranges of the operators. The L formats are codes 0 to 2; L6 is none of them
(R211). -/
def cellOk (c : Cell) : Bool :=
  let conv := fun f => (logFmt f).isSome || (extFmt f).isSome
  decide (c.fin ≤ 13) && decide (c.fout ≤ 13) && decide (c.rnd ≤ 5) &&
  match c.op with
  | 1 => (c.fin == 9 && c.fout == 4) || (conv c.fin && conv c.fout)
  | 2 => decide (c.fin ≤ 2) && decide (c.fout ≤ 2)
  | 3 => decide (c.fin ≤ 2) && (c.fout == 0 || c.fout == 3)
  | 4 => c.fin == 11 && fmtBits c.fout == 8
  | 6 => fmtBits c.fin == 8 || fmtBits c.fin == 16 || fmtBits c.fin == 32
  | 8 => c.fin == 0
  | 9 => (c.k == 0 && c.fin == 5) || (c.k == 1 && c.fin == 3)
  | 10 => decide (1 ≤ c.k)
  | 12 => decide (1 ≤ c.k) && decide (c.k ≤ 32)
  | 13 => decide (1 ≤ c.k) &&
      ((isUnsigned c.fin && isUnsigned c.fout) || (decide (c.fin ≤ 2) && decide (c.fout ≤ 2)))
  | 14 => isUnsigned c.fin
  | 15 => isUnsigned c.fin || decide (c.fin ≤ 2)
  | _ => true

/-- The inputs that an operator needs. -/
def needsSecond (c : Cell) : Bool := c.op == 7 || c.op == 10 || (c.op == 9 && c.k == 1)

/-- The operator uses its second output. -/
def usesSecond (c : Cell) : Bool := c.op == 3 || c.op == 11

/-- The cell of a cell endpoint (R226). -/
def cellOfEnd (e : Nat) : Nat := e % 32

/-- The endpoints that a source reaches: route destinations, cell after cell. -/
def reachFrom (g : Graph) : Nat → List Nat → List Nat
  | 0, srcs => (g.routes.filter fun r => srcs.contains r.1).map (·.2)
  | fuel + 1, srcs =>
    let dst := (g.routes.filter fun r => srcs.contains r.1).map (·.2)
    let more := (dst.filter (· < 0x40)).map fun e => [cellOfEnd e, 0x20 + cellOfEnd e]
    reachFrom g fuel (srcs ++ more.flatten).eraseDups

/-- The inputs that an entry port's tokens can reach. -/
def portInputs (g : Graph) (p : Nat) : List Nat := reachFrom g 33 [0x40 + p]

/-- R226, R227: the routes of an image. -/
def routesOk (g : Graph) : Bool :=
  let used := fun e => (lfind (cellOfEnd e) g.cells).isSome
  let srcOk := fun e => if e < 0x40 then used e else 0x48 ≤ e && decide (e < 0x80) && g.ports.testBit (e - 0x40)
  let dstOk := fun e => e == 0x80 || (decide (e < 0x40) && used e)
  (g.routes.all fun r => srcOk r.1 && dstOk r.2) &&
  decide ((g.routes.map (·.1)).eraseDups.length = g.routes.length) &&
  decide ((g.routes.map (·.2)).eraseDups.length = g.routes.length) &&
  (g.routes.any fun r => r.2 == 0x80) &&
  (g.cells.all fun e =>
    (g.routes.any fun r => r.2 == e.1) && (!needsSecond e.2 || g.routes.any fun r => r.2 == 0x20 + e.1) &&
    (g.routes.any fun r => r.1 == e.1) && (!usesSecond e.2 || g.routes.any fun r => r.1 == 0x20 + e.1)) &&
  (g.cells.all fun e => !((reachFrom g 33 [e.1, 0x20 + e.1]).any fun d => d == e.1 || d == 0x20 + e.1)) &&
  (List.range 64).all fun p => !g.ports.testBit p || (portInputs g p).contains 0x80

/-- R224 to R227: a graph image, where it passes its checks. -/
def parseGraph (bs : List Nat) : Option Graph :=
  let f := fun (o n : Nat) => numOf ((bs.drop o).take n)
  let n := f 8 2
  let cfg := fun j => f (64 + 8 * j) 8
  let used := f 4 4
  let cell := fun (v : Nat) => ({
    op := v / 2 ^ 60, fin := v / 2 ^ 52 % 16, fout := v / 2 ^ 48 % 16, rnd := v / 2 ^ 45 % 8, sat := v.testBit 44,
    k := v / 2 ^ 32 % 4096, p := v % 2 ^ 32 } : Cell)
  let routes := (List.range n).map fun i => f (320 + 4 * i) 4
  let g : Graph := {
    cells := ((List.range 32).filter fun j => used.testBit j).map fun j => (j, cell (cfg j))
    ports := f 16 8
    routes := routes.map fun r => (r / 2 ^ 24, r / 2 ^ 16 % 256) }
  if bs.length = 320 + 4 * n ∧ 1 ≤ n ∧ n ≤ 128 ∧ f 0 2 = 0x4847 ∧ f 2 1 = 1 ∧ f 3 1 = 0 ∧ f 10 6 = 0 ∧ f 16 1 = 0 ∧ f 28 36 = 0 ∧
      crc32c (bs.drop 64) = f 24 4 ∧ (routes.all fun r => r % 2 ^ 16 == 0) ∧
      ((List.range 32).all fun j => used.testBit j || cfg j == 0) ∧
      ((List.range 32).all fun j => cfg j / 2 ^ 56 % 16 == 0) ∧ (g.cells.all fun e => cellOk e.2) ∧ routesOk g then some g
  else none

end Sys2Proof.Machine
end

