-- ==== Sys2Proof/Machine/Engine.lean ====
section
/-! DEFINITION. An engine's accesses to global memory and to tiles: tensor descriptors and handles, elements of tensors and
tiles, the waits and errors of a copy's accesses, and the writes that a copy performs (R139, R146, R147, R154, R155, R171,
R178, R179, R197, R198, R211, R231, R232, R250, R255, R509). -/

set_option Elab.async false

namespace Sys2Proof.Machine

/-- R154: a tensor descriptor, where every field is valid and it answers to a generation. -/
def tensorOf (gen : Nat) (bs : List Byte) : Option Tensor :=
  let f := fun (o n : Nat) => leNat ((bs.drop o).take n)
  let w0 := f 0 4
  let t : Tensor := {
    gen := w0 / 2 ^ 20, rank := w0 / 2 ^ 12 % 8, fmt := w0 / 2 ^ 8 % 16, path := w0 / 4 % 64, cls := w0 % 4, scale := f 4 4
    base := f 8 8 % 2 ^ 56, dims := (List.range 5).map fun i => f (16 + 4 * i) 4
    strs := (List.range 5).map fun i => f (36 + 4 * i) 4 }
  let packed := t.fmt == 3 || t.fmt == 5 || t.fmt == 14
  if t.gen = gen ∧ w0.testBit 15 ∧ w0 / 2 ^ 16 % 16 = 0 ∧ 1 ≤ t.rank ∧ t.rank ≤ 5 ∧ t.fmt ≠ 15 ∧ t.cls ≠ 3 ∧ f 15 1 = 0 ∧ f 56 8 = 0 ∧
      ((t.dims.drop t.rank).all (· == 1)) ∧ t.strs.getD 0 0 = (if packed then 0 else fmtBits t.fmt / 8) then some t
  else none

/-- What reading a handle answers. -/
inductive HandleRead where
  | ok (t : Tensor)
  | bad
  | wait
  deriving DecidableEq, Repr

/-- R155, R509: the descriptor of a handle. -/
def readHandle (ctx h : Nat) (s : State) : State × HandleRead :=
  let slot := h % 2 ^ 20
  if slot = 0 ∨ slot ≥ (ctxOf s ctx).tenscount then (s, .bad)
  else
    let va := (ctxOf s ctx).tensbase + 64 * slot
    match devReadVirt ctx va false 3 64 s with
    | (s, .ok bs) => (s, match tensorOf (h / 2 ^ 20) bs with | some t => .ok t | none => .bad)
    | (s, .error r) =>
      let w := devPage ctx (absentVa ctx va 64 s) 4 r s
      if w.2 then (w.1, .wait) else (devForget ctx w.1, .bad)

/-- R155: a handle with the block-scale handle that its descriptor names. R155 asks the same checks of the scale handle; a
scale handle in the scale tensor's own descriptor is not followed further (DESIGN CHOICE, log 44). -/
def readTensor (ctx h : Nat) (s : State) : State × HandleRead × Option Tensor :=
  match readHandle ctx h s with
  | (s, .ok t) =>
    if t.scale = 0 then (s, .ok t, none)
    else
      match readHandle ctx t.scale s with
      | (s, .ok u) => (s, .ok t, some u)
      | (s, r) => (s, r, none)
  | (s, r) => (s, r, none)

/-- How an engine's access can end otherwise than done: it waits for a page, for a link in recovery, or fails (R171,
R175, R179, R232); kinds of failure are those of R233. -/
inductive EngStop where
  | wait (va kind level : Nat)
  | link
  | err (kind va : Nat)
  deriving DecidableEq, Repr

/-- R164, R166, R178, R215, R232: the memory key of a byte that an engine operation of a block accesses through its group's
TLB, under a class bound, with the revisioned page number plus 1, or 0. `strict` holds for a side of CPYP, which in peer
memory needs class 0; where its page is mapped there only after the issue, the access fails (log 44). -/
def engKey (bid cls : Nat) (strict wr : Bool) (va : Nat) (s : State) : State × Except EngStop (Nat × Nat) :=
  let va := va % 2 ^ 56
  let b := blkOf s bid
  match translate (groupPlace b.core) b.ctx (revOf s bid) va (if wr then .write else .read) (if wr then 5 else 4) s with
  | (s, .ok t) =>
    let k := t.pa + va % 4096
    if (isLocal k && decide ((partOf s k).cls < cls)) || (strict && cls != 0 && decide (k ≥ 2 ^ 65)) then (s, .error (.err 6 va))
    else if (linkState s k).recovery.isSome && !(linkState s k).unreachable then (s, .error .link)
    else (s, .ok (k, if t.rev then va / 4096 + 1 else 0))
  | (s, .fault kind l) => (s, .error (.wait va kind l))
  | (s, .trap c) => (s, .error (.err (if c = 8 then 5 else 4) va))

/-- Bytes that an engine read: their number, poison, and whether a host or peer aperture, and an unreachable one, was
met. -/
structure Got where
  val : Nat := 0
  poison : Bool := false
  far : Bool := false
  gone : Bool := false
  deriving DecidableEq, Repr

/-- R198: an engine's read of n bytes at their home slices. Poisoned bytes and bytes of an unreachable peer are zero. -/
def engRead (bid cls : Nat) (strict : Bool) (va : Nat) : Nat → State → State × Except EngStop Got
  | 0, s => (s, .ok {})
  | n + 1, s =>
    match engKey bid cls strict false va s with
    | (s, .error e) => (s, .error e)
    | (s, .ok (k, _)) =>
      let s := touch (k / 32) s
      let gone := (linkState s k).unreachable
      let p := gone || (isLocal k && poisoned s (k / 32))
      match engRead bid cls strict (va + 1) n s with
      | (s, .error e) => (s, .error e)
      | (s, .ok g) => (s, .ok {
          val := (if p then 0 else (readByte s k).toNat) + 256 * g.val, poison := p || g.poison
          far := !isLocal k || g.far, gone := gone || g.gone })

/-- R154, R71, R74: the place of a tensor element, in bits from virtual address 0. -/
def elemPlace (t : Tensor) (idx : List Nat) : Nat :=
  let rows := ((idx.drop 1).zipWith (· * ·) (t.strs.drop 1)).foldl (· + ·) 0
  let packed := t.fmt == 3 || t.fmt == 5 || t.fmt == 14
  8 * (t.base + rows + if packed then 0 else idx.headD 0 * t.strs.headD 0) + if packed then idx.headD 0 * fmtBits t.fmt else 0

/-- An index lies inside a tensor. -/
def insideTensor (t : Tensor) (idx : List Nat) : Bool := (idx.zip t.dims).all fun e => decide (e.1 < e.2)

/-- Reads one element of a tensor. -/
def readElem (bid : Nat) (strict : Bool) (t : Tensor) (idx : List Nat) (s : State) : State × Except EngStop Got :=
  let w := fmtBits t.fmt
  let p := elemPlace t idx
  match engRead bid t.cls strict (p / 8) ((p % 8 + w + 7) / 8) s with
  | (s, .ok g) => (s, .ok { g with val := g.val / 2 ^ (p % 8) % 2 ^ w })
  | r => r

/-- What a stream of elements has come to: what its work has added, the elements so far, whether far or unreachable
memory was met, and why it stopped short. -/
structure Stream where
  fx : Fx := {}
  out : List Elem := []
  far : Bool := false
  gone : Bool := false
  stop : Option EngStop := none
  deriving DecidableEq, Repr

/-- Adds an element that was read. -/
def Stream.push (x : Stream) (code : Nat) (fx : Fx) (g : Got) : Stream :=
  { x with fx := fx, out := x.out ++ [(code, g.poison)], far := x.far || g.far, gone := x.gone || g.gone }

/-- Runs a step over places in stream order, up to the first that stops. -/
def overStream {σ : Type} (f : σ → Stream → State → State × Stream) : List σ → Stream → State → State × Stream
  | [], x, s => (s, x)
  | a :: t, x, s =>
    let r := f a x s
    if r.2.stop.isSome then r else overStream f t r.2 r.1

/-- The flags and saturations of an operation so far, with the generator that it draws from (R217). -/
def fxOf (s : State) (op : CopyOp) : Fx :=
  { fl := op.fl, sat := op.sat, rng := lget 0 op.rngLane (warpOf s op.wk).r.rng }

/-- R217, R244: the draws taken show in the generators of the lane, lead and twin. -/
def putRng (op : CopyOp) (x : Fx) (s : State) : State :=
  modWarp op.wk (fun w => { w with
    r := { w.r with rng := lset 0 op.rngLane x.rng w.r.rng }
    tw := if (blkOf s w.bid).cls = 2 then { w.tw with rng := lset 0 op.rngLane x.rng w.tw.rng } else w.tw }) s

/-- The local address of a tile element's first byte. -/
def elemAddr (g : Geo) (r c : Nat) : Nat := g.base + r * g.pitch + c * tileBits g.fmt / 8

/-- Writes one tile element (R74, R139). -/
def putElem (g : Geo) (r c v : Nat) (b : Block) : Block :=
  let a := elemAddr g r c
  if tileBits g.fmt = 4 then
    let old := leNat (storeBytes b g.sp a 1)
    let new := if c % 2 = 0 then old / 16 * 16 + v % 16 else old % 16 + v % 16 * 16
    storePut g.sp a (leBytes 1 new) b
  else storePut g.sp a (leBytes (tileBits g.fmt / 8) v) b

/-- The elements of a tile in row order (R211). -/
def tileElems (b : Block) (g : Geo) : List Nat := (List.range (g.rows * g.cols)).map fun i => elemAt b g (i / g.cols) (i % g.cols)

/-- Writes elements into a tile in row order. -/
def fillTile (g : Geo) (es : List Nat) (b : Block) : Block :=
  es.zipIdx.foldl (fun b e => if e.2 < g.rows * g.cols then putElem g (e.2 / g.cols) (e.2 % g.cols) e.1 b else b) b

/-- R149: the contents of a tile that a failed copy leaves: free bytes over its range (log 1). -/
def spoilTile (bid t : Nat) (s : State) : State :=
  let g := geoAt (blkOf s bid) t
  (List.range g.extent).foldl (fun s i =>
    let r := freeNat s
    modBlk bid (storePut g.sp (g.base + i) [Config.freeByte r.1]) r.2) s

/-- One element that a copy is to write to global memory: its place in bits, its width and the element. -/
structure GlobalPut where
  place : Nat
  width : Nat
  elem : Elem
  deriving DecidableEq, Repr

/-- The same with the memory keys of its bytes, each with its revisioned page number plus 1, or 0. -/
structure PlacedPut where
  keys : List (Nat × Nat)
  put : GlobalPut
  deriving DecidableEq, Repr

/-- The memory keys of n bytes that an engine is to write. -/
def engKeys (bid cls : Nat) (strict : Bool) (va : Nat) : Nat → State → State × Except EngStop (List (Nat × Nat))
  | 0, s => (s, .ok [])
  | n + 1, s =>
    match engKey bid cls strict true va s with
    | (s, .error e) => (s, .error e)
    | (s, .ok k) =>
      match engKeys bid cls strict (va + 1) n s with
      | (s, .error e) => (s, .error e)
      | (s, .ok t) => (s, .ok (k :: t))

/-- Translates writes in stream order, up to the first that stops. -/
def placePuts (bid cls : Nat) (strict : Bool) : List GlobalPut → State → State × List PlacedPut × Option EngStop
  | [], s => (s, [], none)
  | p :: t, s =>
    match engKeys bid cls strict (p.place / 8) ((p.place % 8 + p.width + 7) / 8) s with
    | (s, .error e) => (s, [], some e)
    | (s, .ok ks) =>
      let r := placePuts bid cls strict t s
      (r.1, { keys := ks, put := p } :: r.2.1, r.2.2)

/-- A byte that a copy leaves in memory: its value, its poison, and its revisioned page number plus 1, or 0. -/
structure PutByte where
  val : Byte
  poison : Bool
  vpn : Nat
  deriving DecidableEq, Repr

/-- The bytes that writes leave, by key. -/
def putBytes (s : State) (ps : List PlacedPut) : SMap PutByte :=
  ps.foldl (fun m p =>
    let old := leNat (p.keys.map fun k => match lfind k.1 m with | some e => e.val | none => readByte s k.1)
    let sh := p.put.place % 8
    let new := old % 2 ^ sh + p.put.elem.1 % 2 ^ p.put.width * 2 ^ sh + old / 2 ^ (sh + p.put.width) * 2 ^ (sh + p.put.width)
    p.keys.zipIdx.foldl (fun m e =>
      lput e.1.1 {
        val := BitVec.ofNat 8 (new / 256 ^ e.2)
        poison := p.put.elem.2 || (match lfind e.1.1 m with | some q => q.poison | none => false)
        vpn := e.1.2 } m) m) []

/-- R178, R187, R194, R198, R231, R255: a copy's release write to bytes of one sector. Poison makes a sector of Assured or Detect
memory poisoned, and has written zeros to Unprotected memory. -/
def engWrite (core ctx : Nat) (x : Staged) (s : State) : State :=
  let st := StampOp.set (some (stampOf s x.wk x.scope))
  let k0 := (x.bytes.headD (0, 0)).1
  if (linkState s k0).unreachable then s
  else
    let s := breakReservation (warpOf s x.wk).bid (k0 / 32) s
    let s := if x.bytes.length = 32 then sliceWrite (32 * (k0 / 32)) (x.bytes.map (·.2)) st s
      else x.bytes.foldl (fun s e => sliceWrite e.1 [e.2] st s) s
    let s := ownSector (k0 / 32) ctx s
    let s := if x.poison && isLocal k0 && (partOf s k0).cls != 0 then modL2 (k0 / 32) (fun e => { e with poison := true }) s else s
    l1Drop core (32 * (k0 / 32)) 32 s

/-- The writes of a copy, sector by sector. Poisoned bytes are zero. -/
def sectorWrites (op : CopyOp) (scope : Nat) (m : SMap PutByte) : List Staged :=
  ((m.map fun e => e.1 / 32).eraseDups).map fun sec =>
    let mine := m.filter fun e => e.1 / 32 == sec
    { op := op.id, wk := op.wk, scope := scope, bytes := mine.map fun e => (e.1, if e.2.poison then 0 else e.2.val)
      poison := mine.any (fun e => e.2.poison), vpn := match mine with | e :: _ => e.2.vpn | [] => 0 }

/-- R231, R255: the lines of Unprotected memory into which poison is written as zero. -/
def zeroedLines (s : State) (ws : List Staged) : Nat :=
  ((ws.filter fun x => x.poison && isLocal (x.bytes.headD (0, 0)).1 && (partOf s (x.bytes.headD (0, 0)).1).cls == 0).map
    fun x => (x.bytes.headD (0, 0)).1 / 128).eraseDups.length

/-- Performs sector writes of one copy of a block, and counts the lines that poison zeroes (R255). -/
def engWrites (core ctx : Nat) (ws : List Staged) (s : State) : State :=
  let s := modCtx ctx (fun c => { c with uecnt := min (c.uecnt + zeroedLines s ws) 0xFFFFFFFF }) s
  ws.foldl (fun s x => engWrite core ctx x s) s

/-- R250: a sector write of an Assured kernel's copy to local memory is staged. -/
def stagedWrite (b : Block) (x : Staged) : Bool := b.cls == 2 && isLocal (x.bytes.headD (0, 0)).1

/-- Performs a copy's global writes, or stages those to local memory in an Assured kernel; more than 64 KiB of uncommitted
and staged data on a core expose the interval (R205, R250). -/
def performPuts (op : CopyOp) (scope : Nat) (ps : List PlacedPut) (s : State) : State :=
  let ws := sectorWrites op scope (putBytes s ps)
  let b := blkOf s op.bid
  let s := modBlk op.bid (fun x => { x with staged := x.staged ++ ws.filter (stagedWrite b) }) s
  let s := if heldSectors s b.core > 2048 then expose op.bid op.wk op.rngLane s else s
  engWrites b.core b.ctx (ws.filter fun x => !stagedWrite b x) s

/-- The bytes of codes of a width, packed from bit 0 upward. -/
def streamBytes (w : Nat) (codes : List Nat) : List Nat :=
  let v := codes.foldr (fun c v => c % 2 ^ w + 2 ^ w * v) 0
  (List.range ((w * codes.length + 7) / 8)).map fun i => v / 256 ^ i % 256

/-- R247: the elements of a copy as they arrive: those that left, with the bytes that an upset has struck on the way. -/
def arrived (op : CopyOp) (w : Nat) (es : List Elem) : List Elem :=
  if op.struck.isEmpty then es
  else
    let bs := (streamBytes w (es.map (·.1))).zipIdx.map fun e => Nat.xor e.1 (lget 0 e.2 op.struck).toNat
    let v := numOf bs
    es.zipIdx.map fun e => (v / 2 ^ (w * e.2) % 2 ^ w, e.1.2)

/-- R247: the CRC-32C of a copy's data as it left differs from that of the data that arrived. -/
def crcDiffers (w : Nat) (es got : List Elem) : Bool :=
  es != got && crc32c (streamBytes w (es.map (·.1))) != crc32c (streamBytes w (got.map (·.1)))

end Sys2Proof.Machine
end

