-- ==== Sys2Proof/Machine/Copy.lean ====
section
/-! DEFINITION. The copy unit: CPYIN, CPYOUT, CPYX, CPYP, HBIND, HSTAT, and the steps of its queues and of the Huller's
cells (R207 to R221, R231 to R234, R401 to R404, R411 to R413, R506, R510). -/

set_option Elab.async false

namespace Sys2Proof.Machine

/-- A copy descriptor (R209). -/
structure CopyDesc where
  w0 : Nat
  tile : Nat
  path : Nat
  queue : Nat
  rel : Bool
  gat : Bool
  pmask : Nat
  rnd : Nat
  sat : Bool
  scope : Nat
  org : List Nat
  w7 : Nat
  deriving DecidableEq, Repr

/-- R209: the fields of the eight words. -/
def copyDesc (ws : List Word) : CopyDesc :=
  let v := (ws.getD 1 0).toNat
  { w0 := (ws.getD 0 0).toNat, tile := v / 2 ^ 26, path := v / 2 ^ 20 % 64, queue := v / 2 ^ 18 % 4, rel := v.testBit 17
    gat := v.testBit 16, pmask := v / 2 ^ 8 % 256, rnd := v / 2 ^ 5 % 8, sat := v.testBit 4, scope := v % 8
    org := ((ws.drop 2).take 5).map (·.toNat), w7 := (ws.getD 7 0).toNat }

/-- The offset of the index list (R209). -/
def CopyDesc.aux (d : CopyDesc) : Nat := d.w7 % 2 ^ 17

/-- R209, R210, check 2, in a pod of p blocks: true where the descriptor passes. -/
def descOk (k : CopyKind) (ws : List Word) (p : Nat) : Bool :=
  let d := copyDesc ws
  let noOrg := d.org.all (· == 0)
  !(ws.getD 1 0).getLsbD 3 && decide (d.rnd ≤ 5) && decide (d.scope ≤ 4) && decide (d.pmask < 2 ^ p) &&
  !(d.gat && (d.pmask != 0 || decide (d.path ≥ 8))) &&
  match k with
  | .cpyin => !d.rel && d.scope == 0 && (if d.gat then decide (d.w7 < 2 ^ 17) else d.w7 == 0)
  | .cpyout => !d.gat && d.pmask == 0 && d.w7 == 0
  | .cpyx => !d.gat && d.pmask == 0 && d.scope == 0 && noOrg && d.w7 == 0 && d.w0 / 2 ^ 11 == 0 && d.w0 / 64 % 4 == 0 &&
      decide (d.w0 / 2 ^ 8 % 8 < p)
  | .cpyp => !d.gat && d.pmask == 0 && !d.rel && d.tile == 0 && noOrg
  | .hbind => true

/-- R216: a path accepts a format pair: from and to, as format codes, with its direction. -/
def pathAccepts (k : CopyKind) (path a b : Nat) : Bool :=
  let log := fun f => f == 0 || f == 1 || f == 2
  let ieee := fun f => f == 6 || f == 7 || f == 8
  let ocp := fun f => f == 9 || f == 10
  match path with
  | 0 => fmtBits a == fmtBits b
  | 1 => (k == .cpyin || k == .cpyp) && ieee a && log b
  | 2 => (k == .cpyout || k == .cpyp) && log a && ieee b
  | 3 => (k == .cpyin || k == .cpyp) && ocp a && log b
  | 4 => (k == .cpyout || k == .cpyp) && log a && ocp b
  | 5 => k == .cpyin && a == 9 && b == 4
  | 6 => k == .cpyin && a == 5 && b == 0
  | 7 => k == .cpyin && a == 3 && b == 0
  | _ => k == .cpyin || k == .cpyout

/-- The blocks of a block's pod with their numbers in it (R27). -/
def podBlocks (s : State) (bid : Nat) : List (Nat × Nat) :=
  let x := blkOf s bid
  let pod := if x.podTag = 0xFFFFF then [bid] else (s.blocks.filter fun e => e.2.podTag == x.podTag).map (·.1)
  sortBy (·.1) (pod.map fun m => ((blkOf s m).pod, m))

/-- The blocks whose tile a copy writes, by sr.pod; none where a named one is not resident (R213, R214). -/
def copyMembers (k : CopyKind) (d : CopyDesc) (bid : Nat) (s : State) : Option (List Nat) :=
  match k with
  | .cpyin =>
    if d.pmask = 0 then some [bid]
    else
      let ms := (podBlocks s bid).filter fun e => d.pmask.testBit e.1
      if ms.length = ((List.range 8).filter fun i => d.pmask.testBit i).length then some (ms.map (·.2)) else none
  | .cpyx => ((podBlocks s bid).find? fun e => e.1 == d.w0 / 2 ^ 8 % 8).map fun e => [e.2]
  | _ => some []

/-- The number of the destination tile. -/
def destTile (k : CopyKind) (d : CopyDesc) : Nat := if k = .cpyx then d.w0 % 64 else d.tile

/-- The fabric context that a block is attached to (R218). -/
def fabOf (s : State) (bid : Nat) : Option (Nat × Fab) := s.fabs.find? fun e => e.2.blocks.contains bid

/-- R210, check 4: the block's bound graph has an entry port for a path. -/
def boundPort (s : State) (bid path : Nat) : Bool :=
  match fabOf s bid with
  | some e => e.2.image.ports.testBit path
  | none => false

/-- An HBIND of the block is in flight (R412). -/
def bindingInFlight (s : State) (bid : Nat) : Bool := s.copies.any fun c => c.bid == bid && c.kind == .hbind

/-- R506: an offset below dim0 is that of a block header of a Kasko stream, found by walking the headers from offset 0; none where
a page must be awaited. -/
def kaskoHeader (bid : Nat) (t : Tensor) (org : Nat) : Nat → Nat → State → State × Except EngStop Bool
  | 0, _, s => (s, .ok false)
  | fuel + 1, pos, s =>
    if pos > org ∨ org ≥ t.dims.headD 0 then (s, .ok false)
    else
      match engRead bid t.cls false (t.base + pos) 8 s with
      | (s, .ok g) =>
        let W := g.val / 2 ^ 48
        if g.poison || g.val % 2 ^ 16 != 0x4B42 || W == 0 then (s, .ok false)
        else if pos = org then (s, .ok true)
        else kaskoHeader bid t org fuel (pos + 20 + 4 * W) s
      | (s, .error e) => (s, .error e)

/-- R506: the walk to org0 of a copy's source, where it is a Kasko stream; true where there is nothing to check. -/
def kaskoCheck (k : CopyKind) (bid : Nat) (src : Tensor) (org : Nat) (s : State) : State × Except EngStop Bool :=
  if k = .cpyin ∧ src.fmt = 14 then kaskoHeader bid src org (org + 1) 0 s else (s, .ok true)

/-- R136, R145, R148: the tile that a copy fills cannot be made ready for it. -/
def destBad (b : Block) (t : Nat) : Bool := !tileKnown b t || (tileAt b t).state == 2 || (geoAt b t).sp == 3

/-- R136, R145, R148: the tile that a copy reads cannot be made ready for it. -/
def sourceBad (b : Block) (t : Nat) : Bool := !tileKnown b t || (tileAt b t).state == 0 || (geoAt b t).sp == 2 || (geoAt b t).sp == 4

/-- R211: the alignment of org0. -/
def orgAligned (t : Tensor) (org0 : Nat) : Bool := (t.fmt != 3 || org0 % 32 == 0) && (t.fmt != 5 || org0 % 4 == 0)

/-- R210, check 5, but for the walk of R506: true where it passes. -/
def tilesPass (k : CopyKind) (d : CopyDesc) (src dst : Tensor) (ms : Option (List Nat)) (bid : Nat) (s : State) : Bool :=
  let b := blkOf s bid
  match k with
  | .cpyin =>
    (match ms with
     | none => false
     | some ms => ms.all fun m => !destBad (blkOf s m) d.tile &&
         pathAccepts k d.path src.fmt (tileFmt (geoAt (blkOf s m) d.tile).fmt) && (d.path != 5 || (geoAt (blkOf s m) d.tile).sp == 4)) &&
    orgAligned src (d.org.headD 0) && (src.fmt != 14 || (d.org.drop 1).all (· == 0))
  | .cpyout => !sourceBad b d.tile && pathAccepts k d.path (tileFmt (geoAt b d.tile).fmt) dst.fmt && orgAligned dst (d.org.headD 0)
  | .cpyx =>
    (match ms with
     | some [m] =>
       let x := blkOf s m
       let t := d.w0 % 64
       let g := geoAt b d.tile
       let h := geoAt x t
       d.path == 0 && !sourceBad b d.tile && !destBad x t && g.fmt == h.fmt && g.rows == h.rows && g.cols == h.cols &&
         !(m == bid && (t == d.tile || (g.sp == h.sp && decide (g.base < h.base + h.extent) && decide (h.base < g.base + g.extent))))
     | _ => false)
  | .cpyp => decide (d.path ≤ 4) && src.rank == dst.rank && src.dims == dst.dims && pathAccepts k d.path src.fmt dst.fmt
  | .hbind => true

/-- The indices of a tensor in stream order, dimension 0 fastest. -/
def tensorPlaces (t : Tensor) : List (Option (List Nat)) :=
  let n := fun i => t.dims.getD i 1
  (List.range (n 0 * n 1 * n 2 * n 3 * n 4)).map fun i =>
    some [i % n 0, i / n 0 % n 1, i / (n 0 * n 1) % n 2, i / (n 0 * n 1 * n 2) % n 3, i / (n 0 * n 1 * n 2 * n 3)]

/-- A context's page tables map an address to peer memory (R178). -/
def mapsPeer (ctx va : Nat) (s : State) : Bool :=
  match (walkPlain ctx (va % 2 ^ 56) s).2 with
  | .leaf x _ _ _ => decide (x.pa ≥ 2 ^ 65)
  | _ => false

/-- R215: a side of CPYP whose descriptor's class is not 0 and of which a byte of an element lies in peer memory, as the tables
stand at the issue (log 44). -/
def peerClassBad (bid : Nat) (t : Tensor) (s : State) : Bool :=
  t.cls != 0 && (tensorPlaces t).any fun p =>
    let e := elemPlace t (p.getD [])
    mapsPeer (blkOf s bid).ctx (e / 8) s || mapsPeer (blkOf s bid).ctx ((e + fmtBits t.fmt - 1) / 8) s

/-- The lowest and the highest byte of a window of a tensor, if any of it lies inside (R199, R211). -/
def windowSpan (t : Tensor) (lo hi : List Nat) : Option (Nat × Nat) :=
  let hi := hi.zipWith min t.dims
  if (lo.zip hi).all fun e => decide (e.1 < e.2) then
    some (elemPlace t lo / 8, (elemPlace t (hi.map (· - 1)) + fmtBits t.fmt + 7) / 8)
  else none

/-- The window of a tile's geometry in a tensor: its lowest index and the one past it. -/
def windowOf (d : CopyDesc) (t : Tensor) (g : Geo) : List Nat × List Nat :=
  let o := fun i => d.org.getD i 0
  if d.gat then ([o 0, 0, o 2, o 3, o 4], [o 0 + g.cols, t.dims.getD 1 1, o 2 + 1, o 3 + 1, o 4 + 1])
  else if t.fmt = 14 then ([o 0, 0, 0, 0, 0], [t.dims.headD 0, 1, 1, 1, 1])
  else ([o 0, o 1, o 2, o 3, o 4], [o 0 + g.cols, o 1 + g.rows, o 2 + 1, o 3 + 1, o 4 + 1])

/-- The range of a span of the context's addresses. -/
def spanRange (s : State) (bid : Nat) (wr : Bool) (x : Option (Nat × Nat)) : List Range :=
  match x with
  | some (lo, hi) => [{ core := (blkOf s bid).core, bid := bid, space := 5, lo := lo, hi := hi, write := wr }]
  | none => []

/-- The scales that a window of a tensor takes on path 7 (R216): the window in the block-scale tensor. -/
def scaleSpan (d : CopyDesc) (u : Tensor) (w : List Nat × List Nat) : Option (Nat × Nat) :=
  if d.path = 7 then windowSpan u (w.1.headD 0 / 32 :: w.1.drop 1) ((w.2.headD 0 + 31) / 32 :: w.2.drop 1) else none

/-- The ranges that a copy locks, its block scales' among them (R199, R212, R213, R216). -/
def copyRanges (k : CopyKind) (d : CopyDesc) (src dst : Tensor) (sc : Option Tensor) (ms : List Nat) (bid : Nat) (s : State) : List Range :=
  let whole := fun (t : Tensor) => windowSpan t [0, 0, 0, 0, 0] t.dims
  match k with
  | .cpyin =>
    let g := geoAt (blkOf s (ms.headD bid)) d.tile
    let w := windowOf d src g
    (ms.map fun m => tileRange s m d.tile true) ++ spanRange s bid false (windowSpan src w.1 w.2) ++
      spanRange s bid false (sc.bind fun u => scaleSpan d u w) ++
      (if d.gat then
        [{ core := (blkOf s bid).core, bid := bid, space := 0, lo := d.aux, hi := d.aux + 4 * g.rows, write := false }] else [])
  | .cpyout =>
    let w := windowOf d dst (geoAt (blkOf s bid) d.tile)
    tileRange s bid d.tile false :: spanRange s bid true (windowSpan dst w.1 w.2)
  | .cpyx => tileRange s bid d.tile false :: ms.map fun m => tileRange s m (d.w0 % 64) true
  | .cpyp => spanRange s bid false (whole src) ++ spanRange s bid true (whole dst)
  | .hbind => []

/-- R207: a copy queue of a core holds 8 operations. -/
def copyFull (s : State) (core queue : Nat) : Bool :=
  decide ((s.copies.filter fun c => c.core == core && c.queue == queue).length ≥ 8)

/-- What holds a copy-queue operation at issue, but for its tiles (R51, R151, R192, R207). -/
def copyHeld (c queue : Nat) (rs : List Range) (s : State) : Bool :=
  copyFull s (curBlk s).core queue || counterFull c s || !entriesFree s rs || rs.any (rangeBlocked s) || !releaseReady (curWarp s)

/-- R125, R148, R149, R210: a tile that a copy names holds it at issue; one that a CPYOUT would release, while it is read. -/
def copyTileHeld (k : CopyKind) (d : CopyDesc) (ms : List Nat) (s : State) : Bool :=
  let src := tileAt (curBlk s) d.tile
  ((k == .cpyout || k == .cpyx) && (tileBusy (curBlk s) d.tile || decide (src.rdcnt ≥ 15))) ||
    (k == .cpyout && d.rel && decide (src.rdcnt > 0)) ||
    ms.any fun m => tileBusy (blkOf s m) (destTile k d)

/-- R148, R149: the tiles of a copy at its issue. -/
def claimCopyTiles (k : CopyKind) (d : CopyDesc) (ms : List Nat) (bid : Nat) (s : State) : State :=
  let s := if k = .cpyout ∨ k = .cpyx then modTile bid d.tile (fun x => { x with state := 3, rdcnt := x.rdcnt + 1 }) s else s
  ms.foldl (fun s m => modTile m (destTile k d) (fun x => { x with state := 1, satcnt := 0, nan := false, err := false }) s) s

/-- Queues a copy-queue operation: its counter, its locks, its place (R51, R199, R207). -/
def queueCopy (c : Nat) (rs : List Range) (op : CopyOp) (s : State) : State :=
  let id := freshId s
  lockRanges id.1 rs (countUp c { id.2 with copies := id.2.copies ++ [{ op with id := id.1 }] })

/-- An operation of the issuing warp. -/
def copyOpOf (k : CopyKind) (c queue : Nat) (s : State) : CopyOp :=
  { id := 0, kind := k, bid := s.iss.bid, wk := s.iss.wk, core := (curBlk s).core, queue := queue, cnt := c, pc := s.iss.pc
    rngLane := lowestLane (active s 0) }

/-- R210, checks 4 to 7, and the holds: the copy issues. -/
def copyIssue (k : CopyKind) (c : Nat) (ws : List Word) (src dst : Tensor) (sc : Option Tensor) (s : State) : Res :=
  let d := copyDesc ws
  let bid := s.iss.bid
  let ms := copyMembers k d bid s
  let rows := (geoAt (blkOf s ((ms.getD []).headD bid)) d.tile).rows
  if d.path ≥ 8 ∧ boundPort s bid d.path = false then .trap s 0x25 0
  else if tilesPass k d src dst ms bid s = false then .trap s 0x0B 0
  else
    match kaskoCheck k bid src (d.org.headD 0) s with
    | (s, .error (.wait va kind l)) => .holdKeep (raiseFault (curBlk s).ctx (revOf s bid) va kind l (groupPlace (curBlk s).core) s).2
    | (_, .error .link) => .hold
    | (s, .error (.err _ _)) => .trap s 0x0B 0
    | (s, .ok false) => .trap s 0x0B 0
    | (s, .ok true) =>
      let ms := ms.getD []
      let rs := copyRanges k d src dst sc ms bid s
      if k = .cpyp ∧ (peerClassBad bid src s || peerClassBad bid dst s) = true then .trap s 0x0B 0
      else if d.gat ∧ d.aux % 4 ≠ 0 then .trap s 0x05 d.aux
      else if d.gat ∧ d.aux + 4 * rows > (curBlk s).alloc.getD 0 0 then .trap s 0x06 d.aux
      else if copyTileHeld k d ms s || copyHeld c d.queue rs s then .hold
      else .next (claimCopyTiles k d ms bid
        (queueCopy c rs { copyOpOf k c d.queue s with desc := ws, src := src, dst := dst, scaleT := sc, members := ms } s))

/-- The body of the four copies (R210, R403). A copy on a bound path is checked once no HBIND of its block is in flight
(R412). -/
def copyBody (k : CopyKind) (q : BitVec 6) (sel : BitVec 1) (s : State) : Res :=
  let c := counterOf sel s
  if active s 0 = 0 then emptyOperation c s
  else
    let ws := (List.range 8).map fun i => readQ s (q.toNat + i)
    let w := fun (i : Nat) => (ws.getD i 0).toNat
    if (copyDesc ws).path ≥ 8 ∧ bindingInFlight s s.iss.bid then .hold
    else if descOk k ws (curGrid s).pkt.pod = false then .trap s 0x01 0
    else if k = .cpyx then copyIssue k c ws {} {} none s
    else
      match readTensor (curBlk s).ctx (w 0) s with
      | (s, .wait, _) => .holdKeep s
      | (s, .bad, _) => .trap s 0x0A (w 0)
      | (s, .ok t, sc) =>
        if k = .cpyin then copyIssue k c ws t {} sc s
        else if k = .cpyout then copyIssue k c ws {} t sc s
        else
          match readTensor (curBlk s).ctx (w 7) s with
          | (s, .wait, _) => .holdKeep s
          | (s, .bad, _) => .trap s 0x0A (w 7)
          | (s, .ok u, _) => copyIssue k c ws t u sc s

/-- R179, R506: the CPYIN at which the lanes of an issue stand waits on a link in recovery for a header of its Kasko stream. -/
def cpyinOnLink (q : BitVec 6) (s : State) : Bool :=
  let ws := (List.range 8).map fun i => readQ s (q.toNat + i)
  match readTensor (curBlk s).ctx (ws.getD 0 0).toNat s with
  | (s, .ok t, _) => (match (kaskoCheck .cpyin s.iss.bid t ((copyDesc ws).org.headD 0) s).2 with | .error .link => true | _ => false)
  | _ => false

/-- CPYIN (R401 to R404). -/
def execCpyin (d : BitVec 6) (sel : BitVec 1) (s : State) : Out State := issue (.cpyin d sel) s (copyBody .cpyin d sel)

/-- CPYOUT (R401 to R404). -/
def execCpyout (d : BitVec 6) (sel : BitVec 1) (s : State) : Out State := issue (.cpyout d sel) s (copyBody .cpyout d sel)

/-- CPYX (R214, R401 to R404). -/
def execCpyx (d : BitVec 6) (sel : BitVec 1) (s : State) : Out State := issue (.cpyx d sel) s (copyBody .cpyx d sel)

/-- CPYP (R215, R401 to R404). -/
def execCpyp (d : BitVec 6) (sel : BitVec 1) (s : State) : Out State := issue (.cpyp d sel) s (copyBody .cpyp d sel)

/-- R199: the global ranges that an HBIND reads: the graph entry, and the image that it names where the entry can be read at the
issue (DESIGN CHOICE, log 44). -/
def bindRanges (bid : Nat) (graph : Option Nat) (s : State) : List Range :=
  let o := (gridOf s (blkOf s bid).gid).obj
  match graph with
  | none => []
  | some idx =>
    if idx ≥ o.ngraphs then []
    else
      let va := o.base + o.graphs + 8 * idx
      spanRange s bid false (some (va, va + 8)) ++
        match (engRead bid 0 false va 8 s).2 with
        | .ok g =>
          let n := g.val / 2 ^ 32
          if g.poison || decide (n < 324) || decide (n > 832) then []
          else spanRange s bid false (some (o.base + g.val % 2 ^ 32, o.base + g.val % 2 ^ 32 + n))
        | .error _ => []

/-- The graph index that an HBIND names; none for HBIND.none (R411). -/
def bindIndex (x : BitVec 6) (n : BitVec 1) (s : State) : Option Nat := if n = 1 then none else some (readQ s x.toNat).toNat

/-- HBIND (R411, R412). -/
def execHbind (x : BitVec 6) (n sel : BitVec 1) (s : State) : Out State :=
  issue (.hbind x n sel) s fun s =>
    let c := counterOf sel s
    let rs := bindRanges s.iss.bid (bindIndex x n s) s
    if active s 0 = 0 then emptyOperation c s
    else if copyHeld c 3 rs s then .hold
    else .next (queueCopy c rs { copyOpOf .hbind c 3 s with graph := bindIndex x n s } s)

/-- The binding word (R413). -/
def bindingWord (s : State) (bid : Nat) : Word :=
  match (blkOf s bid).bind with
  | some i => BitVec.ofNat 32 (2 ^ 31 + ((fabOf s bid).map fun e => e.1 % 4 * 2 ^ 29).getD 0 + i % 2 ^ 16)
  | none => 0

/-- HSTAT (R413). -/
def execHstat (d : BitVec 6) (sel : BitVec 2) (clr : BitVec 1) (s : State) : Out State :=
  issue (.hstat d sel clr) s fun s => uniformly 0 s fun s =>
    if sel.toNat ≥ 2 ∨ (sel = 1 ∧ clr = 1) then .trap s 0x01 0
    else if sel = 1 then .next (writeQ d.toNat (bindingWord s s.iss.bid) s)
    else
      let s1 := writeQ d.toNat (curBlk s).hstat s
      .next (if clr = 1 then modBlk s.iss.bid (fun b => { b with hstat := b.hstat &&& 0x7FFFFFFF }) s1 else s1)

/-- R233: a Huller status word. -/
def hullerWord (kind ctx cell queue : Nat) (mc outside : Bool) (block : Nat) : Word :=
  BitVec.ofNat 32 (2 ^ 31 + ctx % 8 * 2 ^ 28 + cell % 32 * 2 ^ 23 + kind % 16 * 2 ^ 19 + queue % 4 * 2 ^ 17 +
    (if mc then 2 ^ 16 else 0) + (if outside then 2 ^ 15 else 0) + min block 32767)

/-- R233, R413: the first error that a block reports while v is 0. It is written at the end of the cycle, after the cycle's reads
and clears. -/
def reportHuller (bid : Nat) (w : Word) (s : State) : State :=
  modBlk bid (fun b => if b.hstatNew.isSome then b else { b with hstatNew := some w }) s

/-- R233, R413: the Huller status word at the end of a cycle. -/
def settleHuller (b : Block) : Block :=
  match b.hstatNew with
  | none => b
  | some w => { b with hstat := if b.hstat.getLsbD 31 then b.hstat else w, hstatNew := none }

/-- The context number of an operation in its status word. -/
def statusCtx (op : CopyOp) : Nat := match op.fab with | some f => f % 4 | none => 7

/-- The error of a copy outside the cells (R232, R233). -/
def outsideError (op : CopyOp) (status kind addr : Nat) : Nat × Nat × Word :=
  (status, addr, hullerWord kind (statusCtx op) 0 op.queue ((copyDesc op.desc).pmask != 0) true 0)

/-- Replaces an operation of a copy queue. -/
def putCopy (op : CopyOp) (s : State) : State := { s with copies := s.copies.map fun c => if c.id == op.id then op else c }

/-- The head of a copy queue (R208). -/
def copyHead (s : State) (core queue : Nat) : Option CopyOp := s.copies.find? fun c => c.core == core && c.queue == queue

/-- An access of an operation stopped: it waits for a page with a record sent, or for a link (R171, R179). The record
names the group's Huller (R15, R172). -/
def stopCopy (op : CopyOp) (e : EngStop) (s : State) : State :=
  match e with
  | .wait va kind l =>
    let b := blkOf s op.bid
    let r := raiseFault b.ctx (revOf s op.bid) va kind l (groupPlace b.core) s
    putCopy { op with wait := r.1, waitVa := va } r.2
  | _ => s

/-- The rows that a gather reads (R212). -/
def gatherRows (b : Block) (d : CopyDesc) (n : Nat) : List Nat :=
  (List.range n).map fun r => leNat (storeBytes b 0 (d.aux + 4 * r) 4)

/-- The tensor indices of a tile's elements in stream order; none outside the tensor (R211, R212). -/
def windowPlaces (s : State) (op : CopyOp) (t : Tensor) (g : Geo) : List (Option (List Nat)) :=
  let d := copyDesc op.desc
  let o := fun i => d.org.getD i 0
  let rows := if d.gat then gatherRows (blkOf s op.bid) d g.rows else (List.range g.rows).map (o 1 + ·)
  (rows.map fun r => (List.range g.cols).map fun c =>
    let idx := [o 0 + c, r, o 2, o 3, o 4]
    if insideTensor t idx then some idx else none).flatten

/-- R212: the flag of a gather whose index lies beyond the tensor. -/
def gatherFlag (s : State) (op : CopyOp) (g : Geo) : Nat :=
  let d := copyDesc op.desc
  if d.gat && (gatherRows (blkOf s op.bid) d g.rows).any fun r => decide (r ≥ op.src.dims.getD 1 1) then flIV else 0

/-- Reads codes of a tensor along dimension 0 from k on. Slots beyond dim0 read as code 0, an escape's data nibbles among them;
the spec does not say what they read (DESIGN CHOICE, log 44). -/
def readRun (bid : Nat) (t : Tensor) (rest : List Nat) : Nat → Nat → State → State × Except EngStop (Nat × Got)
  | 0, _, s => (s, .ok (0, {}))
  | n + 1, k, s =>
    if insideTensor t (k :: rest) then
      match readElem bid false t (k :: rest) s with
      | (s, .error e) => (s, .error e)
      | (s, .ok g) =>
        match readRun bid t rest n (k + 1) s with
        | (s, .error e) => (s, .error e)
        | (s, .ok r) => (s, .ok (g.val + 16 * r.1,
            { poison := g.poison || r.2.poison, far := g.far || r.2.far, gone := g.gone || r.2.gone }))
    else (s, .ok (0, {}))

/-- The block scale of an I4X element (R216): its code, with IV where it lies outside the scale tensor. -/
def readScale (op : CopyOp) (idx : List Nat) (s : State) : State × Except EngStop (Got × Nat) :=
  match op.scaleT with
  | none => (s, .ok ({}, 0))
  | some u =>
    let k := (idx.headD 0) / 32 :: idx.drop 1
    if insideTensor u k then
      match readElem op.bid false u k s with
      | (s, .ok g) => (s, .ok ({ g with val := g.val % 256 }, 0))
      | (s, .error e) => (s, .error e)
    else (s, .ok ({ val := 0x80 }, flIV))

/-- Path 7 on one element (R77, R216). -/
def pathI4x (op : CopyOp) (idx : List Nat) (x : Stream) (s : State) : State × Stream :=
  let k0 := idx.headD 0 / 32 * 32
  match readRun op.bid op.src (idx.drop 1) 32 k0 s with
  | (s, .error e) => (s, { x with stop := some e })
  | (s, .ok r) =>
    match readScale op idx s with
    | (s, .error e) => (s, { x with stop := some e })
    | (s, .ok sc) =>
      let d := i4xBlock r.1 sc.1.val
      let fx := fxNote false (Nat.lor sc.2 (if d.2 then flIV else 0)) x.fx
      let y := scaleI4x (copyDesc op.desc).sat sc.1.val (d.1.getD (idx.headD 0 - k0) 0x40) fx
      (s, x.push y.1 y.2 { poison := r.2.poison || sc.1.poison, far := r.2.far || sc.1.far, gone := r.2.gone || sc.1.gone })

/-- One source element of a tensor through a fixed path into a format (R211, R216). -/
def pathElem (op : CopyOp) (b : Nat) (p : Option (List Nat)) (x : Stream) (s : State) : State × Stream :=
  let d := copyDesc op.desc
  match p with
  | none => (s, x.push (fmtZero b) x.fx {})
  | some idx =>
    if d.path = 7 then pathI4x op idx x s
    else
      match readElem op.bid (op.kind == .cpyp) op.src idx s with
      | (s, .error e) => (s, { x with stop := some e })
      | (s, .ok g) =>
        let y := if d.path = 0 then (g.val, x.fx) else convElem op.src.fmt b d.rnd d.sat g.val x.fx
        (s, x.push y.1 y.2 g)

/-- R197, R232: an operation leaves its queue: locks freed, flags set, generator, budget of an unreachable peer, error
reported, counter decremented. -/
def endCopy (op : CopyOp) (x : Stream) (err : Option (Nat × Nat × Word)) (s : State) : State :=
  let b := blkOf s op.bid
  let s := if x.far then expose op.bid op.wk op.rngLane s else s
  let s := if x.gone then countUnreachable b.ctx s else s
  let s := putRng op x.fx (setFlags op.bid (BitVec.ofNat 32 x.fx.fl) s)
  let s := match err with | some e => reportHuller op.bid e.2.2 s | none => s
  completeCounter op.wk op.cnt op.pc (err.map fun e => (e.1, e.2.1))
    (freeLocks op.id { s with copies := s.copies.filter fun c => c.id != op.id })

/-- R149, R217: the source tile of a copy at its end. -/
def settleSource (op : CopyOp) (x : Stream) (bad : Bool) (s : State) : State :=
  let d := copyDesc op.desc
  modTile op.bid d.tile (fun t => { t with
    state := if d.rel && !bad then 0 else 2
    rdcnt := t.rdcnt - 1
    err := t.err || bad
    satcnt := min 65535 (t.satcnt + x.fx.sat) }) s

/-- R149, R217, R231: a destination tile at the end of a copy: filled with the elements, poison as zero. -/
def settleDest (op : CopyOp) (m t sat : Nat) (es : List Elem) (s : State) : State :=
  let g := geoAt (blkOf s m) t
  let s := journalAdd m op.wk (tileUnits (blkOf s m) t) s
  let vs := es.map fun e => if e.2 then 0 else e.1
  let nan := op.kind == .cpyin && match logFmt (tileFmt g.fmt) with | some F => vs.any fun v => (lval F v).isNan | none => false
  modTile m t (fun x => { x with state := 2, satcnt := min 65535 (x.satcnt + sat), nan := x.nan || nan }) (modBlk m (fillTile g vs) s)

/-- R149, R217: a destination tile at the end of a copy with error status. -/
def failDest (op : CopyOp) (m t sat : Nat) (s : State) : State :=
  spoilTile m t (modTile m t (fun x => { x with state := 0, err := true, satcnt := min 65535 (x.satcnt + sat) })
    (journalAdd m op.wk (tileUnits (blkOf s m) t) s))

/-- R149, R217, R232: an operation that fills tiles fails, given each member's saturations. -/
def failFill (op : CopyOp) (x : Stream) (sat : Nat → Nat) (e : Nat × Nat × Word) (s : State) : State :=
  let d := copyDesc op.desc
  let s := if op.kind = .cpyx then settleSource op x true s else s
  endCopy op x (some e) (op.members.foldl (fun s m => failDest op m (destTile op.kind d) (sat m) s) s)

/-- The data of a copy into tiles arrives. R231: poison reaches local stores: status 0x20 in an Assured kernel; else zeros,
counted and charged once. R247: a difference of the CRC-32C gives status 0x20 in every kernel. -/
def fillTiles (op : CopyOp) (x : Stream) (sat : Nat → Nat) (parts : List (Nat × List Elem)) (s : State) : State :=
  let d := copyDesc op.desc
  let b := blkOf s op.bid
  let width := fun m => tileBits (geoAt (blkOf s m) (destTile op.kind d)).fmt
  let poison := parts.any fun p => p.2.any (·.2)
  let got := parts.map fun p => (p.1, arrived op (width p.1) p.2)
  if poison && b.cls == 2 then failFill op x sat (outsideError op 0x20 7 0) s
  else if (parts.zip got).any fun p => crcDiffers (width p.1.1) p.1.2 p.2.2 then
    failFill op x sat (outsideError op 0x20 0 0) s
  else
    let parts := got
    let s := if poison then consume b.ctx s else s
    let s := parts.foldl (fun s p => settleDest op p.1 (destTile op.kind d) (sat p.1) p.2 s) s
    endCopy op x none (if op.kind = .cpyx then settleSource op x false s else s)

/-- The shape and format of a tile, which fix its stream. -/
def shapeOf (g : Geo) : Nat × Nat × Nat := (g.rows, g.cols, g.fmt)

/-- The streams of a CPYIN on a fixed path, member by member, each with its saturations; members of one shape share one (R211,
R213, R217). -/
def memberStreams (op : CopyOp) : List Nat → List ((Nat × Nat × Nat) × List Elem × Nat) → List (Nat × List Elem × Nat) → Stream → State →
    State × Stream × List (Nat × List Elem × Nat)
  | [], _, acc, x, s => (s, x, acc)
  | m :: t, seen, acc, x, s =>
    let g := geoAt (blkOf s m) (copyDesc op.desc).tile
    match seen.find? fun e => e.1 == shapeOf g with
    | some e => memberStreams op t seen (acc ++ [(m, e.2)]) x s
    | none =>
      let x := { x with out := [], fx := { x.fx with fl := Nat.lor x.fx.fl (gatherFlag s op g), sat := 0 } }
      let r := overStream (pathElem op (tileFmt g.fmt)) (windowPlaces s op op.src g) x s
      let y := (r.2.out, r.2.fx.sat)
      if r.2.stop.isSome then (r.1, r.2, acc ++ [(m, y)])
      else memberStreams op t (seen ++ [(shapeOf g, y)]) (acc ++ [(m, y)]) r.2 r.1

/-- The saturations of one member. -/
def satOf (parts : List (Nat × List Elem × Nat)) (m : Nat) : Nat := ((parts.find? fun e => e.1 == m).map fun e => e.2.2).getD 0

/-- The state of an operation that has not finished: a wait, a link, or an error (R171, R179, R232). -/
def unfinished (op : CopyOp) (e : EngStop) (s0 : State) (fail : Nat × Nat × Word → State) : State :=
  match e with
  | .err kind va => fail (outsideError op 0x25 kind va)
  | .link => s0
  | .wait .. => stopCopy op e s0

/-- CPYIN on a fixed path completes (R403). -/
def finishIn (op : CopyOp) (s0 : State) : State :=
  let d := copyDesc op.desc
  let g := geoAt (blkOf s0 op.bid) d.tile
  let c := if d.gat then consumeRange op.bid 0 d.aux (4 * g.rows) s0 else (s0, false)
  if c.2 && (blkOf s0 op.bid).cls == 2 then rollback op.bid 0x20 s0
  else
    let r := memberStreams op op.members [] [] { fx := fxOf s0 op } c.1
    match r.2.1.stop with
    | some e => unfinished op e s0 fun w => failFill op r.2.1 (satOf r.2.2) w r.1
    | none => fillTiles op r.2.1 (satOf r.2.2) (r.2.2.map fun e => (e.1, e.2.1)) r.1

/-- Some row of a tensor begins at an offset from lo to below hi: dimensions 1 to 4 with their strides. -/
def rowBegins : List (Nat × Nat) → Nat → Nat → Bool
  | [], lo, hi => lo == 0 && decide (0 < hi)
  | (n, st) :: t, lo, hi =>
    if st = 0 then rowBegins t lo hi
    else (List.range (min n (hi / st + 1))).any fun i => decide (i * st < hi) && rowBegins t (lo - i * st) (hi - i * st)

/-- R71: the padding slots of the last L6 group of the rows that a copy writes, where they hold no bit of an element: R71 speaks of
a tensor's last group, and of several rows each has one (DESIGN CHOICE, log 44). -/
def l6Padding (t : Tensor) (ps : List (Option (List Nat))) : List GlobalPut :=
  let n := t.dims.headD 1
  let top := (n + 3) / 4 * 4
  if t.fmt ≠ 5 ∨ n % 4 = 0 then []
  else
    let rows := ((ps.filterMap fun p => p.bind fun i => if i.headD 0 ≥ n / 4 * 4 then some (i.drop 1) else none)).eraseDups
    let places := (rows.map fun r => (List.range (top - n)).map fun i => elemPlace t ((n + i) :: r)).flatten
    let free := places.filter fun p =>
      let q := p - 8 * t.base
      !rowBegins ((t.dims.zip t.strs).drop 1) (if q < 6 * n then 0 else (q - 6 * n) / 8 + 1) ((q + 5) / 8 + 1)
    free.map fun p => { place := p, width := 6, elem := (0x10, false) }

/-- The writes of elements to places of a tensor, those outside left out (R211). -/
def tensorPuts (t : Tensor) (ps : List (Option (List Nat))) (es : List Elem) : List GlobalPut :=
  l6Padding t (ps.take es.length) ++ (ps.zip es).filterMap fun e => e.1.map fun i => { place := elemPlace t i, width := fmtBits t.fmt, elem := e.2 }

/-- R232: the writes that are performed before an error: a free number of those that precede it (log 1). -/
def somePuts (ps : List PlacedPut) (s : State) : State × List PlacedPut :=
  let r := freeNat s
  (r.2, ps.take ((Config.freeWord r.1).toNat % (ps.length + 1)))

/-- R232, R250: the writes that stay performed when a copy fails: a free number of those that precede the error; staged data
of the copy are dropped. -/
def failPuts (op : CopyOp) (ps : List PlacedPut) (s : State) : State :=
  let direct := ps.filter fun p => (blkOf s op.bid).cls != 2 || p.keys.any fun k => !isLocal k.1
  let q := somePuts direct s
  performPuts op (copyDesc op.desc).scope q.2 q.1

/-- A copy into global memory ends: its writes, then its report (R197, R198, R232). A difference of the CRC-32C is an error
(R247). -/
def finishOut (op : CopyOp) (t : Tensor) (ps : List (Option (List Nat))) (x : Stream) (s0 s : State) : State :=
  let w := fmtBits t.fmt
  let got := arrived op w x.out
  let err := match x.stop, op.err with
    | some (.err kind va), _ => some (outsideError op 0x25 kind va)
    | _, some e => some e
    | _, none => if crcDiffers w x.out got then some (outsideError op 0x20 0 0) else none
  let r := placePuts op.bid t.cls (op.kind == .cpyp) (tensorPuts t ps got) s
  let far := r.2.1.any fun p => p.keys.any fun k => !isLocal k.1
  let gone := r.2.1.any fun p => p.keys.any fun k => (linkState s k.1).unreachable
  let x := { x with far := x.far || far, gone := x.gone || gone }
  let close := fun (err : Option (Nat × Nat × Word)) (s : State) =>
    endCopy op x err (if op.kind = .cpyout then settleSource op x err.isSome s else s)
  let expo := fun s => if x.far then expose op.bid op.wk op.rngLane s else s
  match r.2.2 with
  | some e => unfinished op e s0 fun w => close (some w) (failPuts op r.2.1 (expo r.1))
  | none =>
    match err with
    | some w => close (some w) (failPuts op r.2.1 (expo r.1))
    | none => close none (performPuts op (copyDesc op.desc).scope r.2.1 (expo r.1))

/-- The source tile of a copy that fails as it is read: an Assured block rolls back; else counted and charged, the words
reading as zero (R238, R243, R251, R254). -/
def readSource (op : CopyOp) (s : State) : State × Bool :=
  let g := geoAt (blkOf s op.bid) (copyDesc op.desc).tile
  consumeRange op.bid g.sp g.base g.extent s

/-- CPYOUT on a fixed path completes (R403). Every element of the tile is converted, those outside the tensor too, whose
flags, saturations and draws count (DESIGN CHOICE, log 44). -/
def finishOutFixed (op : CopyOp) (s0 : State) : State :=
  let d := copyDesc op.desc
  let c := readSource op s0
  if c.2 && (blkOf s0 op.bid).cls == 2 then rollback op.bid 0x20 s0
  else
    let b := blkOf s0 op.bid
    let g := geoAt b d.tile
    let x := (tileElems b g).foldl (fun (x : Stream) v =>
      let y := if d.path = 0 then (v, x.fx) else convElem (tileFmt g.fmt) op.dst.fmt d.rnd d.sat v x.fx
      x.push y.1 y.2 {}) { fx := fxOf s0 op }
    finishOut op op.dst (windowPlaces s0 op op.dst g) x s0 c.1

/-- CPYX completes (R214). -/
def finishX (op : CopyOp) (s0 : State) : State :=
  let d := copyDesc op.desc
  let c := readSource op s0
  if c.2 && (blkOf s0 op.bid).cls == 2 then rollback op.bid 0x20 s0
  else
    let b := blkOf s0 op.bid
    let es := (tileElems b (geoAt b d.tile)).map fun v => (v, false)
    fillTiles op { fx := fxOf s0 op } (fun _ => 0) (op.members.map fun m => (m, es)) c.1

/-- CPYP completes (R215). -/
def finishP (op : CopyOp) (s0 : State) : State :=
  let ps := tensorPlaces op.src
  let r := overStream (pathElem op op.dst.fmt) ps { fx := fxOf s0 op } s0
  match r.2.stop with
  | some (.wait va k l) => stopCopy op (.wait va k l) s0
  | some .link => s0
  | _ => finishOut op op.dst ps r.2 s0 r.1

/-- The element widths at the exit: one for each member of a multicast (R510). -/
def exitWidths (s : State) (op : CopyOp) : List Nat :=
  if op.kind = .cpyin then op.members.map fun m => tileBits (geoAt (blkOf s m) (copyDesc op.desc).tile).fmt else [fmtBits op.dst.fmt]

/-- R221, R231: a destination's elements on a bound path, with the error of a short or long stream. -/
def exitElems (op : CopyOp) (w count : Nat) : List Elem × Option (Nat × Nat × Word) :=
  let es := tokensElems w op.out
  if op.err.isSome then (es, op.err)
  else if op.lost then ((es ++ List.replicate (count - es.length) (0, true)).take count, none)
  else if es.length < count then (es, some (outsideError op 0x25 2 0))
  else if es.length > count then (es, some (outsideError op 0x25 3 0))
  else (es, none)

/-- A copy on a bound path completes (R221, R231, R232). -/
def finishBound (op : CopyOp) (s : State) : State :=
  let d := copyDesc op.desc
  let x : Stream := { fx := fxOf s op, gone := op.gone }
  if op.kind = .cpyin then
    let r := op.members.map fun m =>
      let g := geoAt (blkOf s m) d.tile
      (m, exitElems op (tileBits g.fmt) (g.rows * g.cols))
    match r.findSome? fun e => e.2.2 with
    | some e => failFill op x (fun _ => x.fx.sat) e s
    | none => fillTiles op x (fun _ => x.fx.sat) (r.map fun e => (e.1, e.2.1)) s
  else
    let g := geoAt (blkOf s op.bid) d.tile
    let r := exitElems op (fmtBits op.dst.fmt) (g.rows * g.cols)
    finishOut { op with err := r.2 } op.dst (windowPlaces s op op.dst g) { x with out := r.1 } s s

/-- A copy whose stream has reached its end, or which has failed. -/
def copyArrived (op : CopyOp) : Bool := op.fab.isNone || op.outDone || op.err.isSome

/-- COPY_COMPLETE: the head of a queue completes (R197, R208, R403). -/
def execCopyComplete (core queue : Nat) (s : State) : Out State :=
  match copyHead s core queue with
  | none => .next s
  | some op =>
    if !op.started || op.kind == .hbind || !copyArrived op || faultWaits s op.wait then .next s
    else if op.fab.isSome then .next (finishBound op s)
    else
      match op.err, op.kind with
      | some e, .cpyin => .next (failFill op { fx := fxOf s op } (fun _ => 0) e s)
      | some e, .cpyx => .next (failFill op { fx := fxOf s op } (fun _ => 0) e s)
      | some e, k => .next (endCopy op { fx := fxOf s op, gone := op.gone } (some e)
          (if k = .cpyout then settleSource op { fx := fxOf s op } true s else s))
      | none, .cpyin => .next (finishIn op s)
      | none, .cpyout => .next (finishOutFixed op s)
      | none, .cpyx => .next (finishX op s)
      | none, _ => .next (finishP op s)

end Sys2Proof.Machine
end

