-- ==== Sys2Proof/Machine/Fabric.lean ====
section
/-! DEFINITION. The start of a copy, the cells of a bound graph, and the end of a binding (R208, R211, R218 to R222, R231
to R233, R412, R506, R510). -/

set_option Elab.async false

namespace Sys2Proof.Machine

/-- The route that a source feeds (R226). -/
def routeTo (g : Graph) (e : Nat) : Option Nat := (g.routes.find? fun r => r.1 == e).map (·.2)

/-- R220: the entries that the copies of a core group hold in one cell input queue. -/
def entriesAt (s : State) (group e : Nat) : Nat :=
  s.copies.foldl (fun (n : Nat) c => if c.core / 12 = group then n + (lget [] e c.inq).length else n) 0

/-- R220: the queue of an endpoint has room for an entry; the exit always has. -/
def roomAt (s : State) (op : CopyOp) (e : Nat) : Bool := e == 0x80 || decide (entriesAt s (op.core / 12) e < 4)

/-- A source's queue has room. -/
def sourceRoom (s : State) (g : Graph) (op : CopyOp) (e : Nat) : Bool := match routeTo g e with | some d => roomAt s op d | none => true

/-- R221, R231, R510: the exit takes a beat. A token that does not hold whole elements of a destination's width is a format
error there, unless it is poisoned. -/
def exitTake (ws : List Nat) (b : Beat) (op : CopyOp) : CopyOp :=
  let op := b.toks.foldl (fun (op : CopyOp) t =>
    if op.err.isSome then op
    else if !t.poison && ws.any fun w => t.bits % w != 0 then { op with err := some (outsideError op 0x25 1 0) }
    else { op with out := op.out ++ [t] }) op
  { op with outDone := op.outDone || b.fin }

/-- Passes a beat on from a source (R220). -/
def passBeat (g : Graph) (ws : List Nat) (e : Nat) (b : Beat) (op : CopyOp) : CopyOp :=
  if b.toks.isEmpty && !b.fin then op
  else
    match routeTo g e with
    | none => op
    | some d => if d = 0x80 then exitTake ws b op else { op with inq := lput d (lget [] d op.inq ++ [b]) op.inq }

/-- The graph that a bound copy runs through. -/
def graphOf (s : State) (op : CopyOp) : Graph := match op.fab with | some f => (lget {} f s.fabs).image | none => {}

/-- The source format of a bound copy's tokens (R510). -/
def sourceFmt (s : State) (op : CopyOp) : Nat :=
  if op.kind = .cpyin then op.src.fmt else tileFmt (geoAt (blkOf s op.bid) (copyDesc op.desc).tile).fmt

/-- The places that the reader reads of a tensor (R211, R506). -/
def readerPlaces (s : State) (op : CopyOp) : List (Option (List Nat)) :=
  if op.src.fmt = 14 then
    let o := (copyDesc op.desc).org.headD 0
    (List.range (op.src.dims.headD 0 - o)).map fun i => some [o + i, 0, 0, 0, 0]
  else windowPlaces s op op.src (geoAt (blkOf s (op.members.headD op.bid)) (copyDesc op.desc).tile)

/-- The next n source elements of a bound copy (R211, R510). -/
def readBeat (op : CopyOp) (n : Nat) (s : State) : State × Stream :=
  if op.kind = .cpyin then
    overStream (fun p x s => match p with
      | none => (s, x.push (fmtZero op.src.fmt) x.fx {})
      | some i =>
        match readElem op.bid false op.src i s with
        | (s, .ok g) => (s, x.push g.val x.fx g)
        | (s, .error e) => (s, { x with stop := some e })) (((readerPlaces s op).drop op.pos).take n) { fx := fxOf s op } s
  else
    let b := blkOf s op.bid
    let es := ((tileElems b (geoAt b (copyDesc op.desc).tile)).drop op.pos).take n
    (s, { fx := fxOf s op, out := es.map fun v => (v, false) })

/-- The elements of a bound copy's source. -/
def sourceCount (s : State) (op : CopyOp) : Nat :=
  if op.kind = .cpyin then (readerPlaces s op).length
  else let g := geoAt (blkOf s op.bid) (copyDesc op.desc).tile; g.rows * g.cols

/-- An operator has output that it has not passed on. -/
def outputDue (st : OpState) : Bool := !st.q0.isEmpty || !st.q1.isEmpty || (st.fin && !st.sent)

/-- What the reader has passed on has gone through every cell's queues. -/
def pipeIdle (op : CopyOp) : Bool := (op.inq.all fun e => e.2.isEmpty) && !op.ops.any fun e => outputDue e.2

/-- R506: where the block ends that the reader of a Kasko stream is in, read from its header where the reader has reached the next
block: past a header that is poisoned, ENTD reads nothing (R231). -/
def blockAhead (op : CopyOp) (s : State) : State × Except EngStop Nat :=
  let org := (copyDesc op.desc).org.headD 0
  if op.pos < op.ahead then (s, .ok op.ahead)
  else if org + op.ahead + 8 > op.src.dims.headD 0 then (s, .ok (op.src.dims.headD 0 - org))
  else
    match engRead op.bid op.src.cls false (op.src.base + org + op.ahead) 8 s with
    | (s, .ok g) => (s, .ok (op.ahead + if g.poison then 16 else 20 + 4 * (g.val / 2 ^ 48)))
    | (s, .error e) => (s, .error e)

/-- R506, R510: a bound copy reads a Kasko stream. -/
def readsKasko (op : CopyOp) : Bool := op.kind == .cpyin && op.src.fmt == 14

/-- The next beat of a reader: how many elements it takes (R220, R510), and where the block that it is in ends. A beat of a Kasko
stream ends with the token that holds the block's last byte (R506; log 44). -/
def nextBeat (op : CopyOp) (w : Nat) (s : State) : State × Except EngStop (Nat × Nat) :=
  if readsKasko op then
    match blockAhead op s with
    | (s, .ok a) => (s, .ok (min 256 ((a - op.pos + 7) / 8 * 8), a))
    | (s, .error e) => (s, .error e)
  else (s, .ok (32 * (64 / w), 0))

/-- R220, R232: the reader of an entry port takes beats while the queue ahead has room, until its source or an error ends it.
A page or a link that it must wait for stops it. It goes on to the next block of a Kasko stream when the cells have worked on
the one before: a block that follows an error is never read (R506). Once ENTD has lost the framing it reads nothing more, and
passes the stream's end on (R231). -/
def pumpReader (id : Nat) : Nat → State → State
  | 0, s => s
  | fuel + 1, s =>
    match s.copies.find? fun c => c.id == id with
    | none => s
    | some op =>
      let g := graphOf s op
      let e := 0x40 + (copyDesc op.desc).path
      let fail := fun (x : EngStop) (t : State) => match x with
        | .wait va k l => stopCopy op (.wait va k l) s
        | .link => s
        | .err kind va => putCopy { op with err := some (outsideError op 0x25 kind va) } t
      if !op.started || op.fab.isNone || op.fed || op.err.isSome || faultWaits s op.wait || !sourceRoom s g op e then s
      else if op.lost then putCopy (passBeat g (exitWidths s op) e { toks := [], fin := true } { op with fed := true }) s
      else if readsKasko op && decide (op.ahead ≤ op.pos) && !pipeIdle op then s
      else
        let w := fmtBits (sourceFmt s op)
        match nextBeat op w s with
        | (t, .error x) => fail x t
        | (t, .ok (m, ahead)) =>
          let r := readBeat op m t
          match r.2.stop with
          | some x => fail x r.1
          | none =>
            let s := if r.2.far then expose op.bid op.wk op.rngLane r.1 else r.1
            let n := op.pos + r.2.out.length
            let fin := decide (n ≥ sourceCount s op)
            let ts := (packElems w true (r.2.out.length + 1) r.2.out).1
            pumpReader id fuel (putCopy (passBeat g (exitWidths s op) e { toks := ts, fin := fin }
              { op with pos := n, ahead := ahead, fed := fin, gone := op.gone || r.2.gone }) s)

/-- The reader of one copy. -/
def pumpCopy (op : CopyOp) (s : State) : State := pumpReader op.id (sourceCount s op + 2) s

/-- The readers of every bound copy. -/
def pumpAll (s : State) : State := (s.copies.filter fun c => c.started && c.fab.isSome && !c.fed).foldl (fun s c => pumpCopy c s) s

/-- The operators that a copy's tokens can reach, before any token (R222). An input that no token of the copy can reach, since only
another entry port feeds it, counts as ended from the start (DESIGN CHOICE, log 44). -/
def freshOps (g : Graph) (path : Nat) : SMap OpState :=
  let ins := portInputs g path
  (g.cells.filter fun e => ins.contains e.1 || ins.contains (0x20 + e.1)).map fun e =>
    (e.1, { done0 := !ins.contains e.1, done1 := !ins.contains (0x20 + e.1), acc := if e.2.op = 5 then 0xFFFFFFFF else 0 })

/-- R412: an HBIND may begin: no copy of its block on a bound path is left. -/
def hbindMayStart (s : State) (op : CopyOp) : Bool :=
  !(s.copies.any fun c => c.bid == op.bid && (c.kind == .cpyin || c.kind == .cpyout) && decide ((copyDesc c.desc).path ≥ 8))

/-- R218: a block gives up its attachment. -/
def detachFab (bid : Nat) (s : State) : State :=
  { s with fabs := lmap (fun _ f => { f with blocks := f.blocks.filter fun x => x != bid }) s.fabs }

/-- A bound copy starts: its reader begins to take the source (R510). -/
def startBound (op : CopyOp) (s0 : State) : State :=
  let c := if op.kind = .cpyout then readSource op s0 else (s0, false)
  if c.2 && (blkOf s0 op.bid).cls == 2 then rollback op.bid 0x20 s0
  else
    let fab := (fabOf s0 op.bid).map (·.1)
    let op := { op with started := true, fab := fab }
    let op := { op with ops := freshOps (graphOf c.1 op) (copyDesc op.desc).path }
    pumpCopy op (putCopy op c.1)

/-- COPY_START: the head of a queue starts (R208, R412, R510). -/
def execCopyStart (core queue : Nat) (s : State) : Out State :=
  match copyHead s core queue with
  | none => .next s
  | some op =>
    if op.started || faultWaits s op.wait then .next s
    else
      match op.kind with
      | .hbind =>
        if op.auto then .next (putCopy { op with started := true } s)
        else if hbindMayStart s op then
          .next (putCopy { op with started := true } (modBlk op.bid (fun b => { b with bind := none }) (detachFab op.bid s)))
        else .next s
      | .cpyx => .next (putCopy { op with started := true } s)
      | .cpyp => .next (putCopy { op with started := true } s)
      | _ => if (copyDesc op.desc).path < 8 then .next (putCopy { op with started := true } s) else .next (startBound op s)

/-- R220: every queue that a cell's outputs feed has room. -/
def outputRoom (s : State) (g : Graph) (op : CopyOp) (cell : Nat) (c : Cell) : Bool :=
  sourceRoom s g op cell && (!usesSecond c || sourceRoom s g op (0x20 + cell))

/-- Passes one beat on from each output of a cell. -/
def passOutput (g : Graph) (ws : List Nat) (cell : Nat) (c : Cell) (st : OpState) (op : CopyOp) : CopyOp :=
  let r0 := st.q0.drop 32
  let r1 := st.q1.drop 32
  let fin := st.fin && !st.sent && r0.isEmpty && r1.isEmpty
  let op := passBeat g ws cell { toks := st.q0.take 32, fin := fin } op
  let op := if usesSecond c then passBeat g ws (0x20 + cell) { toks := st.q1.take 32, fin := fin } op else op
  { op with ops := lput cell { st with q0 := r0, q1 := r1, sent := st.sent || fin } op.ops }

/-- A cell's input queue of a copy holds an entry. -/
def holdsBeat (op : CopyOp) (e : Nat) : Bool := !(lget [] e op.inq).isEmpty

/-- The virtual address of a place in a copy's source stream, in bytes (R232). -/
def streamAddr (s : State) (op : CopyOp) (pos : Nat) : Nat :=
  if op.kind = .cpyin then
    match (readerPlaces s op)[8 * pos / fmtBits op.src.fmt]? with
    | some (some i) => (elemPlace op.src i + 8 * pos % fmtBits op.src.fmt) / 8
    | _ => 0
  else 0

/-- The error of a cell (R233). -/
def cellError (op : CopyOp) (cell kind addr block : Nat) : Nat × Nat × Word :=
  (0x25, addr, hullerWord kind (statusCtx op) cell op.queue ((copyDesc op.desc).pmask != 0) false block)

/-- A cell that has failed passes on what it has emitted, and takes nothing more (R230, R232). -/
def failedState (st : OpState) : OpState :=
  { st with t0 := [], t1 := [], e0 := [], e1 := [], done0 := true, done1 := true, fin := true, sent := true }

/-- GATHR: the rows that indices name, each row's elements packed on their own (R222). In dimensions 2 to 4 a row stands at the
descriptor's org2 to org4 (DESIGN CHOICE, log 44). -/
def gatherStream (op : CopyOp) (t : Tensor) (es : List Elem) (x : Stream) (s : State) : State × Stream × List Token :=
  es.foldl (fun (r : State × Stream × List Token) e =>
    if r.2.1.stop.isSome then r
    else
      let d := copyDesc op.desc
      let n := t.dims.headD 0
      let w := fmtBits t.fmt
      if e.1 ≥ t.dims.getD 1 1 then
        let zs := List.replicate n (fmtZero t.fmt, e.2)
        (r.1, { r.2.1 with fx := fxNote false flIV r.2.1.fx }, r.2.2 ++ (packElems w true (n + 1) zs).1)
      else
        let q := overStream (fun k x s =>
          match readElem op.bid false t [k, e.1, d.org.getD 2 0, d.org.getD 3 0, d.org.getD 4 0] s with
          | (s, .ok g) => (s, x.push g.val x.fx { g with poison := g.poison || e.2 })
          | (s, .error y) => (s, { x with stop := some y })) (List.range n) { r.2.1 with out := [] } r.1
        (q.1, q.2, r.2.2 ++ (packElems w true (n + 1) q.2.out).1)) (s, x, [])

/-- What a cell's work on a beat leaves: the operation, and the state; the reader goes on. -/
def settleFire (op : CopyOp) (fx : Fx) (s : State) : State :=
  pumpCopy op (putRng op fx (putCopy { op with fl := fx.fl, sat := fx.sat } s))

/-- GATHR takes a beat of indices (R222). -/
def fireGather (op : CopyOp) (cell : Nat) (st : OpState) (es : List Elem) (s0 : State) : State :=
  let t := if op.kind = .cpyin then op.src else op.dst
  let r := gatherStream op t es { fx := fxOf s0 op } s0
  match r.2.1.stop with
  | some (.wait va k l) => stopCopy ((s0.copies.find? fun c => c.id == op.id).getD op) (.wait va k l) s0
  | some .link => s0
  | some (.err kind va) =>
    let st := failedState { st with q0 := st.q0 ++ r.2.2 }
    settleFire { op with ops := lput cell st op.ops, err := if op.err.isSome then op.err else some (cellError op cell kind va 0) }
      r.2.1.fx r.1
  | none =>
    let s := if r.2.1.far then expose op.bid op.wk op.rngLane r.1 else r.1
    let st := { st with q0 := st.q0 ++ r.2.2, fin := st.done0 && st.done1 }
    settleFire { op with ops := lput cell st op.ops, gone := op.gone || r.2.1.gone } r.2.1.fx s

/-- A cell takes a beat, or finds that its inputs have ended (R220, R222, R230, R231). One whose output is complete discards
what is left on its inputs. ENTD's loss of the framing stops the reader. An error that no access and no Kasko block has names address
0 (R232, R304). -/
def fireCell (op : CopyOp) (cell : Nat) (c : Cell) (st : OpState) (second : Bool) (b : Beat) (s : State) : State :=
  let st := if second then { st with done1 := st.done1 || b.fin } else { st with done0 := st.done0 || b.fin }
  let e := if second then 0x20 + cell else cell
  let op' := { op with inq := lset [] e ((lget [] e op.inq).drop 1) op.inq }
  if st.fin then putCopy op' s
  else if c.op = 7 then fireGather op' cell st (if second then tokensElems 32 b.toks else []) s
  else
    let r := runOp c second b.toks { st := st, fx := fxOf s op }
    match r.err with
    | none => settleFire { op' with ops := lput cell r.st op'.ops, lost := op'.lost || r.lost } r.fx s
    | some (kind, block, pos) =>
      let addr := if c.op = 4 then streamAddr s op pos else 0
      settleFire { op' with
        ops := lput cell (failedState r.st) op'.ops
        err := if op'.err.isSome then op'.err else some (cellError op cell kind addr block) } r.fx s

/-- What a cell would do next: pass output on, take a beat of an input, or see that its inputs have ended. -/
inductive Fire where
  | none
  | pass
  | take (second : Bool)
  | close
  deriving DecidableEq, Repr

/-- R220, R232: the next work of a cell for a copy. It fires only where every queue that its outputs feed has room; after an error
GATHR reads no more. -/
def nextFire (s : State) (g : Graph) (op : CopyOp) (cell : Nat) : Fire :=
  match lfind cell g.cells, lfind cell op.ops with
  | some c, some st =>
    if outputDue st then (if outputRoom s g op cell c then .pass else .none)
    else if st.fin then (if holdsBeat op cell then .take false else if holdsBeat op (0x20 + cell) then .take true else .none)
    else if (c.op = 7 ∧ (faultWaits s op.wait || op.err.isSome) = true) ∨ outputRoom s g op cell c = false then .none
    else
      match wantInput c st (holdsBeat op cell) (holdsBeat op (0x20 + cell)) with
      | some b => .take b
      | none => if st.done0 && (st.done1 || !needsSecond c) then .close else .none
  | _, _ => .none

/-- R220: the contexts of a core group for which a cell has work ready. -/
def readyContexts (s : State) (group cell : Nat) : List Nat :=
  s.copies.filterMap fun c =>
    match c.fab with
    | some f => if c.started && c.core / 12 == group && nextFire s (graphOf s c) c cell != .none then some (f % 4) else none
    | none => none

/-- R220: the context whose turn it is at a cell, round-robin from the one that it last served. -/
def turnOf (s : State) (group cell : Nat) : Option Nat :=
  let last := lget 3 (32 * group + cell) s.served
  let ready := readyContexts s group cell
  ((List.range 4).map fun i => (last + 1 + i) % 4).find? fun x => ready.contains x

/-- HULLER_CELL_FIRE: a cell processes one beat of a copy of the context whose turn it is (R220 to R222). -/
def execHullerCellFire (id cell : Nat) (s : State) : Out State :=
  match s.copies.find? fun c => c.id == id with
  | none => .next s
  | some op =>
    let group := op.core / 12
    if !op.started || op.fab.isNone || turnOf s group cell != op.fab.map (· % 4) then .next s
    else
      let g := graphOf s op
      let t := { s with served := lset 3 (32 * group + cell) (op.fab.getD 0 % 4) s.served }
      match nextFire s g op cell, lfind cell g.cells, lfind cell op.ops with
      | .pass, some c, some st =>
        let op := passOutput g (exitWidths s op) cell c st op
        .next (settleFire op (fxOf s op) t)
      | .take b, some c, some st =>
        .next (fireCell op cell c st b ((lget [] (if b then 0x20 + cell else cell) op.inq).headD {}) t)
      | .close, some c, some st => .next (fireCell op cell c st false { fin := true } t)
      | _, _, _ => .next s

/-- An HBIND ends (R412). One that no instruction issued has no counter; where it fails, the block holds no binding, and only
the Huller status word tells (log 30). -/
def endHbind (op : CopyOp) (err : Option (Nat × Nat × Word)) (s : State) : State :=
  let s := match err with
    | some e => modBlk op.bid (fun b => { b with bind := none }) (reportHuller op.bid e.2.2 s)
    | none => s
  let s := freeLocks op.id { s with copies := s.copies.filter fun c => c.id != op.id }
  if op.auto then s else completeCounter op.wk op.cnt op.pc (err.map fun e => (e.1, e.2.1)) s

/-- An HBIND fails (R412, R233). Where no access failed, no rule names an address, and it is 0 (R304). -/
def failHbind (op : CopyOp) (status kind : Nat) (addr : Option Nat) (s : State) : State :=
  endHbind op (some (status, addr.getD 0, hullerWord kind 7 0 3 false true 0)) s

/-- Attaches a block to a context. -/
def attachFab (bid idx f : Nat) (image : Option Graph) (s : State) : State :=
  let b := blkOf s bid
  let x := lget {} f s.fabs
  let x : Fab := match image with
    | some g => { ctx := b.ctx, object := (gridOf s b.gid).pkt.object, graph := idx, image := g, blocks := [bid] }
    | none => { x with blocks := x.blocks ++ [bid] }
  modBlk bid (fun b => { b with bind := some idx }) { s with fabs := lput f x s.fabs }

/-- What the Huller reads of an image: its bytes, or why it stopped. -/
def readImage (bid idx : Nat) (s : State) : State × Except EngStop (Option (List Nat) × Bool) :=
  let o := (gridOf s (blkOf s bid).gid).obj
  match engRead bid 0 false (o.base + o.graphs + 8 * idx) 8 s with
  | (s, .error e) => (s, .error e)
  | (s, .ok g) =>
    let n := g.val / 2 ^ 32
    if g.poison then (s, .ok (none, true))
    else if n < 324 ∨ n > 832 then (s, .ok (none, false))
    else
      match engRead bid 0 false (o.base + g.val % 2 ^ 32) n s with
      | (s, .error e) => (s, .error e)
      | (s, .ok h) => (s, .ok (some ((List.range n).map fun i => h.val / 256 ^ i % 256), h.poison))

/-- An HBIND loads its image into a free context (R218, R227, R412). -/
def loadImage (op : CopyOp) (idx f : Nat) (s0 : State) : State :=
  match readImage op.bid idx s0 with
  | (_, .error (.wait va k l)) => stopCopy op (.wait va k l) s0
  | (_, .error .link) => s0
  | (s, .error (.err kind va)) => failHbind op 0x25 kind (some va) s
  | (s, .ok (_, true)) =>
    if (blkOf s op.bid).cls = 2 then failHbind op 0x20 7 none s
    else failHbind op 0x25 7 none (consume (blkOf s op.bid).ctx s)
  | (s, .ok (none, false)) => failHbind op 0x25 1 none s
  | (s, .ok (some bs, false)) =>
    match parseGraph bs with
    | some g => endHbind op none (attachFab op.bid idx f (some g) s)
    | none => failHbind op 0x25 1 none s

/-- HBIND_COMPLETE: the head of queue 3 binds its image, or fails (R218, R227, R412). -/
def execHbindComplete (core : Nat) (s : State) : Out State :=
  match copyHead s core 3 with
  | none => .next s
  | some op =>
    if op.kind ≠ .hbind ∨ op.started = false ∨ faultWaits s op.wait = true then .next s
    else
      match op.err, op.graph with
      | some e, _ => .next (endHbind op (some e) s)
      | none, none => .next (endHbind op none s)
      | none, some idx =>
        if idx ≥ (gridOf s (blkOf s op.bid).gid).obj.ngraphs then .next (failHbind op 0x25 1 none s)
        else
          match sameImage s op.bid idx, freeFab s op.core with
          | some f, _ => .next (endHbind op none (attachFab op.bid idx f none s))
          | none, some f => .next (loadImage op idx f s)
          | none, none => .next (returnBinds core s)

end Sys2Proof.Machine
end

