-- ==== Sys2Proof/Machine/Issue.lean ====
section
/-! DEFINITION. Fetching and entering clauses, readiness, and the choice of warp and bundle (R35 to R39, R45, R50, R54,
R298, R314, R316, R333 to R340, R349, R511). -/

set_option Elab.async false

namespace Sys2Proof.Machine

/-- The virtual address of offset 0 of a grid's text (R314). -/
def textBase (g : Grid) : Nat := g.obj.base + g.obj.text

/-- What the fetch of one word finds (R511). -/
inductive Fetch where
  | word (w : Word)
  | trap (cause addr : Nat)
  | wait (kind va level : Nat)
  /-- a write of the block to the word is not at its home slice yet (R200) -/
  | later
  deriving DecidableEq, Repr

/-- The key of an instruction-cache word (R316). -/
def icacheKey (core ctx va : Nat) : Nat := (core * 64 + ctx) * 2 ^ 56 + va

/-- R200, R204: a write of some blocks to a word of code that is on its way to its home slice: a store or reduction in flight, or
an entry of the side log. -/
def codePending (s : State) (who : Nat → Bool) (k va : Nat) : Bool :=
  (s.stores.any fun t => who t.bid && !t.wb && t.accs.any fun a => paSector a == some (k / 32)) ||
    s.side.any fun e => who e.bid && e.accs.any fun a => a.va / 32 == va / 32

/-- A block has uncommitted bytes in a word. -/
def codeOwn (x : Block) (k : Nat) : Bool := (List.range 4).any fun i => (lfind (k + i) x.uncommitted).isSome

/-- Reads a word of code as a block sees it: at its home slice, with the block's uncommitted bytes (R200, R204). A poisoned
sector yields a free word: the spec gives its fetch no result (log 20). -/
def codeWord (bid k : Nat) (s : State) : State × Word :=
  let s := touch (k / 32) s
  if poisoned s (k / 32) then
    let r := freeNat s
    (r.2, Config.freeWord r.1)
  else (s, BitVec.ofNat 32 (leNat (blockBytes s bid k 4)))

/-- R316: the core's instruction cache takes a word that every write of the core's blocks has reached (R200). -/
def cacheCode (core ctx va k : Nat) (w : Word) (s : State) : State :=
  if codePending s (fun b => (blkOf s b).core == core) k va || s.blocks.any fun e => e.2.core == core && codeOwn e.2 k then s
  else { s with icache := lput (icacheKey core ctx va) w s.icache }

/-- R314, R316, R199, R200, R511: fetches the word at an offset of a block's text. A write of the block that the word awaits
holds the fetch: an IFENCE may have ordered it before (log 20). -/
def fetchWord (bid : Nat) (off : Word) (s : State) : State × Fetch :=
  let b := blkOf s bid
  let g := gridOf s b.gid
  let va := textBase g + off.toNat
  if off.toNat ≥ g.obj.textLen then (s, .trap 0x06 off.toNat)
  else if lockHit s bid 5 va (va + 4) then (s, .trap 0x09 off.toNat)
  else
    match (if b.uncommitted.isEmpty then lfind (icacheKey b.core b.ctx va) s.icache else none) with
    | some w => (s, .word w)
    | none =>
      match translate b.core b.ctx (revOf s bid) va .fetch 3 s with
      | (s, .ok t) =>
        let k := t.pa + va % 4096
        if isLocal t.pa = false then (s, .trap 0x08 va)
        else if codePending s (· == bid) k va then (s, .later)
        else
          let r := codeWord bid k s
          (cacheCode b.core b.ctx va k r.2 r.1, .word r.2)
      | (s, .fault k l) => (s, .wait k va l)
      | (s, .trap c) => (s, .trap c va)

/-- Fetches words in order up to the first that fails. -/
def fetchWords (bid : Nat) : List Word → State → State × SMap Word × Option Fetch
  | [], s => (s, [], none)
  | o :: t, s =>
    match fetchWord bid o s with
    | (s, .word w) =>
      let r := fetchWords bid t s
      (r.1, lput o.toNat w r.2.1, r.2.2)
    | (s, f) => (s, [], some f)

/-- Offsets of n words from one on. -/
def offsets (o : Word) (n : Nat) : List Word := (List.range n).map fun i => o + BitVec.ofNat 32 (4 * i)

/-- R49: the classes of a role. -/
def rolePermits (role : Nat) (cl : EngClass) : Bool :=
  match role with
  | 0 => cl == .c || cl == .k
  | 1 => cl == .x || cl == .k
  | 2 => cl == .v || cl == .m || cl == .k
  | _ => true

/-- R336, checks 6 to 8, on slot i of a clause: true where the clause is illegal. -/
def slotBad (h : Header) (i : Nat) (w : Word) : Bool :=
  let op := opByte w
  let last := i + 1 == h.count.toNat
  if opPrefix op then false
  else
    match opClass op with
    | none => false
    | some e => (some e != classOf h.cls && !opUniform op && !(opBranch op && last)) || (opBranch op && !last) ||
        (opLong op && (if w.getLsbD 0 then h.cntB else h.cntA) == 15)

/-- R336, checks 1 to 4. -/
def headerBad (h : Header) : Bool :=
  h.sig != 5 || h.count == 0 || (classOf h.cls).isNone || (decide (12 ≤ h.cntA.toNat) && h.cntA != 15) ||
    (decide (12 ≤ h.cntB.toNat) && h.cntB != 15)

/-- What the next issue of a group of lanes would be. -/
inductive Prep where
  | notReady
  | wait (kind va level : Nat)
  | trap (cause addr : Nat) (tpc : Word) (cl : Option (Word × Word))
  | counter (c : Nat)
  | go (iss : Iss) (i : Instr)
  /-- the twin's next entry of the trace (R244) -/
  | follow (e : TraceEnt)
  deriving DecidableEq, Repr

/-- The word of an instruction with the high bits of its register fields cleared, for check 2 of R339 before check 3. -/
def registerBits (w : Word) : Word :=
  match opByte w with
  | 0x2D => w &&& ~~~ 0x01C380#32
  | 0x38 => w &&& ~~~ 0x800000#32
  | 0x39 => w &&& ~~~ 0x010000#32
  | 0x84 => w &&& ~~~ 0x810000#32
  | _ => w

/-- R339, R340, R349: the instruction at an offset inside a clause whose words are given. -/
def instrAt (core bid wk : Nat) (lanes hoff hdr pc : Word) (words : SMap Word) : Prep :=
  let fin := hoff + BitVec.ofNat 32 (4 * ((headerOf hdr).count.toNat + 1))
  let w0 := lget 0 pc.toNat words
  let has := opPrefix (opByte w0)
  let w := if has then lget 0 (pc + 4#32).toNat words else w0
  let nx := if has then pc + 8#32 else pc + 4#32
  let bad := fun c => Prep.trap c 0 pc (some (hoff, hdr))
  if has && (pc + 4#32 == fin || opPrefix (opByte w) || !pfxLegal w0) then bad 0x01
  else
    match decodeWord w with
    | .ok i => .go {
        live := true, core := core, bid := bid, wk := wk, lanes := lanes, pc := pc, next := nx, hnext := fin,
        hoff := hoff, hdr := hdr, last := nx == fin, pfx := if has then w0 else 0, hasPfx := has } i
    | .error .register =>
      match decodeWord (registerBits w) with
      | .ok i => bad (if honoured (if has then pfxOf w0 else Pfx.none) has i then 0x03 else 0x01)
      | .error _ => bad 0x01
    | .error _ => bad 0x01

/-- The lowest counter of a wait mask that satisfies a condition. -/
def waitFind (m : BitVec 12) (f : Nat → Bool) : Option Nat := (List.range 12).find? fun c => m.getLsbD c && f c

/-- R35, R50, R52, R54, R336, R511: a group of lanes enters the clause at its program counter. The checks of the
header come first; then the wait mask; then the fetch of the slots and their checks (log 21). -/
def enterClause (wk : Nat) (lanes pc : Word) (s : State) : State × Prep :=
  let w := warpOf s wk
  let core := (blkOf s w.bid).core
  match fetchWord w.bid pc s with
  | (s, .later) => (s, .notReady)
  | (s, .wait k va l) => (s, .wait k va l)
  | (s, .trap c a) => (s, .trap c a pc none)
  | (s, .word hdr) =>
    let h := headerOf hdr
    if headerBad h then (s, .trap 0x02 0 pc none)
    else if !(match classOf h.cls with | some e => rolePermits w.role e | none => false) then (s, .trap 0x04 0 pc none)
    else
      match waitFind h.wait (fun c => (lfind c w.cerr).isSome) with
      | some c => (s, .counter c)
      | none =>
        if (waitFind h.wait fun c => lget 0 c w.cntSeen != 0).isSome then (s, .notReady)
        else
          let s := (List.range 12).foldl (fun s c => if h.wait.getLsbD c then observeJoin wk c s else s) s
          match fetchWords w.bid (offsets (pc + 4#32) h.count.toNat) s with
          | (s, _, some (.trap c a)) => (s, .trap c a pc none)
          | (s, _, some (.wait k va l)) => (s, .wait k va l)
          | (s, _, some .later) => (s, .notReady)
          | (s, words, _) =>
            if (List.range h.count.toNat).any fun i => slotBad h i (lget 0 (pc + BitVec.ofNat 32 (4 * (i + 1))).toNat words) then
              (s, .trap 0x02 0 pc none)
            else
              let s := modWarp wk (fun w => { w with fetched := words.foldl (fun m e => lput e.1 e.2 m) w.fetched }) s
              (s, instrAt core w.bid wk lanes pc hdr (pc + 4#32) words)

/-- R511: the lanes of a group inside a clause that fetch the rest of it: those that a trap return has put there, or all where
the warp holds its words no more. -/
def fetchLanes (w : Warp) (lanes pc hoff hdr : Word) : Word :=
  let n := (headerOf hdr).count.toNat + 1 - (pc - hoff).toNat / 4
  if (offsets pc n).all fun o => (lfind o.toNat w.fetched).isSome then
    laneSet ((w.lanes.filter fun e => lanes.getLsbD e.1 && e.2.refetch).map fun e => e.1)
  else lanes

/-- R511: a group of lanes stands inside a clause. Lanes that resume there fetch the words from the counter to the end of
the clause. -/
def insideClause (wk : Nat) (lanes pc hoff hdr : Word) (s : State) : State × Prep :=
  let w := warpOf s wk
  let core := (blkOf s w.bid).core
  let n := (headerOf hdr).count.toNat + 1 - (pc - hoff).toNat / 4
  if fetchLanes w lanes pc hoff hdr = 0 then (s, instrAt core w.bid wk lanes hoff hdr pc w.fetched)
  else
    match fetchWords w.bid (offsets pc n) s with
    | (s, _, some (.trap c a)) => (s, .trap c a pc (some (hoff, hdr)))
    | (s, _, some (.wait k va l)) => (s, .wait k va l)
    | (s, _, some .later) => (s, .notReady)
    | (s, words, _) =>
      let s := modWarp wk (fun w => modLanes lanes (fun x => { x with refetch := false })
        { w with fetched := words.foldl (fun m e => lput e.1 e.2 m) w.fetched }) s
      (s, instrAt core w.bid wk lanes hoff hdr pc words)

/-- R297: the offsets that a grid's pre-emption point table lists, with their entries. -/
def pointTable (g : Grid) (s : State) : List (Nat × List Byte) :=
  match devReadVirt g.ctx (g.obj.base + g.obj.points) false (g.obj.npoints + 2) (32 * g.obj.npoints) s with
  | (_, .ok bs) => (List.range g.obj.npoints).map fun i => (leNat ((bs.drop (32 * i)).take 4), (bs.drop (32 * i)).take 32)
  | _ => []

/-- R297: a lane is held at one of the five holding instructions. -/
def heldAtPoint (x : Lane) : Bool :=
  match x.hold with
  | .mwait _ => true
  | .bar _ => true
  | .pbar _ => true
  | .waitc _ _ => true
  | .rgwait _ _ => true
  | _ => false

/-- R297: a lane stands at a point. -/
def atPoint (s : State) (bid : Nat) (x : Lane) : Bool :=
  x.exited || heldAtPoint x || (pointTable (gridOf s (blkOf s bid).gid) s).any fun e => e.1 == x.pc.toNat

/-- A lane may issue, but for what its instruction adds (R36, R298, R304). A block whose binding the device is making
waits for it (R219, R248, R289), and a warp whose HBIND has been returned to issue waits for that (R219). -/
def mayIssue (s : State) (w : Warp) (l : Nat) (x : Lane) : Bool :=
  !(s.copies.any fun c => c.bid == w.bid && c.auto) && !((blkOf s w.bid).returned.any fun c => (warpOf s c.wk).num == w.num) &&
    !x.exited && x.hold == .none && x.bubble == 0 && (!w.inHandler || w.trapLanes.getLsbD l) && !w.stopped && !w.forced &&
    !((blkOf s w.bid).stopAt.isSome && atPoint s w.bid x)

/-- A bundle that a warp could issue, and the state after the fetches that it took. -/
structure Bundle where
  lanes : Word
  pc : Word
  prep : Prep
  st : State
  deriving DecidableEq, Repr

/-- R37: the groups of lanes of a warp that share a program counter. Lanes at one program counter that stand in different
clauses (overlapping clauses, or a branch into a clause) issue as separate bundles: R37 does not say how they would share one
(DESIGN CHOICE, log 42). -/
def laneGroups (s : State) (wk : Nat) : List (Word × Option (Word × Word) × Word) :=
  let w := warpOf s wk
  (w.lanes.filter fun e => mayIssue s w e.1 e.2).foldl (fun gs e =>
    if gs.any fun g => g.1 == e.2.pc && g.2.1 == e.2.clause then
      gs.map fun g => if g.1 == e.2.pc && g.2.1 == e.2.clause then (g.1, g.2.1, g.2.2 ||| laneSet [e.1]) else g
    else gs ++ [(e.2.pc, e.2.clause, laneSet [e.1])]) []

/-- What a group would issue. -/
def prepare (wk : Nat) (g : Word × Option (Word × Word) × Word) (s : State) : State × Prep :=
  match g.2.1 with
  | some (h, hw) => insideClause wk g.2.2 g.1 h hw s
  | none => enterClause wk g.2.2 g.1 s

/-- The checks of R339 on prefix and registers pass for a bundle. -/
def checksPass (s : State) (iss : Iss) (i : Instr) : Bool :=
  let p := if iss.hasPfx then pfxOf iss.pfx else Pfx.none
  honoured p iss.hasPfx i && (info p iss.hasPfx i).args.all (argOk (blkOf s iss.bid).wregs (blkOf s iss.bid).qregs)

/-- R36, R59: the lanes of an instruction that no pending register holds. The checks of R339 come first. -/
def freeLanes (s : State) (iss : Iss) (i : Instr) : Word :=
  let p := if iss.hasPfx then pfxOf iss.pfx else Pfx.none
  if checksPass s iss i then
    laneSet ((lanesOf iss.lanes).filter fun l => !((info p iss.hasPfx i).all p).any (isPending { s with iss := iss } (laneSet [l])))
  else iss.lanes

/-- R23, R66: the instruction finds the port of its local store busy, or is one of a vector clause whose issue is withheld. -/
def stalled (s : State) (iss : Iss) (i : Instr) : Bool :=
  (match portUse 1 i with
   | some (sp, _) => iss.side != .twin && decide (s.clock < lget 0 (4096 + 8 * iss.core + sp) s.busy)
   | none => false) ||
  (decide (s.pw.withheld ≥ 2) && classOf (headerOf iss.hdr).cls == some .v)

/-- R45: the lanes of a set without the released groups of which some lane is not in the set. -/
def wholeGroups (w : Warp) (pc : Word) (cl : Option (Word × Word)) (ls : Word) : Word :=
  let g := laneSet ((w.lanes.filter fun e => e.2.group != 0 && !e.2.exited && e.2.hold == .none && e.2.pc == pc && e.2.clause == cl).map
    fun e => e.1)
  if g &&& ~~~ls = 0 then ls else ls &&& ~~~g

/-- R38: the bundles that ended a clause and whose first free cycle this is, among lanes at a header. -/
def watched (w : Warp) (ls : Word) : List Nat :=
  (((w.lanes.filter fun e => ls.getLsbD e.1 && e.2.watch != 0 && e.2.clause.isNone).map fun e => e.2.watch).eraseDups)

/-- A bundle of a group, but for what stands at issue. What stops a fetch stops the lanes that fetch; what the fetched word
is concerns every lane of the group (R37, R511). -/
def groupBundle (wk : Nat) (s : State) (g : Word × Option (Word × Word) × Word) : Bundle :=
  match prepare wk g s with
  | (t, .go iss i) =>
    let ls := if stalled t iss i then 0 else wholeGroups (warpOf s wk) g.1 g.2.1 (freeLanes t iss i)
    ⟨ls, g.1, if ls = 0 then .notReady else .go { iss with lanes := ls } i, t⟩
  | (t, p) =>
    let f := match g.2.1 with | some (h, hw) => fetchLanes (warpOf t wk) g.2.2 g.1 h hw | none => 0
    ⟨wholeGroups (warpOf s wk) g.1 g.2.1 (if f = 0 then g.2.2 else f), g.1, p, t⟩

/-- The lanes whose registers a cross-lane instruction reads beside the executing ones (R479, R488). -/
def crossSources (i : Instr) (act : Word) (s : State) : List Nat :=
  (lanesOf act).filterMap fun l => match i with
    | .shflLane _ _ b _ => laneSource 0 l (readW s b.toNat l)
    | .shflFlip _ _ b _ => laneSource 1 l (readW s b.toNat l)
    | .shflLower _ _ b _ => laneSource 2 l (readW s b.toNat l)
    | .shflHigher _ _ b _ => laneSource 3 l (readW s b.toNat l)
    | .quadx _ _ m => some (quadSource m.toNat l)
    | _ => none

/-- R48, R238, R243: the instruction of the issuing bundle reads a failing word of its side's registers, in a lane that is no
helper: a helper's operations reach no error budget. -/
def readsBad (i : Instr) (s : State) : Bool :=
  let p := curPfx s
  let f := info p s.iss.hasPfx i
  let act := active s f.g
  let hit := fun (ls : Word) (e : Nat × Nat × Nat) (a : Arg) => match a with
    | .rd k r n _ => e.1 == k && decide (r ≤ e.2.1) && decide (e.2.1 < r + n) &&
        (if k = 1 then ls != 0 else ls.getLsbD e.2.2 && !isHelper s e.2.2)
    | .cross k r => e.1 == k && e.2.1 == r && (crossSources i (act &&& ~~~(helpers s act)) s).contains e.2.2
    | _ => false
  (regsOf s).bad.any fun e => (guardArgs p f).any (hit s.iss.lanes e) || f.args.any (hit act e)

/-- The tile-table entries that an instruction names. -/
def tilesNamed (i : Instr) (s : State) : List Nat :=
  let q := fun (d : BitVec 6) (n : Nat) => (readQ s (d.toNat + n)).toNat
  match i with
  | .tdesc t _ => [t.toNat]
  | .tstate _ t => [t.toNat]
  | .trel t => [t.toNat]
  | .mstat _ _ t => [t.toNat]
  | .mclr t _ => [t.toNat]
  | .cpyin d _ => [q d 1 / 2 ^ 26]
  | .cpyout d _ => [q d 1 / 2 ^ 26]
  | .cpyx d _ => [q d 1 / 2 ^ 26, q d 0 % 64]
  | .mloop d _ => [q d 0 / 2 ^ 24 % 64, q d 0 / 2 ^ 18 % 64, q d 0 / 2 ^ 12 % 64, q d 1 / 2 ^ 18 % 64, q d 1 / 2 ^ 12 % 64]
  | _ => []

/-- R238: the failing entries of the block's control state that the issuing instruction reads: those of the tiles that it
names, and all that is no tile entry. An instruction without active lanes reads none (R350). -/
def badControl (i : Instr) (s : State) : List Nat :=
  if active s (info (curPfx s) s.iss.hasPfx i).g = 0 then []
  else (curBlk s).badCtl.filter fun e => decide (e < 64) || (tilesNamed i s).contains (e - 64)

/-- R238, R243, R251, R254: a bundle whose instruction reads a failing word consumes the error, and the word reads as zero;
an Assured block rolls back, and the instruction has no effect. -/
def failingRegs (i : Instr) (s : State) : State × Bool :=
  let ctl := badControl i s
  if !checksPass s s.iss i || !(!ctl.isEmpty || (!(regsOf s).bad.isEmpty && readsBad i s)) then (s, false)
  else if (curBlk s).cls = 2 then (rollback s.iss.bid 0x20 s, true)
  else (consume (curBlk s).ctx (modBlk s.iss.bid (fun b => { b with badCtl := b.badCtl.filter fun e => !ctl.contains e }) s), false)

/-- The key under which a quarter's choice knows the twin of a warp (R244). -/
def twinKey (wk : Nat) : Nat := wk + 2 ^ 40

/-- R238, R245: the load-value queue's entries for an action hold an uncorrectable error. -/
def badQueue (s : State) (wk id : Nat) : Bool := (warpOf s wk).cmps.any fun c => c.id == id && c.bad

/-- R244: the twin takes its next entry of the trace: it issues the bundle on its own registers. Entering a trap handler
does nothing to them. -/
def twinIssue (exec : Instr → State → Out State) (wk : Nat) (e : TraceEnt) (s : State) : Out State :=
  let s := modWarp wk (fun w => { w with trace := w.trace.drop 1 }) { s with iss := { e.iss with side := .twin, live := true } }
  match e.instr with
  | none => .next s
  | some i =>
    match failingRegs i s with
    | (s, true) => .next s
    | (s, false) =>
      if badQueue s wk e.iss.cmp then .next (rollback (warpOf s wk).bid 0x20 s) else
      let y := match i with | .yield g => active s g.toNat != 0 | _ => false
      exec i (modWarp wk (fun w => { w with twYielded := y }) s)

/-- R244: the trace of a lead's quarter has room for a bundle that takes a trap. -/
def traceRoom (s : State) (wk : Nat) : Bool := (blkOf s (warpOf s wk).bid).cls != 2 || decide (traceUsed s wk < 512)

/-- Issues a prepared bundle: an asynchronous cause is taken before it (R175, R179, R195, R252). -/
def runBundle (exec : Instr → State → Out State) (wk : Nat) (b : Bundle) (s : State) : Out State :=
  match (warpOf s wk).async, b.prep with
  | _, .follow e => twinIssue exec (wk - 2 ^ 40) e s
  | (c, a) :: t, .go iss _ =>
    .next (takeTrap wk b.lanes c true iss.pc a (some (iss.hoff, iss.hdr)) (modWarp wk (fun w => { w with async := t }) s))
  | (c, a) :: t, .trap _ _ tpc cl =>
    .next (takeTrap wk b.lanes c true tpc a cl (modWarp wk (fun w => { w with async := t }) s))
  | (c, a) :: t, .counter _ =>
    .next (takeTrap wk b.lanes c true b.pc a none (modWarp wk (fun w => { w with async := t }) s))
  | _, .go iss i =>
    match failingRegs i { s with iss := iss } with
    | (s, true) => .next s
    | (s, false) => exec i s
  | _, .trap c a tpc cl => .next (takeTrap wk b.lanes c false tpc a cl s)
  | _, .counter c => .next (counterTrap wk b.lanes c b.pc none s)
  | _, _ => .next s

/-- R148, R150: an instruction that names tiles and that stood held in the last cycle checks what the tiles were at that
cycle's end: it finds it held no more. -/
def tilesLetGo (exec : Instr → State → Out State) (wk : Nat) (iss : Iss) (i : Instr) (s : State) : Bool :=
  let t := { s with iss := iss }
  (tilesNamed i t).isEmpty || !((warpOf s wk).lanes.any fun e => iss.lanes.getLsbD e.1 && e.2.stood) ||
    (match exec i (modBlk iss.bid (fun b => { b with tiles := b.tilesSeen }) t) with
     | .next u => !u.iss.held
     | _ => true)

/-- R36: the bundle is not held at issue. -/
def issues (exec : Instr → State → Out State) (wk : Nat) (b : Bundle) : Bool :=
  match b.prep with
  | .go iss i =>
    if (warpOf b.st wk).async.isEmpty then (match exec i { b.st with iss := iss } with | .next t => !t.iss.held && tilesLetGo exec wk iss i b.st | _ => true)
    else traceRoom b.st wk
  | .trap .. => b.lanes != 0 && traceRoom b.st wk
  | .counter _ => b.lanes != 0 && traceRoom b.st wk
  | .follow _ => true
  | _ => false

/-- The ready bundles of a warp. -/
def readyBundles (exec : Instr → State → Out State) (wk : Nat) (s : State) : List Bundle :=
  ((laneGroups s wk).map (groupBundle wk s)).filter (issues exec wk)

/-- R244, R245: a twin may take the next entry of its trace: the values of a read that the lead has made have come, and no
register that the instruction names is pending in the twin's copy. -/
def twinReady (s : State) (wk : Nat) (e : TraceEnt) : Bool :=
  match e.instr with
  | none => true
  | some i =>
    let t := { s with iss := { e.iss with side := .twin } }
    let p := curPfx t
    !((info p e.iss.hasPfx i).all p).any (isPending t e.iss.lanes) && !stalled t t.iss i &&
      (match (warpOf s wk).cmps.find? fun c => c.id == e.iss.cmp with
       | some c => c.kind != .read || c.vals.isSome
       | none => true)

/-- The bundle that a twin could issue. -/
def twinBundles (wk : Nat) (s : State) : List Bundle :=
  match (warpOf s wk).trace with
  | [] => []
  | e :: _ => if twinReady s wk e then [⟨e.iss.lanes, e.iss.pc, .follow e, s⟩] else []

/-- The entry with the largest score; the lowest program counter on a tie. -/
def pickBy (score : Bundle → Nat) : List Bundle → Option Bundle
  | [] => none
  | b :: t =>
    match pickBy score t with
    | none => some b
    | some c => if score b > score c ∨ (score b = score c ∧ b.pc.toNat ≤ c.pc.toNat) then some b else some c

/-- The largest skip count of a set of lanes (R37). -/
def maxSkip (w : Warp) (ls : Word) : Nat :=
  (w.lanes.filter fun e => ls.getLsbD e.1).foldl (fun m e => max m e.2.skip) 0

/-- R37, R45: the bundle that a warp issues among its ready ones. -/
def pickBundle (w : Warp) (bs : List Bundle) : Option Bundle :=
  let released := fun (b : Bundle) => (w.lanes.filter fun e => b.lanes.getLsbD e.1 && e.2.group != 0).length
  let rel := bs.filter fun b => released b != 0
  if !rel.isEmpty then pickBy released rel
  else if bs.any fun b => decide (maxSkip w b.lanes ≥ 16) then pickBy (fun b => maxSkip w b.lanes) bs
  else pickBy (fun b => laneCount b.lanes) bs

/-- The warps of a quarter in age order (R39). -/
def quarterWarps (s : State) (slot : Nat) : List Nat :=
  let mine := s.warps.filter fun e => 4 * (blkOf s e.2.bid).core + e.2.quarter == slot
  let age := fun (e : Nat × Warp) => (blkOf s e.2.bid).order * 64 + e.2.num
  (sortBy age mine).map fun e => e.1

/-- The pass count of a warp or a twin (R39). -/
def passOf (s : State) (k : Nat) : Nat := if k < 2 ^ 40 then (warpOf s k).pass else (warpOf s (k - 2 ^ 40)).twPass

/-- A warp or a twin has executed YIELD since its last issue (R39). -/
def yieldedOf (s : State) (k : Nat) : Bool := if k < 2 ^ 40 then (warpOf s k).yielded else (warpOf s (k - 2 ^ 40)).twYielded

/-- R39, R244: the warp or twin that a quarter takes among those with ready bundles, in age order; a twin comes after its
lead (DESIGN CHOICE, log 42). -/
def pickWarp (s : State) (q : Nat) (ready : List (Nat × List Bundle)) : Option (Nat × List Bundle) :=
  match ready.find? fun e => decide (passOf s e.1 ≥ 256) with
  | some e => some e
  | none =>
    match ready.find? fun e => lfind q s.lastWarp == some e.1 && !yieldedOf s e.1 with
    | some e => some e
    | none => ready.head?

/-- R39: a ready warp or twin is passed over. -/
def passOver (k : Nat) (s : State) : State :=
  if k < 2 ^ 40 then modWarp k (fun w => { w with pass := w.pass + 1 }) s
  else modWarp (k - 2 ^ 40) (fun w => { w with twPass := w.twPass + 1 }) s

/-- R66: the issue occupies its quarter, and an access the port of its local store. A bundle that takes a trap instead takes
one cycle. -/
def occupy (q wk : Nat) (b : Bundle) (s : State) : State :=
  match b.prep with
  | .go iss i =>
    if (warpOf s wk).async.isEmpty then
      let t := { s with iss := iss }
      let n := laneCount (active t (info (curPfx t) iss.hasPfx i).g)
      let busy := if issueCycles i = 1 then s.busy else lput q (s.clock + issueCycles i) s.busy
      { s with busy := match portUse n i with
          | some (sp, c) => if n = 0 then busy else lput (4096 + 8 * iss.core + sp) (s.clock + c) busy
          | none => busy }
    else s
  | .follow e =>
    match e.instr with
    | some i => if issueCycles i = 1 then s else { s with busy := lput q (s.clock + issueCycles i) s.busy }
    | none => s
  | _ => s

/-- R37, R39, R306: the counts that an issue changes: skip counts of the ready lanes, pass counts of the quarter's ready
warps and twins, the hang timer of the issuing warp. -/
def bookIssue (q k : Nat) (b : Bundle) (bs : List Bundle) (others : List Nat) (s : State) : State :=
  let rdy := bs.foldl (fun m (b : Bundle) => m ||| b.lanes) 0
  let s := occupy q k b s
  let s := others.foldl (fun s o => if o = k then s else passOver o s) s
  let s := if k < 2 ^ 40 then modWarp k (fun w => { w with
      pass := 0
      idle := 0
      yielded := false
      issuedThisCycle := true
      lanes := lmap (fun l x =>
        if b.lanes.getLsbD l then { x with skip := 0, group := 0 }
        else if rdy.getLsbD l then { x with skip := min (x.skip + 1) 255 } else x) w.lanes }) s
    else modWarp (k - 2 ^ 40) (fun w => { w with twPass := 0 }) s
  { s with lastWarp := lput q k s.lastWarp, slot := q + 2 }

/-- R171: the lanes that fetch from an absent page are held until it is mapped. -/
def holdFetches (wk : Nat) (s : State) : State :=
  (laneGroups s wk).foldl (fun s g =>
    match prepare wk g s with
    | (t, .wait k va l) =>
      let w := warpOf t wk
      let b := blkOf t w.bid
      let ls := match g.2.1 with | some (h, hw) => fetchLanes w g.2.2 g.1 h hw | none => g.2.2
      let r := raiseFault b.ctx (revOf t w.bid) va k l b.core t
      modWarp wk (modLanes ls fun x => { x with hold := .fetch r.1 }) r.2
    | _ => s) s

/-- R171: lanes whose fetch awaited a page are released once the fault has gone; those that owe a trap stay. -/
def releaseFetches (wk : Nat) (s : State) : State :=
  modWarp wk (fun w => { w with
    lanes := lmap (fun l (x : Lane) => match x.hold with
      | .fetch k =>
        if (s.faults.any fun f => f.key == k) || (w.owed.any fun o => o.1.getLsbD l) then x else { x with hold := .none }
      | _ => x) w.lanes }) s

/-- R175: a precise trap that lanes held at a load or a fetch owe. A warp that runs its handler takes it after the
handler has ended. -/
def takeOwed (wk : Nat) (s : State) : State :=
  let w := warpOf s wk
  match w.owed with
  | [] => s
  | (ls, cause, addr) :: t =>
    let x := (lfind (lowestLane ls) w.lanes).getD {}
    if (w.inHandler && w.trapLanes &&& ls = 0) || w.stopped || !traceRoom s wk then s
    else takeTrap wk ls cause false x.pc addr x.clause (modWarp wk (fun w => { w with owed := t }) s)

/-- R305: asynchronous causes of a warp that runs its handler are deferred. -/
def deferAsync (wk : Nat) (s : State) : State :=
  modWarp wk (fun w =>
    if w.inHandler then
      { w with async := [], deferred := w.async.foldl (fun m e => if (lfind e.1 m).isSome then m else lput e.1 e.2 m) w.deferred }
    else w) s

/-- R38, R326: a bundle that ended a clause and stands at a header is held by an interlock in its first free cycle. Lanes
that a holding instruction keeps are not free yet (log 36). -/
def countHintShort (wk : Nat) (s : State) : State :=
  let w := warpOf s wk
  let short := ((laneGroups s wk).map fun g =>
    match prepare wk g s with
    | (t, .go iss i) => watched w (g.2.2 &&& ~~~ (freeLanes t iss i))
    | _ => []).flatten.eraseDups
  let s := modWarp wk (fun w => { w with lanes := lmap (fun _ (x : Lane) =>
    if x.bubble = 0 ∧ x.hold = .none ∧ x.clause = none then { x with watch := 0 } else x) w.lanes }) s
  if short.isEmpty then s
  else modCtx (blkOf s w.bid).ctx (fun c => { c with hintshort := min (c.hintshort + short.length) 0xFFFFFFFF }) s

/-- R268, R509: what a bundle held at issue has sent meanwhile, a fault record or a fork request, stays. -/
def keepHolds (exec : Instr → State → Out State) (wk : Nat) (s : State) : State :=
  (laneGroups s wk).foldl (fun s g =>
    match groupBundle wk s g with
    | ⟨_, _, .go iss i, t⟩ =>
      match exec i { t with iss := iss } with
      | .next u => if u.iss.held && u.iss.keep then { u with iss := s.iss } else s
      | _ => s
    | _ => s) s

/-- What comes before the choice in a quarter's cycle. -/
def settleWarp (exec : Instr → State → Out State) (wk : Nat) (s : State) : State :=
  countHintShort wk (keepHolds exec wk (holdFetches wk (takeOwed wk (releaseFetches wk (deferAsync wk s)))))

/-- The warps and twins of a quarter that have ready bundles, in age order. -/
def readyWarps (exec : Instr → State → Out State) (q : Nat) (s : State) : List (Nat × List Bundle) :=
  (((quarterWarps s q).map fun wk => [(wk, readyBundles exec wk s), (twinKey wk, twinBundles wk s)]).flatten).filter fun e => !e.2.isEmpty

/-- R39, R63: in the further cycles of an issue that takes more than one, its quarter passes over the other ready warps. -/
def passBusy (exec : Instr → State → Out State) (q : Nat) (s : State) : State :=
  (readyWarps exec q s).foldl (fun s e => if lfind q s.lastWarp = some e.1 then s else passOver e.1 s) s

/-- The issue of one quarter in one cycle, where some bundle is ready (R39), and an instruction of more than one issue cycle
does not occupy the quarter (R66). -/
def quarterIssue (exec : Instr → State → Out State) (q : Nat) (s : State) : State × Option (Out State) :=
  let s := (quarterWarps s q).foldl (fun s wk => settleWarp exec wk s) s
  if s.clock < lget 0 q s.busy then (passBusy exec q s, none)
  else
    let ready := readyWarps exec q s
    match pickWarp s q ready with
    | none => (s, none)
    | some (k, bs) =>
      match pickBundle (warpOf s k) bs with
      | none => (s, none)
      | some b => (s, some (runBundle exec k b (bookIssue q k b bs (ready.map fun e => e.1) b.st)))

/-- The next quarter at or after a number that has warps. -/
def nextQuarter (s : State) (q : Nat) : Option Nat :=
  (s.warps.map fun e => 4 * (blkOf s e.2.bid).core + e.2.quarter).foldl (fun o p =>
    if p < q then o else match o with | none => some p | some r => some (min p r)) none

/-- The quarters of the cycle, in order, up to the first that issues: slot k stands for quarter k - 1. -/
def issuePhase (exec : Instr → State → Out State) : Nat → State → State × Option (Out State)
  | 0, s => (s, none)
  | fuel + 1, s =>
    match nextQuarter s (s.slot - 1) with
    | none => ({ s with slot := 769 }, none)
    | some q =>
      match quarterIssue exec q s with
      | (s, none) => issuePhase exec fuel { s with slot := q + 2 }
      | r => r

end Sys2Proof.Machine
end

