-- ==== Sys2Proof/Machine/Resolve.lean ====
section
/-! DEFINITION. The host's answers to fault records (R172, R175, R509). -/

set_option Elab.async false

namespace Sys2Proof.Machine

/-- R175: the loads and atomics of a warp that wait for a refused page owe their trap. -/
def refuseLoads (key wk : Nat) (s : State) : State :=
  (warpOf s wk).loads.foldl (fun s o =>
    match (o.accs.filter fun a => a.wait == key && !a.done) with
    | [] => s
    | a :: t => failLoad wk o (laneSet ((a :: t).map fun x => x.lane)) 0x07 a.va s) s

/-- R175: the lanes of a warp whose fetch waits for a refused page owe their trap: at the address that the fetch could not read,
or, where the fetch waits for its region table, at the word (R263). -/
def refuseFetches (key kind vpn wk : Nat) (s : State) : State :=
  let w := warpOf s wk
  let g := gridOf s (blkOf s w.bid).gid
  let mine := w.lanes.filter fun e => e.2.hold == .fetch key
  ((mine.map fun e => e.2.pc).eraseDups).foldl (fun s pc =>
    let ls := laneSet ((mine.filter fun e => e.2.pc == pc).map fun e => e.1)
    modWarp wk (fun w => { w with owed := w.owed ++ [(ls, 0x07,
      if kind = 3 then max (textBase g + pc.toNat) (vpn * 4096) else textBase g + pc.toNat)] }) s) s

/-- R175, R232: a copy-queue operation that waits for a refused page fails. -/
def refuseCopy (key : Nat) (s : State) (op : CopyOp) : CopyOp :=
  if op.wait = key then
    let fab := if op.fab.isSome then op.fab
      else if op.kind ≠ .hbind ∧ (copyDesc op.desc).path ≥ 8 then (fabOf s op.bid).map (·.1) else none
    let op := { op with started := true, fab := fab, wait := 0 }
    { op with err := if op.err.isSome then op.err else some (outsideError op 0x25 4 op.waitVa) }
  else op

/-- R175, R509: a fault is answered unresolvable. One that an access of the device's own awaits is kept until that access has
seen the answer. -/
def refuseFault (f : FaultRec) (s : State) : State :=
  let s := (s.warps.map fun e => e.1).foldl (fun s wk => refuseFetches f.key f.kind f.vpn wk (refuseLoads f.key wk s)) s
  let s := (s.side.filter fun e => e.waits == f.key).foldl (fun s e => loseEntry e 0x07 s) s
  let s := { s with copies := s.copies.map (refuseCopy f.key s) }
  { s with faults :=
      if f.core = 255 ∨ f.own then s.faults.map fun x => if x.key == f.key then { x with dead := true } else x
      else s.faults.filter fun x => x.key != f.key }

/-- FAULT_RESOLVE: the host answers a fault record: mapped, so that what waits walks again, or unresolvable (R172,
R175, R509). An answer that names no waiting record has no effect. -/
def execFaultResolve (ctx : Nat) (v : BitVec 64) (s : State) : Out State :=
  match s.faults.find? fun f => f.ctx == ctx && decide (f.kind ≤ 5) && !f.dead && f.seq == v.toNat % 2 ^ 32 with
  | none => .next s
  | some f =>
    if v.getLsbD 32 then .next (refuseFault f s)
    else .next { s with faults := s.faults.filter fun x => x.key != f.key }

end Sys2Proof.Machine
end

