-- ==== Sys2Proof/Machine/Cycle.lean ====
section
/-! DEFINITION. The end of a cycle: masks, barriers, rings, counters, bubbles and timers (R38, R44, R45, R52, R53, R54,
R57, R110, R148, R300, R306, R307, R382, R383, R385, R413, R471, R487, R505). -/

set_option Elab.async false

namespace Sys2Proof.Machine

/-- R300: a block that is being stopped keeps its held lanes held. -/
def keepsHeld (s : State) (bid : Nat) : Bool := (blkOf s bid).stopAt.isSome

/-- Releases lanes of a warp that satisfy a condition, as one group (R45). -/
def releaseWhere (wk : Nat) (f : Nat → Lane → Bool) (s : State) : State :=
  let w := warpOf s wk
  if w.lanes.any fun e => f e.1 e.2 then
    modWarp wk (fun w => { w with
      groups := w.groups + 1
      lanes := lmap (fun l x => if f l x then releaseLane (w.groups + 1) x else x) w.lanes }) s
  else s

/-- A living lane waits on mask k. -/
def onMask (k : Nat) (x : Lane) : Bool := !x.exited && x.hold == .mwait k

/-- R44: every member of a non-empty mask waits on it. -/
def maskFull (w : Warp) (k : Nat) : Bool :=
  let m := maskOf w k
  m != 0 && (lanesOf m).all fun l => match laneOf w l with | some x => onMask k x | none => false

/-- R44: the end-of-cycle examination of a warp's masks. -/
def examineMasks (wk : Nat) (s : State) : State :=
  let w := warpOf s wk
  if keepsHeld s w.bid then s
  else
    let full := (List.range 12).filter fun k => maskFull w k
    releaseWhere wk (fun l x => match x.hold with
      | .mwait k => !x.exited && (full.contains k || !(maskOf w k).getLsbD l)
      | _ => false) s

/-- R487: lanes held at RGWAIT whose slot holds the awaited phase. -/
def examineRings (wk : Nat) (s : State) : State :=
  let w := warpOf s wk
  if keepsHeld s w.bid then s
  else releaseWhere wk (fun _ x => match x.hold with
    | .rgwait n p => !x.exited && lget false n (blkOf s w.bid).rings == p
    | _ => false) s

/-- R505: the counter that a lane waits for. -/
def waitsCounter (x : Lane) : Option (Nat × Nat) := match x.hold with | .waitc c n => some (c, n) | _ => none

/-- R54, R505: lanes held at WAITC: an error of the counter traps them; a value at most n releases them. A warp in its
handler leaves its other lanes alone, and one whose HBIND has been returned to issue waits for that (R219). -/
def examineWaits (wk : Nat) (s : State) : State :=
  let w := warpOf s wk
  if keepsHeld s w.bid || (blkOf s w.bid).returned.any fun c => c.wk == wk then s
  else
    let mine := w.lanes.filter fun e => !e.2.exited && (!w.inHandler || w.trapLanes.getLsbD e.1) && (waitsCounter e.2).isSome
    match mine.find? fun e => match waitsCounter e.2 with | some (c, _) => (lfind c w.cerr).isSome | none => false with
    | some e =>
      match waitsCounter e.2 with
      | some (c, _) =>
        let ls := laneSet ((mine.filter fun d => d.2.pc == e.2.pc && d.2.hold == e.2.hold).map fun d => d.1)
        counterTrap wk ls c e.2.pc e.2.clause s
      | none => s
    | none =>
      let met := (mine.filterMap fun e => waitsCounter e.2).filter fun e => decide (lget 0 e.1 w.cnt ≤ e.2)
      let s := met.foldl (fun s e => observeJoin wk e.1 s) s
      releaseWhere wk (fun l x => (mine.any fun e => e.1 == l) && (match waitsCounter x with
        | some (c, n) => decide (lget 0 c w.cnt ≤ n)
        | none => false)) s

/-- The warps of a block, by number, with a lane that has not exited. -/
def livingWarps (s : State) (bid : Nat) : List (Nat × Warp) :=
  (s.warps.filter fun e => e.2.bid == bid && e.2.lanes.any fun l => !l.2.exited)

/-- R62, R189, R192: the warps that have arrived at a barrier: every living lane stands held there, and the release that the
arrival is waits for no store and no load of the warp, one of its exited lanes among them. -/
def arrivals (s : State) (bid : Nat) (pod : Bool) (b : Nat) : Word :=
  laneSet (((livingWarps s bid).filter fun e => releaseReady e.2 && e.2.lanes.all fun l => l.2.exited || atBarrier pod b l.2).map
    fun e => e.2.num)

/-- The warps of a block's set that have not arrived. -/
def missing (nwarps : Nat) (x : Barrier) (arr : Word) : List Nat :=
  (List.range nwarps).filter fun n => !x.dropped.getLsbD n && !arr.getLsbD n

/-- Releases the lanes of a block that stand at a barrier. The release of a pod barrier is an acquire at pod scope, which
invalidates the core's first-level cache (R189, R193). -/
def releaseBarrier (bid : Nat) (pod : Bool) (b : Nat) (s : State) : State :=
  let s := (livingWarps s bid).foldl (fun s e => releaseWhere e.1 (fun _ x => !x.exited && atBarrier pod b x) s) s
  let s := if pod then l1Clear (blkOf s bid).core s else s
  modBlk bid (modBarrier pod b fun x => { x with arrived := 0, timer := 0, first := none }) s

/-- R382, R383, R307: records who has arrived. -/
def recordArrivals (bid : Nat) (pod : Bool) (b : Nat) (arr : Word) (s : State) : State :=
  modBlk bid (modBarrier pod b fun x => { x with
    arrived := arr
    timer := if x.arrived = 0 then 0 else x.timer + 1
    first := if arr = 0 then none else if x.arrived = 0 then some (lowestLane arr) else x.first }) s

/-- R385, R471: lanes of a warp that has left a barrier's set are released from it. -/
def releaseDropped (bid : Nat) (pod : Bool) (b : Nat) (s : State) : State :=
  let d := (lget {} b (if pod then (blkOf s bid).pbars else (blkOf s bid).bars)).dropped
  (livingWarps s bid).foldl (fun s e =>
    if d.getLsbD e.2.num then releaseWhere e.1 (fun _ x => !x.exited && atBarrier pod b x) s else s) s

/-- R383: the end-of-cycle examination of a block barrier. In an Assured block, the checkpoint releases it (R248). -/
def examineBarrier (bid b : Nat) (s : State) : State :=
  if keepsHeld s bid then recordArrivals bid false b (arrivals s bid false b) s
  else
    let s := releaseDropped bid false b s
    let arr := arrivals s bid false b
    let x := lget {} b (blkOf s bid).bars
    if arr ≠ 0 ∧ (missing (blkOf s bid).nwarps x arr).isEmpty ∧ (blkOf s bid).cls ≠ 2 then releaseBarrier bid false b s
    else if arr = 0 ∧ x.arrived = 0 then s
    else recordArrivals bid false b arr s

/-- The resident blocks of a block's pod (R27, R471). -/
def podMembers (s : State) (bid : Nat) : List Nat :=
  let x := blkOf s bid
  if x.podTag = 0xFFFFF then [bid]
  else (s.blocks.filter fun e => e.2.podTag == x.podTag).map fun e => e.1

/-- R471: every warp of a block's set has arrived at a pod barrier; a block whose warps have all exited counts as arrived. -/
def podArrived (s : State) (bid b : Nat) (arr : Word) : Bool :=
  blockEnded s bid || (missing (blkOf s bid).nwarps (lget {} b (blkOf s bid).pbars) arr).isEmpty

/-- R471: the examination of a pod barrier, made at the lowest member of the pod. -/
def examinePodBarrier (bid b : Nat) (s : State) : State :=
  let pod := podMembers s bid
  if pod.head? ≠ some bid then s
  else
    let stopping := pod.any fun m => keepsHeld s m
    let s := if stopping then s else pod.foldl (fun s m => releaseDropped m true b s) s
    let arrs := pod.map fun m => (m, arrivals s m true b)
    let full := arrs.all fun e => podArrived s e.1 b e.2
    let some1 := arrs.any fun e => e.2 != 0
    if some1 ∧ full ∧ !stopping ∧ (blkOf s bid).cls ≠ 2 then pod.foldl (fun s m => releaseBarrier m true b s) s
    else arrs.foldl (fun s e =>
      if e.2 = 0 ∧ (lget {} b (blkOf s e.1).pbars).arrived = 0 then s else recordArrivals e.1 true b e.2 s) s

/-- An address of a context lies behind a link in recovery (R179). -/
def overLink (s : State) (ctx va : Nat) : Bool :=
  match (walkPlain ctx va s).2 with
  | .leaf t _ _ _ => (linkState s t.pa).recovery.isSome
  | _ => false

/-- The addresses of elements of a tensor. -/
def placeAddrs (t : Tensor) (ps : List (Option (List Nat))) : List Nat := ps.filterMap fun p => p.map fun i => elemPlace t i / 8

/-- The addresses of the block scales of a tensor's elements on path 7 (R216). -/
def scaleAddrs (op : CopyOp) (ps : List (Option (List Nat))) : List Nat :=
  match op.scaleT with
  | some u =>
    if (copyDesc op.desc).path = 7 then
      placeAddrs u (ps.map fun p => (p.map fun i => i.headD 0 / 32 :: i.drop 1).filter (insideTensor u))
    else []
  | none => []

/-- The addresses of the rows that a copy's GATHR cells are about to read (R222). -/
def gatherAddrs (s : State) (op : CopyOp) : List Nat :=
  let t := if op.kind = .cpyin then op.src else op.dst
  let d := copyDesc op.desc
  (((graphOf s op).cells.filter fun e => e.2.op == 7).map fun e =>
    let is := tokensElems 32 ((lget [] (0x20 + e.1) op.inq).headD {}).toks
    (is.filter fun i => decide (i.1 < t.dims.getD 1 1)).flatMap fun i =>
      placeAddrs t ((List.range (t.dims.headD 0)).map fun k => some [k, i.1, d.org.getD 2 0, d.org.getD 3 0, d.org.getD 4 0])).flatten

/-- The addresses in global memory that a copy reads and writes. -/
def copyAddrs (s : State) (op : CopyOp) : List Nat :=
  match op.kind with
  | .cpyin => placeAddrs op.src (readerPlaces s op) ++ scaleAddrs op (readerPlaces s op) ++ gatherAddrs s op
  | .cpyout => placeAddrs op.dst (windowPlaces s op op.dst (geoAt (blkOf s op.bid) (copyDesc op.desc).tile)) ++ gatherAddrs s op
  | .cpyp => placeAddrs op.src (tensorPlaces op.src) ++ placeAddrs op.dst (tensorPlaces op.dst)
  | _ => []

/-- R179, R506: lanes of a warp stand at a CPYIN that a link in recovery holds at its issue. -/
def issueOnLink (s : State) (wk : Nat) : Bool :=
  (laneGroups s wk).any fun g =>
    match groupBundle wk s g with
    | ⟨_, _, .go iss (.cpyin q _), t⟩ => cpyinOnLink q { t with iss := iss }
    | _ => false

/-- R179, R306: an operation of a warp waits on a link in recovery: a load, a store, a side-log entry or a copy, one held at its issue
among them. -/
def waitsOnLink (s : State) (wk : Nat) (w : Warp) : Bool :=
  (s.links.any fun e => e.2.recovery.isSome) &&
  let down := fun (o : Option Nat) => match o with | some k => (linkState s k).recovery.isSome | none => false
  let ctx := (blkOf s w.bid).ctx
  (w.loads.any fun o => o.accs.any fun a => !a.done && down a.pa) ||
    (s.stores.any fun o => o.wk == wk && o.accs.any fun a => down a.pa) ||
    (s.side.any fun e => e.wk == wk && e.accs.any fun a => overLink s ctx a.va) ||
    (s.copies.any fun c => c.wk == wk && (copyAddrs s c).any (overLink s ctx)) || issueOnLink s wk

/-- R306: time that the hang timer of a warp does not count: held at BAR or PBAR, or waiting on a link in recovery. -/
def hangPaused (s : State) (wk : Nat) (w : Warp) : Bool :=
  (w.lanes.all fun l => l.2.exited || (match l.2.hold with | .bar _ => true | .pbar _ => true | _ => false)) || waitsOnLink s wk w

/-- The pending marks that still hold in the next cycle (R59, R66). -/
def liveMarks (s : State) (r : Regs) : Regs := { r with marks := r.marks.filter fun m => decide (s.clock + 1 < m.till) }

/-- R53: the counters at the end of a cycle, lowered for the operations without active lanes whose cycle this is. -/
def dropCounts (clock : Nat) (w : Warp) : SMap Nat :=
  (w.drops.filter fun d => decide (d.2 ≤ clock)).foldl (fun m d => lset 0 d.1 (lget 0 d.1 m - 1) m) w.cnt

/-- R38, R52, R53, R148, R306: what each warp counts and notes at the end of a cycle. -/
def tickWarp (s : State) (wk : Nat) (w : Warp) : Warp :=
  { w with
    r := liveMarks s w.r
    tw := liveMarks s w.tw
    lanes := lmap (fun _ (x : Lane) => { x with
      bubble := x.bubble - 1, stood := x.bubble == 0 && x.hold == .none && !x.exited }) w.lanes
    cnt := dropCounts s.clock w
    cntSeen := dropCounts s.clock w
    drops := w.drops.filter fun d => !decide (d.2 ≤ s.clock)
    idle := if w.issuedThisCycle then 0 else if hangPaused s wk w then w.idle else w.idle + 1
    raised := 0
    issuedThisCycle := false }

/-- The entries of a set of a cache that holds more of them than it has ways. -/
def overfull (cap set unit : Nat → Nat) (keys : List Nat) : Option (List Nat) :=
  ((keys.map set).eraseDups).findSome? fun z =>
    let us := ((keys.filter fun k => set k == z).map unit).eraseDups
    if us.length > cap z then some us else none

/-- Drops entries of overfull sets until every set holds what it can. Which entry goes, the spec leaves open (log 32); the
counter of free values goes on with each. -/
def trimMap {α : Type} (cap set unit : Nat → Nat) : Nat → Nat → SMap α → Nat × SMap α
  | 0, n, m => (n, m)
  | fuel + 1, n, m =>
    match overfull cap set unit (m.map (·.1)) with
    | none => (n, m)
    | some us =>
      let gone := us.getD ((Config.freeWord n).toNat % us.length) 0
      trimMap cap set unit fuel (n + 1) (m.filter fun e => unit e.1 != gone)

/-- R160: the set of a first-level sector's line: core, and one of 64 sets. -/
def firstSet (k : Nat) : Nat := k / 2 ^ 80 * 64 + Config.l1Set (k % 2 ^ 80 / 4) % 64

/-- R166: the entries of a TLB, by its place. -/
def tlbCap (place : Nat) : Nat := if place < 192 then 64 else if place < 208 then 2048 else 1024

/-- R14, R160, R166, R316: what a core's caches and the TLBs cannot hold leaves them: a first-level cache has 64 sets of 16
lines, an instruction cache 16384 words. The uncommitted lines of an Assured block (R204, R250) are held beside the first-level
cache and take no part of its ways, which the spec does not say (DESIGN CHOICE, log 32). -/
def trimCaches (s : State) : State :=
  let a := if s.l1.length ≤ 16 then (s.frees, s.l1) else trimMap (fun _ => 16) firstSet (· / 4) s.l1.length s.frees s.l1
  let b := if s.icache.length ≤ 16384 then (a.1, s.icache)
    else trimMap (fun _ => 16384) (fun k => k / 2 ^ 56 / 64) id s.icache.length a.1 s.icache
  let c := if s.tlb.length ≤ 64 then (b.1, s.tlb) else trimMap tlbCap tlbPlace id s.tlb.length b.1 s.tlb
  { s with frees := c.1, l1 := a.2, icache := b.2, tlb := c.2 }

/-- R16, R160: the set of a second-level sector's line: its slice, and one of 3072 sets. -/
def secondSet (sec : Nat) : Nat := chanOf (32 * sec) * 3072 + Config.l2Set (sec / 4) % 3072

/-- R16: the lines of a set of the second-level cache that holds more than its 16, of which one must leave. -/
def secondVictims (s : State) : Option (List Nat) :=
  (((s.l2.map fun e => secondSet e.1)).eraseDups).findSome? fun z =>
    let us := ((s.l2.filter fun e => secondSet e.1 == z).map fun e => e.1 / 4).eraseDups
    if us.length > 16 then some us else none

/-- R16, R160: lines leave the second-level cache until every set holds what it can. Which line goes, the spec leaves open
(log 32). -/
def trimSecond : Nat → State → State
  | 0, s => s
  | fuel + 1, s =>
    match secondVictims s with
    | none => s
    | some us =>
      let r := freeNat s
      trimSecond fuel (evictLine (us.getD ((Config.freeWord r.1).toNat % us.length) 0) r.2)

/-- R219: an HBIND that was returned to issue issues again, once its queue, its counter and its range locks have room. -/
def reissueBind (bid : Nat) (s : State) : State :=
  let b := blkOf s bid
  match b.returned with
  | [] => s
  | op :: t =>
    let w := warpOf s op.wk
    let rs := bindRanges bid op.graph s
    if copyFull s b.core 3 || decide (lget 0 op.cnt w.cnt ≥ 63) || !entriesFree s rs || rs.any (rangeBlocked s) then s
    else
      lockRanges op.id rs <| modBlk bid (fun b => { b with returned := t })
        (modWarp op.wk (fun w => { w with cnt := lset 0 op.cnt (lget 0 op.cnt w.cnt + 1) w.cnt })
          { s with copies := s.copies ++ [{ op with core := b.core, started := false, wait := 0 }] })

/-- R219: the returned bindings of blocks that are not to stop. They follow what the device binds for the block. -/
def reissueBinds (s : State) : State :=
  (s.blocks.filter fun e => !e.2.returned.isEmpty && e.2.stopAt.isNone && !(s.copies.any fun c => c.bid == e.1 && c.auto)).foldl
    (fun s e => reissueBind e.1 s) s

/-- R252: an exposed interval has lost an uncommitted word to an uncorrectable error: its block is killed. -/
def killExposed (s : State) : State :=
  (s.blocks.filter fun e => e.2.exposed && !e.2.badLines.isEmpty).foldl (fun s e => killBlock e.1 0x20 s) s

/-- R23: what power limiting withholds in a cycle: nothing, the matrix units, or vector issue too. When it needs more than the
matrix units, the spec leaves open (log 1). -/
def withholdCycle (s : State) : State :=
  if s.pw.limited then
    let r := freeNat s
    { r.2 with pw := { r.2.pw with withheld := (Config.freeWord r.1).toNat % 3 } }
  else if s.pw.withheld = 0 then s
  else { s with pw := { s.pw with withheld := 0 } }

/-- The end of a cycle. -/
def endCycle (s : State) : State :=
  let s := killExposed (reissueBinds (pumpAll s))
  let s := { s with warps := lmap (tickWarp s) s.warps }
  let s := { s with blocks := lmap (fun _ (b : Block) => settleHuller { b with flags := b.flags ||| b.flagsNow, flagsNow := 0 }) s.blocks }
  let wks := s.warps.map fun e => e.1
  let bids := s.blocks.map fun e => e.1
  let s := wks.foldl (fun s wk => examineMasks wk s) s
  let s := bids.foldl (fun s b => (List.range 16).foldl (fun s k => examineBarrier b k s) s) s
  let s := bids.foldl (fun s b => (List.range 4).foldl (fun s k => examinePodBarrier b k s) s) s
  let s := wks.foldl (fun s wk => examineRings wk s) s
  let s : State := wks.foldl (fun s wk => examineWaits wk s) s
  let s := withholdCycle (trimCaches (if s.l2.length ≤ 16 then s else trimSecond (2 * s.l2.length + 2) s))
  { s with
    blocks := lmap (fun _ (b : Block) => { b with ringsSeen := b.rings, tilesSeen := b.tiles }) s.blocks
    busy := s.busy.filter fun e => decide (s.clock + 1 < e.2)
    clock := s.clock + 1
    slot := 0 }

end Sys2Proof.Machine
end

