-- ==== Sys2Proof/Machine/Packet.lean ====
section
/-! DEFINITION. Launch packets, code objects, graph images and segment tables as the device reads them (R26, R27, R49,
R157, R163, R227, R242, R288, R291, R312, R315, R320 to R322, R509). -/

set_option Elab.async false

namespace Sys2Proof.Machine

/-- A little-endian field of a list of bytes. -/
def fieldOf (bs : List Byte) (o n : Nat) : Nat := leNat ((bs.drop o).take n)

/-- R288: a reserved field is not zero, or an entry of waits at or above nsig is not zero. -/
def packetReserved (bs : List Byte) : Bool :=
  let f := fieldOf bs
  let w0 := f 0 4
  let w3 := f 12 4
  let r := f 16 4
  let nsig := w0 / 2 ^ 20 % 8
  let tops := [f 55 1, f 135 1, f 143 1] ++ (List.range 4).map fun i => f (71 + 16 * i) 1
  w0 / 2 ^ 29 != 0 || w0.testBit 23 || w0.testBit 19 || w0 / 2 ^ 8 % 256 != 0 || w3.testBit 31 || w3 / 2 ^ 19 % 32 != 0 ||
    w3.testBit 11 || [6, 14, 22, 30].any (fun i => r / 2 ^ i % 4 != 0) || f 30 2 != 0 || f 216 40 != 0 || tops.any (· != 0) ||
    (List.range 4).any fun i => decide (nsig ≤ i) && f (64 + 16 * i) 16 != 0

/-- R288: the fields of the 256 bytes of a packet. -/
def parsePacket (bs : List Byte) : Packet :=
  let f := fieldOf bs
  let w0 := f 0 4
  let w3 := f 12 4
  let r := f 16 4
  { irq := w0.testBit 28, late := w0 / 2 ^ 26 % 4, cls := w0 / 2 ^ 24 % 4, nsig := w0 / 2 ^ 20 % 8, pod := w0 / 2 ^ 16 % 8 + 1
    version := w0 % 256, x := f 4 4, y := f 8 2 + 1, z := f 10 2 + 1, tiles := w3 / 2 ^ 24 % 128, qunits := w3 / 2 ^ 16 % 8
    wunits := w3 / 2 ^ 12 % 16, lanes := w3 % 2 ^ 11, roles := (List.range 4).map fun i => r / 2 ^ (8 * i) % 64
    alloc := (List.range 5).map fun i => f (20 + 2 * i) 2, object := f 32 4, entry := f 36 4, handler := f 40 4, graph := f 44 4
    segtab := f 48 7, deadline := f 56 8, waits := (List.range 4).map fun i => (f (64 + 16 * i) 7, f (72 + 16 * i) 8)
    signal := f 128 7, record := f 136 7, args := (List.range 16).map fun i => BitVec.ofNat 32 (f (144 + 4 * i) 4)
    bartime := f 208 4, hangtime := f 212 4, bad := packetReserved bs }

/-- R26: launched lanes of a block, helper lanes included. -/
def lanes4 (p : Packet) : Nat := (p.lanes + 3) / 4 * 4

/-- R26: warps of a block. -/
def warpsOf (p : Packet) : Nat := (lanes4 p + 31) / 32

/-- R288, R291: reasons 1 to 4, or 0 where the packet passes them. -/
def packetReason (p : Packet) : Nat :=
  if p.bad || p.version != 1 || p.late == 3 || p.cls == 3 || decide (p.nsig > 4) || p.segtab % 256 != 0 || p.signal % 8 != 0 ||
      p.record % 16 != 0 || (p.waits.take p.nsig).any (fun e => e.1 % 8 != 0) then 1
  else if p.x = 0 ∨ p.x > 2 ^ 31 ∨ p.x % p.pod ≠ 0 ∨ p.lanes = 0 ∨ p.lanes > 1024 ∨ p.tiles > 64 ∨
      (p.alloc.zip [128, 192, 384, 192, 64]).any (fun e => decide (e.1 > e.2)) ∨ p.bartime > 60000000 ∨ p.hangtime > 60000 then 2
  else if p.roles.sum ≠ warpsOf p then 3
  else if p.cls = 2 ∧ p.pod > 1 then 4
  else 0

/-- What a read of the device's own that decides on a packet finds: bytes; a page to wait for; a failure (R509). -/
inductive Got9 where
  | bytes (bs : List Byte)
  | wait
  | fail
  deriving DecidableEq, Repr

/-- R509: reads bytes of local memory at a virtual address of a context. -/
def devGet (ctx va n : Nat) (s : State) : State × Got9 :=
  match devReadVirt ctx va false (n / 4096 + 2) n s with
  | (s, .ok bs) => (s, .bytes bs)
  | (s, .error r) =>
    let w := devPage ctx (absentVa ctx va n s) 4 r s
    (w.1, if w.2 then .wait else .fail)

/-- R509, reason 9: the device can use an address of a wait word, the signal or the record; otherwise it waits, or the
packet is rejected. -/
def devUsable (ctx va : Nat) (wr : Bool) (s : State) : State × Got9 :=
  match devTranslate ctx va wr true s with
  | (s, .ok _) => (s, .bytes [])
  | (s, .own _) => (s, .bytes [])
  | (s, r) =>
    let w := devPage ctx va (if wr then 5 else 4) r s
    (w.1, if w.2 then .wait else .fail)

/-- R509: a virtual range of local memory holds a poisoned sector. -/
def devPoison (ctx va n : Nat) (s : State) : Bool :=
  (rangePages va n).any fun a =>
    match (devTranslate ctx a false false s).2 with
    | .ok k => anyPoison s k (min (4096 - a % 4096) (va + n - a))
    | _ => false

/-- R312: the header's own checks. -/
def headerOk (h : List Byte) : Bool :=
  let f := fieldOf h
  f 0 4 == 0x4A424F56 && f 4 2 == 1 && f 6 2 == 0 && f 12 4 == 0 && f 20 4 % 4 == 0 &&
    (List.range 6).all fun i => f (16 + 8 * i) 4 % 64 == 0

/-- R315: the image's base in a forwarding entry that a handle names. -/
def forwarding (e : List Byte) (h : Nat) : Option Nat :=
  let lo := fieldOf e 0 8
  let hi := fieldOf e 8 8
  if lo / 2 ^ 56 = 0 ∧ lo % 64 = 0 ∧ hi / 2 ^ 20 = h / 2 ^ 20 ∧ hi / 2 ^ 16 % 16 = 0 ∧ hi.testBit 15 = true ∧ hi % 2 ^ 15 = 0 then some lo
  else none

/-- R321: the entries of a Sezin section of n bytes. -/
def sezinOk (n : Nat) (bs : List Byte) : Bool :=
  (List.range (bs.length / 16)).all fun i =>
    let f := fieldOf (bs.drop (16 * i))
    decide (f 0 1 ≤ 1) && f 2 2 == 0 && f 12 4 == 0 && decide (bs.length ≤ f 4 4) && decide (f 4 4 + f 8 4 ≤ n)

/-- R321, R322: the Sezin section at an address passes. -/
def sezinRead (ctx va n : Nat) (s : State) : State × Got9 :=
  if n = 0 then (s, .bytes [])
  else if n < 16 then (s, .fail)
  else
    match devGet ctx va 16 s with
    | (s, .bytes bs) =>
      let m := fieldOf bs 4 4
      if m = 0 ∨ m % 16 ≠ 0 ∨ m > n then (s, .fail)
      else
        match devGet ctx va m s with
        | (s, .bytes es) => (s, if sezinOk n es then .bytes [] else .fail)
        | r => r
    | r => r

/-- R315, R333: the word at an offset of the text is a clause header. -/
def headerAt (ctx text len off : Nat) (s : State) : State × Got9 :=
  if off % 4 ≠ 0 ∨ off ≥ len then (s, .fail)
  else
    match devGet ctx (text + off) 4 s with
    | (s, .bytes bs) => (s, if leNat bs / 2 ^ 29 = 5 then .bytes [] else .fail)
    | r => r

/-- What a check of several reads answers. -/
inductive Chk (α : Type) where
  | ok (x : α)
  | wait
  | bad
  deriving DecidableEq, Repr

/-- Goes on after a read. -/
def chain {α : Type} (r : State × Got9) (f : List Byte → State → State × Chk α) : State × Chk α :=
  match r with
  | (s, .bytes bs) => f bs s
  | (s, .wait) => (s, .wait)
  | (s, .fail) => (s, .bad)

/-- R312, R315: the object that a handle names. -/
def readObject (ctx handle : Nat) (s : State) : State × Chk Obj :=
  let slot := handle % 2 ^ 20
  if slot = 0 ∨ slot ≥ (ctxOf s ctx).objcount then (s, .bad)
  else
    chain (devGet ctx ((ctxOf s ctx).objbase + 16 * slot) 16 s) fun e s =>
      match forwarding e handle with
      | none => (s, .bad)
      | some base =>
        chain (devGet ctx base 64 s) fun h s =>
          let f := fieldOf h
          if headerOk h then
            chain (sezinRead ctx (base + f 56 4) (f 60 4) s) fun _ s =>
              (s, .ok { base := base, text := f 16 4, textLen := f 20 4, points := f 24 4, npoints := f 28 4, graphs := f 40 4
                        ngraphs := f 44 4 })
          else (s, .bad)

/-- R315: the object of a packet, with its entry and its handler. -/
def packetObject (ctx : Nat) (p : Packet) (s : State) : State × Chk Obj :=
  match readObject ctx p.object s with
  | (s, .ok o) =>
    chain (headerAt ctx (o.base + o.text) o.textLen p.entry s) fun _ s =>
      chain (if p.handler = 0xFFFFFFFF then (s, .bytes []) else headerAt ctx (o.base + o.text) o.textLen p.handler s) fun _ s =>
        (s, .ok o)
  | r => r

/-- R218, R227, R412: graph image idx of an object, read to check a packet. -/
def readGraph (ctx : Nat) (o : Obj) (idx : Nat) (s : State) : State × Chk Graph :=
  if idx ≥ o.ngraphs then (s, .bad)
  else
    let va := o.base + o.graphs + 8 * idx
    chain (devGet ctx va 8 s) fun e s =>
      let n := fieldOf e 4 4
      if devPoison ctx va 8 s then (consume ctx s, .bad)
      else if n < 324 ∨ n > 832 then (s, .bad)
      else
        chain (devGet ctx (o.base + fieldOf e 0 4) n s) fun bs s =>
          if devPoison ctx (o.base + fieldOf e 0 4) n s then (consume ctx s, .bad)
          else (s, match parseGraph (bs.map (·.toNat)) with | some g => .ok g | none => .bad)

/-- R157: an entry of a segment table, where it is valid. -/
def parseSeg (i : Nat) (bs : List Byte) : Option Seg :=
  let n := leNat bs
  if n / 2 ^ 96 ≠ 0 ∨ n / 2 ^ 56 % 256 ≠ 0 ∨ n.testBit 3 = true ∨ n / 16 % 4 = 3 ∨ (i = 15 ∧ n / 256 ≠ 0) then none
  else some {
    limit := n / 2 ^ 64 % 2 ^ 32, base := n / 256 % 2 ^ 48 * 256, valid := n.testBit 7, sys := n.testBit 6, cls := n / 16 % 4
    x := n.testBit 2, w := n.testBit 1, r := n.testBit 0 }

/-- R157: the segment registers that a table of 256 bytes gives. -/
def readSegs (ctx va : Nat) (s : State) : State × Chk (List Seg) :=
  chain (devGet ctx va 256 s) fun bs s =>
    let es := (List.range 16).map fun i => parseSeg i ((bs.drop (16 * i)).take 16)
    (s, if es.all (·.isSome) then .ok (es.filterMap id) else .bad)

/-- R509: all of a list of addresses can be used. -/
def allUsable (ctx : Nat) (wr : Bool) : List Nat → State → State × Got9
  | [], s => (s, .bytes [])
  | a :: t, s =>
    match devUsable ctx a wr s with
    | (s, .bytes _) => allUsable ctx wr t s
    | r => r

/-- R288, R509: the addresses of the signal and the record that a packet gives. -/
def completionAddrs (p : Packet) : List Nat := [p.signal, p.record].filter (· != 0)

end Sys2Proof.Machine
end

