-- ==== Sys2Proof/Machine/Place.lean ====
section
/-! DEFINITION. What a pod needs, where it fits, and the blocks, warps and lanes that a dispatch makes (R26 to R28, R30, R32
to R34, R49, R137, R138, R145, R218, R219, R242, R248, R289, R295, R391, R480). -/

set_option Elab.async false

namespace Sys2Proof.Machine

/-- What a block demands of a core: warp slots in rounds of the quarters, register bytes, allocations, tile entries. -/
structure Need where
  warps : Nat
  /-- slots of one warp: 2 with a twin (R34) -/
  each : Nat
  regs : Nat
  alloc : List Nat
  tiles : Nat
  deriving DecidableEq, Repr

/-- R137: the allocations in bytes. -/
def allocBytes (p : Packet) : List Nat := p.alloc.zipWith (· * ·) [1024, 1024, 1024, 1024, 256]

/-- R136: the sizes of the five stores. -/
def storeSizes : List Nat := [131072, 196608, 393216, 196608, 16384]

/-- R30, R34: bytes of the register file that warps take. -/
def regBytes (warps wregs cls : Nat) : Nat := warps * wregs * 128 * (if cls = 2 then 2 else 1)

/-- What a block of a packet demands. -/
def needOf (p : Packet) : Need := {
  warps := warpsOf p, each := if p.cls = 2 then 2 else 1, regs := regBytes (warpsOf p) (8 * (p.wunits + 1)) p.cls
  alloc := allocBytes p, tiles := p.tiles }

/-- The blocks of a core but for some that are leaving. -/
def coreBlocks (s : State) (gone : List Nat) (core : Nat) : List (Nat × Block) :=
  s.blocks.filter fun e => e.2.core == core && !gone.contains e.1

/-- R33, R34: the warp slots taken in a quarter of a core. -/
def quarterLoad (s : State) (gone : List Nat) (core q : Nat) : Nat :=
  ((coreBlocks s gone core).map fun b =>
    (s.warps.filter fun e => e.2.bid == b.1 && e.2.quarter == q).length * (if b.2.cls = 2 then 2 else 1)).sum

/-- R33: the quarter with the fewest resident warps, the lowest on a tie. -/
def firstQuarter (s : State) (gone : List Nat) (core : Nat) : Nat :=
  (List.range 4).foldl (fun q i => if quarterLoad s gone core i < quarterLoad s gone core q then i else q) 0

/-- Free warp slots of a core (R295). -/
def freeSlots (s : State) (gone : List Nat) (core : Nat) : Nat :=
  64 - ((List.range 4).map fun q => quarterLoad s gone core q).sum

/-- R33, R34, R137, R145: a core can hold a block. -/
def coreHolds (s : State) (gone : List Nat) (n : Need) (core : Nat) : Bool :=
  let bs := coreBlocks s gone core
  let q0 := firstQuarter s gone core
  let sum := fun (f : Block → Nat) => (bs.map fun b => f b.2).sum
  ((List.range 4).all fun q =>
    decide (quarterLoad s gone core q + n.each * (((List.range n.warps).filter fun i => (q0 + i) % 4 == q).length) ≤ 16)) &&
  decide (sum (fun b => regBytes b.nwarps b.wregs b.cls) + n.regs ≤ 524288) &&
  ((List.range 5).all fun i => decide (sum (fun b => b.alloc.getD i 0) + n.alloc.getD i 0 ≤ storeSizes.getD i 0)) &&
  decide (sum (fun b => b.tilesN) + n.tiles ≤ 64)

/-- R295: the cores that the blocks of a pod take in one group, in ascending sr.pod. -/
def pickCores (s : State) (gone : List Nat) (n : Need) (group : Nat) : Nat → List Nat → Option (List Nat)
  | 0, taken => some taken
  | k + 1, taken =>
    let ok := ((List.range 12).map (12 * group + ·)).filter fun c => !taken.contains c && coreHolds s gone n c
    match ok with
    | [] => none
    | c :: t =>
      let best := t.foldl (fun b c => if freeSlots s gone c > freeSlots s gone b then c else b) c
      pickCores s gone n group k (taken ++ [best])

/-- An image that a pod's blocks need: context, object, graph. -/
abbrev Image := Nat × Nat × Nat

/-- R219: the images that the device is to bind for blocks of a group. -/
def bindingImages (s : State) (gone : List Nat) (group : Nat) : List Image :=
  s.copies.filterMap fun c =>
    if c.auto && c.core / 12 == group && !gone.contains c.bid then
      c.graph.map fun g => ((blkOf s c.bid).ctx, (gridOf s (blkOf s c.bid).gid).pkt.object, g)
    else none

/-- R219: a group can give each image a fabric context at once, beside those that it is binding. -/
def fabricHolds (s : State) (gone : List Nat) (group : Nat) (images : List Image) : Bool :=
  let fabs := (List.range 4).map fun i => lget ({} : Fab) (4 * group + i) s.fabs
  let used := fabs.filter fun f => f.blocks.any fun b => !gone.contains b
  let lacking := (bindingImages s gone group ++ images).eraseDups.filter fun im =>
    !used.any fun f => f.ctx == im.1 && f.object == im.2.1 && f.graph == im.2.2
  decide (lacking.length + used.length ≤ 4)

/-- R295: the cores of the first group that can hold a pod of k blocks whole. -/
def podSpot (s : State) (gone : List Nat) (n : Need) (k : Nat) (images : List Image) : Option (List Nat) :=
  let free := fun g => ((List.range 12).map fun c => freeSlots s gone (12 * g + c)).sum
  (sortBy (fun g => 768 - free g) (List.range 16)).findSome? fun g =>
    if fabricHolds s gone g images then pickCores s gone n g k [] else none

/-- R291, reason 8: a pod of the packet fits a device that holds nothing. -/
def fitsEmpty (p : Packet) : Bool :=
  (podSpot { State.reset with blocks := [], warps := [], fabs := [] } [] (needOf p) p.pod []).isSome

/-- R49: the role of warp i: copy, matrix, vector, general. -/
def roleAt (p : Packet) (i : Nat) : Nat :=
  let r := fun k => p.roles.getD k 0
  if i < r 0 then 0 else if i < r 0 + r 1 then 1 else if i < r 0 + r 1 + r 2 then 2 else 3

/-- R26, R32: the launched lanes of warp i at dispatch. -/
def newLanes (p : Packet) (i : Nat) : SMap Lane :=
  ((List.range 32).filter fun l => decide (32 * i + l < lanes4 p)).map fun l =>
    (l, { pc := BitVec.ofNat 32 p.entry, helper := decide (p.lanes ≤ 32 * i + l) })

/-- R43, R289, R480: the registers of warp i at dispatch; bl is the block's number of R480. -/
def newRegs (p : Packet) (gid bl i : Nat) : Regs :=
  { q := (List.range (min 16 (8 * (p.qunits + 1)))).foldl (fun m k => lset 0 k (p.args.getD k 0) m) []
    rng := (newLanes p i).foldl (fun m e => lset 0 e.1 (rngSeed gid bl (32 * i + e.1)) m) []
    masks := [(0, laneSet ((newLanes p i).map (·.1)))] }

/-- R26, R32, R49: warp i of a block at dispatch. -/
def newWarp (p : Packet) (gid bl bid i quarter : Nat) : Warp :=
  { bid := bid, num := i, role := roleAt p i, quarter := quarter, r := newRegs p gid bl i, tw := newRegs p gid bl i
    lanes := newLanes p i }

/-- The slot number that a block takes on its core, which its tiles' owner field shows (R146). Which one, the spec does not say:
the model takes the lowest that no block of the core has (DESIGN CHOICE, log 44). -/
def freeSlot (s : State) (core : Nat) : Nat :=
  ((List.range 65).find? fun n => !(coreBlocks s [] core).any fun b => b.2.slot == n).getD 0

/-- R194: a pod tag that no unfinished pod has. -/
def freePodTag (s : State) : Nat :=
  let used := s.blocks.map (fun e => e.2.podTag) ++ s.husks.map fun e => e.2.blk.podTag
  ((List.range (used.length + 1)).find? fun n => !used.contains n).getD 0

/-- R248: the checkpoint of a block as it stands. -/
def checkpointNow (bid : Nat) (s : State) : State :=
  let sv : Saved := {
    blk := blkOf s bid, warps := s.warps.filter fun e => e.2.bid == bid, mats := s.mats.filter fun m => m.bid == bid
    locks := s.locks.filter fun l => l.bid == bid }
  if (blkOf s bid).cls = 2 then { s with ckpts := lput bid sv s.ckpts } else s

/-- R33, R289, R512: dispatches one block of a grid onto a core. -/
def placeBlock (g : Grid) (x y z tag core : Nat) (s : State) : State :=
  let p := g.pkt
  let bid := s.nextId
  let n := warpsOf p
  let wks := (List.range n).map (bid + 1 + ·)
  let q0 := firstQuarter s [] core
  let bl := x + p.x * (y + p.y * z)
  let b : Block := {
    gid := g.gid, ctx := g.ctx, core := core, slot := freeSlot s core, x := x, y := y, z := z, pod := x % p.pod, podTag := tag
    order := bid, placed := bid, nwarps := n, wks := wks, wregs := 8 * (p.wunits + 1), qregs := 8 * (p.qunits + 1), tilesN := p.tiles
    cls := p.cls, alloc := allocBytes p }
  let s := { s with
    nextId := bid + 1 + n
    blocks := lput bid b s.blocks
    warps := (List.range n).foldl (fun m i => lput (bid + 1 + i) (newWarp p g.gid bl bid i ((q0 + i) % 4)) m) s.warps }
  checkpointNow bid (if p.graph = 0xFFFFFFFF then s else autoBind bid p.graph s)

/-- The pods of a packet's grid. -/
def podCount (p : Packet) : Nat := p.x / p.pod * p.y * p.z

/-- R28, R295: dispatches the next pod of a grid onto cores. -/
def placePod (gid : Nat) (cores : List Nat) (s : State) : State :=
  let g := gridOf s gid
  let xn := g.pkt.x / g.pkt.pod
  let xp := g.placed % xn
  let tag := if g.pkt.pod = 1 then 0xFFFFF else freePodTag s
  let s := (List.range g.pkt.pod).foldl (fun s i =>
    placeBlock g (xp * g.pkt.pod + i) (g.placed / xn % g.pkt.y) (g.placed / (xn * g.pkt.y)) tag (cores.getD i 0) s) s
  modGrid gid (fun g => { g with placed := g.placed + 1 }) s

end Sys2Proof.Machine
end

