-- ==== Sys2Proof/Machine/Husk.lean ====
section
/-! DEFINITION. Stopping warps, live registers and stores, husks, and the save and the restoration of blocks (R219, R248,
R285, R297 to R303, R511). -/

set_option Elab.async false

namespace Sys2Proof.Machine

/-- R297: what is live: bits by register and by store. -/
structure Live where
  w : Nat := 0
  q : Nat := 0
  p : Nat := 0
  e : Nat := 0
  st : Nat := 0
  deriving DecidableEq, Repr

/-- Every register and store. -/
def Live.all : Live := ⟨2 ^ 128 - 1, 2 ^ 64 - 1, 2 ^ 16 - 1, 2 ^ 8 - 1, 31⟩

/-- What is live in one or the other. -/
def Live.join (a b : Live) : Live := ⟨Nat.lor a.w b.w, Nat.lor a.q b.q, Nat.lor a.p b.p, Nat.lor a.e b.e, Nat.lor a.st b.st⟩

/-- R297: the live sets of an entry of the point table. -/
def pointLive (e : List Byte) : Live := ⟨fieldOf e 4 16, fieldOf e 20 8, fieldOf e 28 2, fieldOf e 30 1, fieldOf e 31 1⟩

/-- R297, R298: what a lane's standing place keeps live. A lane that stands at no point keeps everything. -/
def laneLive (table : List (Nat × List Byte)) (forced : Bool) (x : Lane) : Live :=
  if x.exited then ({} : Live)
  else if forced || heldAtPoint x then .all
  else match table.find? fun e => e.1 == x.pc.toNat with | some e => pointLive e.2 | none => .all

/-- R299: what a warp's lanes keep live. -/
def warpLive (table : List (Nat × List Byte)) (w : Warp) : Live :=
  w.lanes.foldl (fun l e => Live.join l (laneLive table w.forced e.2)) ({} : Live)

/-- R299: registers that are not live read as zero after resume. -/
def trimRegs (l : Live) (r : Regs) : Regs :=
  { r with
    w := r.w.filter fun e => l.w.testBit (e.1 / 32)
    q := r.q.filter fun e => l.q.testBit e.1
    p := r.p.filter fun e => l.p.testBit (e.1 / 32)
    e := r.e.filter fun e => l.e.testBit (e.1 / 32) }

/-- R238: the failing words of registers that are live. -/
def liveBad (l : Live) (bad : List (Nat × Nat × Nat)) : List (Nat × Nat × Nat) :=
  bad.filter fun e => (match e.1 with | 0 => l.w | 1 => l.q | 2 => l.p | _ => l.e).testBit e.2.1

/-- R302: the code of a unit of 32 words. -/
def unitCode (ws : List Word) : Nat :=
  if ws.all (· == 0) then 1
  else if ws.all (· == ws.headD 0) then 2
  else if ws.all fun w => decide (-128 ≤ w.toInt) && decide (w.toInt ≤ 127) then 3
  else 0

/-- R302: the stored bytes of a unit. -/
def unitBytes (code : Nat) (ws : List Word) : List Byte :=
  match code with
  | 1 => []
  | 2 => leBytes 4 (ws.headD 0).toNat
  | 3 => ws.map (·.setWidth 8)
  | _ => (ws.map fun w => leBytes 4 w.toNat).flatten

/-- R302: the words of a unit, from the 128 bytes of its slot. -/
def slotWords (code : Nat) (bs : List Byte) : List Word :=
  match code with
  | 1 => List.replicate 32 0
  | 2 => List.replicate 32 (BitVec.ofNat 32 (leNat (bs.take 4)))
  | 3 => (List.range 32).map fun l => (bs.getD l 0).signExtend 32
  | _ => (List.range 32).map fun l => BitVec.ofNat 32 (leNat ((bs.drop (4 * l)).take 4))

/-- A register unit: the word of each lane. -/
def laneUnit (m : SMap Word) (r : Nat) : List Word := (List.range 32).map fun l => lget 0 (32 * r + l) m

/-- R301: a warp's predicates, those of lane l in word l. -/
def predUnit (m : SMap Bool) : List Word :=
  (List.range 32).map fun l => ((List.range 16).filter fun i => lget false (32 * i + l) m).foldl
    (fun w i => w ||| BitVec.ofNat 32 (2 ^ i)) 0

/-- R301: 128 bytes of a local store as words. -/
def storeUnitWords (b : Block) (sp k : Nat) : List Word :=
  (List.range 32).map fun l => BitVec.ofNat 32 (leNat (storeBytes b sp (128 * k + 4 * l) 4))

/-- R301: the units of a block's data section, in order. -/
def huskUnits (b : Block) (ws : List (Nat × Warp)) : List (List Word) :=
  (ws.map fun e => (List.range b.wregs).map fun r => laneUnit e.2.r.w r).flatten ++
  (ws.map fun e => (List.range 8).map fun r => laneUnit e.2.r.e r).flatten ++
  (ws.map fun e => predUnit e.2.r.p) ++
  ((List.range 5).map fun sp => (List.range (b.alloc.getD sp 0 / 128)).map fun k => storeUnitWords b sp k).flatten

/-- The bytes of a husk's control section (log 14). -/
def controlLen : Nat := 256

/-- The bytes that a husk of n units takes of the save area. -/
def huskLen (n : Nat) : Nat := controlLen + 128 * n

/-- R301: the number of units of a block. -/
def unitCount (b : Block) : Nat :=
  b.nwarps * (b.wregs + 9) + ((List.range 5).map fun sp => b.alloc.getD sp 0 / 128).sum

/-- The lowest place of the save area that no husk of the context takes (log 14). -/
def freeHusk (ctx len : Nat) (s : State) : Nat :=
  let mine := (s.husks.filter fun e => e.2.blk.ctx == ctx).map fun e => (e.2.off, e.2.off + huskLen (unitCount e.2.blk))
  let free := fun o => !mine.any fun m => decide (o < m.2) && decide (m.1 < o + len)
  ((sortBy id (0 :: mine.map (·.2))).find? free).getD 0

/-- Writes into a save area; what lies beyond its size is dropped (R509, log 14). -/
def saveWrite (ctx off : Nat) (bs : List Byte) (s : State) : State :=
  physWrite ((ctxOf s ctx).savebase + off) (bs.take ((ctxOf s ctx).savesize - off)) s

/-- Bytes that the spec leaves undefined (log 1). -/
def freeBytes (n : Nat) (s : State) : State × List Byte :=
  ({ s with frees := s.frees + n }, (List.range n).map fun i => Config.freeByte (s.frees + i))

/-- Reads a save area; what lies beyond its size is free (log 14). -/
def saveRead (ctx off n : Nat) (s : State) : State × List Byte :=
  let size := (ctxOf s ctx).savesize
  if off + n ≤ size then (s, physRead s ((ctxOf s ctx).savebase + off) n) else freeBytes n s

/-- R301, R302: writes the units from a place on; the rest of each slot is undefined. -/
def writeUnits (ctx : Nat) : Nat → List (List Word) → State → State
  | _, [], s => s
  | off, u :: t, s =>
    let bs := unitBytes (unitCode u) u
    let r := freeBytes (128 - bs.length) s
    writeUnits ctx (off + 128) t (saveWrite ctx off (bs ++ r.2) r.1)

/-- R303: the summary bits: one for each span of 512 units. -/
def summaries (codes : List Nat) : List Bool :=
  (List.range ((codes.length + 511) / 512)).map fun i => ((codes.drop (512 * i)).take 512).all (· == 0)

/-- R303: the code of unit i as the metadata gives it. -/
def codeOf (sv : Saved) (i : Nat) : Nat := if sv.sums.getD (i / 512) false then 0 else sv.codes.getD i 0

/-- R301: the units of a husk as its save area and its metadata give them. -/
def readUnits (sv : Saved) : Nat → Nat → State → State × List (List Word)
  | 0, _, s => (s, [])
  | n + 1, i, s =>
    let r := saveRead sv.blk.ctx (sv.off + controlLen + 128 * i) 128 s
    let t := readUnits sv n (i + 1) r.1
    (t.1, slotWords (codeOf sv i) r.2 :: t.2)

/-- A map of lanes' registers from units, unit i holding register i. -/
def regsFrom (us : List (List Word)) : SMap Word :=
  (List.range us.length).foldl (fun m r => (List.range 32).foldl (fun m l => lset 0 (32 * r + l) ((us.getD r []).getD l 0) m) m) []

/-- A map of predicates from a unit. -/
def predsFrom (u : List Word) : SMap Bool :=
  (List.range 16).foldl (fun m i => (List.range 32).foldl (fun m l => lset false (32 * i + l) ((u.getD l 0).getLsbD i) m) m) []

/-- R301: a block's local stores from its units. -/
def storesFrom (b : Block) (us : List (List Word)) : SMap Byte :=
  let sizes := (List.range 5).map fun sp => b.alloc.getD sp 0 / 128
  (List.range 5).foldl (fun m sp =>
    let skip := (sizes.take sp).sum
    (List.range (sizes.getD sp 0)).foldl (fun m k =>
      (List.range 128).foldl (fun m i =>
        lset 0 (storeKey sp (128 * k + i)) (((us.getD (skip + k) []).getD (i / 4) 0).extractLsb' (8 * (i % 4)) 8) m) m) m) []

/-- R298: a lane counts as stopped: it stands at a point, or a faulting load, atomic or fetch holds it. -/
def laneStopped (s : State) (bid : Nat) (x : Lane) : Bool :=
  atPoint s bid x || (match x.hold with | .load _ => true | .fetch _ => true | _ => false)

/-- R298, R171: every access that a load still waits for is a faulting one. -/
def loadFaulting (s : State) (o : LoadOp) : Bool :=
  o.await == 0 && o.accs.all fun a => a.done || (a.wait != 0 && s.faults.any fun f => f.key == a.wait && f.kind != 9)

/-- R298, step 3: what a load or atomic still waits for is cancelled; the lanes whose data have come take them, and the
sectors that are not performed leave the release store count (R192). -/
def cancelLoad (wk : Nat) (o : LoadOp) (s : State) : State :=
  let left := ordinary s wk (o.accs.filter fun a => !a.done)
  let n := if o.rmw.isSome then (sectorsOf left).length else 0
  finishLoad wk { o with accs := if o.uniform then [] else o.accs.filter fun a => a.done }
    (modWarp wk (fun w => { w with rsc := w.rsc - n }) s)

/-- A lane that a load or a fetch holds stands at its instruction again, which it issues afresh (R298, R317). -/
def freshLane (x : Lane) : Lane :=
  { x with hold := match x.hold with | .load _ => .none | .fetch _ => .none | h => h }

/-- R298, step 3, for a warp. -/
def cancelLoads (wk : Nat) (s : State) : State :=
  modWarp wk (fun w => { w with
      lanes := lmap (fun l x => if w.owed.any fun o => o.1.getLsbD l then x else freshLane x) w.lanes })
    ((warpOf s wk).loads.foldl (fun s o => cancelLoad wk o s) s)

/-- WARP_STOPPED: every lane of a warp whose block is to stop stands at a point, or the warp has been forced, and its
outstanding loads have completed; those that await a page are cancelled (R298, R317). -/
def execWarpStopped (wk : Nat) (s : State) : Out State :=
  let w := warpOf s wk
  if (blkOf s w.bid).stopAt.isSome && !w.stopped && (w.forced || w.lanes.all fun e => laneStopped s w.bid e.2) &&
      w.loads.all (loadFaulting s) then
    .next (modWarp wk (fun w => { w with stopped := true }) (cancelLoads wk s))
  else .next s

/-- 100 µs in cycles of 1.2 GHz (R6, R298). -/
def forceCycles : Nat := 120000

/-- R298, step 4: 100 µs after the decision the warp's lanes have not all reached points. CODEMOVE does not force (R317). -/
def forceDue (s : State) (w : Warp) : Bool :=
  match (blkOf s w.bid).stopAt with
  | some t =>
    decide (s.clock ≥ t + forceCycles) && !w.stopped && !w.forced && !(blkOf s w.bid).moveStop &&
      !(w.lanes.all fun e => laneStopped s w.bid e.2)
  | none => false

/-- FORCED_STOP: every lane of the warp stops where it stands (R298, step 4). -/
def execForcedStop (wk : Nat) (s : State) : Out State :=
  if forceDue s (warpOf s wk) then .next (modWarp wk (fun w => { w with forced := true }) s) else .next s

/-- R248: a block has no store in flight and no side-log entry. -/
def storesDone (s : State) (bid : Nat) : Bool := !(s.side.any fun e => e.bid == bid) && !(s.stores.any fun e => e.bid == bid)

/-- R248, R249: what an Assured block's checkpoint waits for, but for its engine operations. -/
def intervalDone (s : State) (bid : Nat) : Bool :=
  storesDone s bid && s.warps.all fun e => e.2.bid != bid || (e.2.rsc == 0 && e.2.trace.isEmpty && e.2.cmps.isEmpty)

/-- R244, R299: the warp has stopped, and its twin has followed it. An action that is agreed and not performed issues anew
after the resume. -/
def warpSettled (w : Warp) : Bool := w.stopped && w.trace.isEmpty && w.cmps.all fun c => c.kind == .held && c.agreed

/-- R134: a matrix operation that a save takes along: an MLOOP, or one that has not started behind an MLOOP of its block. -/
def matSaved (s : State) (m : MatOp) : Bool :=
  m.kind == .mloop || (!m.started && s.mats.any fun o => o.bid == m.bid && o.kind == .mloop && decide (o.id < m.id))

/-- R299: a block is ready to be saved. -/
def saveReady (s : State) (bid : Nat) : Bool :=
  let b := blkOf s bid
  b.stopAt.isSome && !b.moveStop && s.warps.all (fun e => e.2.bid != bid || warpSettled e.2) && storesDone s bid &&
    !(s.copies.any fun c => c.bid == bid) && s.mats.all fun m => m.bid != bid || matSaved s m

/-- R270: a staged write to a revisioned page goes to the page that its revision now has. -/
def followStaged (s : State) (bid : Nat) (x : Staged) : Staged :=
  if x.vpn = 0 then x
  else
    match viewPage (blkOf s bid).ctx (revOf s bid) (x.vpn - 1) s with
    | some p => { x with bytes := x.bytes.map fun e => (p + e.1 % 4096, e.2) }
    | none => x

/-- R271: the revisioned pages to which a block's staged copies write and that its revision does not own since its latest
fork point. -/
def frozenPages (s : State) (bid : Nat) : List Nat :=
  let b := blkOf s bid
  (((b.staged.filter fun x => x.vpn != 0).map fun x => x.vpn - 1).eraseDups).filter fun v =>
    match lfind (pageKey b.ctx (revOf s bid) v) s.revmap with
    | some p => !p.own
    | none => revOf s bid != 0 || (ctxOf s b.ctx).rootForked

/-- R271: a commit waits for the copy-on-write steps of its staged writes. -/
def requestPages (bid : Nat) (s : State) : State :=
  let b := blkOf s bid
  (frozenPages s bid).foldl (fun s v => (raiseFault b.ctx (revOf s bid) (v * 4096) 9 0 b.core s).2) s

/-- R250: performs a block's staged writes in issue order, copy by copy. -/
def performStaged (bid : Nat) (s : State) : State :=
  let b := blkOf s bid
  let ops := (sortBy id (b.staged.map fun x => x.op)).eraseDups
  ops.foldl (fun s o => engWrites b.core b.ctx ((b.staged.filter fun x => x.op == o).map (followStaged s bid)) s) s

/-- R250: an interval commits: its lines are written through, then its staged copies are performed in issue order. -/
def commitInterval (bid : Nat) (s : State) : State :=
  if (blkOf s bid).cls = 2 then
    modBlk bid (fun b => { b with staged := [], journal := [], badLog := [], exposed := false, tries := 0 })
      (performStaged bid (flushUncommitted bid s))
  else s

/-- R238, R243, R254: a save of a block reads a failing word: one of a live register or store, or of its control state (log 35). -/
def saveFails (bid : Nat) (s : State) : Bool :=
  let b := blkOf s bid
  let table := pointTable (gridOf s b.gid) s
  let ws := s.warps.filter fun e => e.2.bid == bid
  let st := (ws.foldl (fun l e => Live.join l (warpLive table e.2)) ({} : Live)).st
  !b.badCtl.isEmpty || (b.bad.any fun e => st.testBit (4 * e.1 / 2 ^ 20)) ||
    ws.any fun e => !((liveBad (warpLive table e.2) e.2.r.bad).isEmpty && (liveBad (warpLive table e.2) e.2.tw.bad).isEmpty)

/-- R238, R251, R254: the failing words that a save reads: an Assured block rolls back, and is not saved; otherwise the error is
consumed once for each block, and the words read as zero. -/
def readForSave (pod : List Nat) (s : State) : State × Bool :=
  match pod.find? fun b => (blkOf s b).cls == 2 && saveFails b s with
  | some b => (rollback b 0x20 s, true)
  | none => ((pod.filter fun b => saveFails b s).foldl (fun s b => consume (blkOf s b).ctx s) s, false)

/-- R238, R248, R271: the end of an interval: an uncommitted word that has failed rolls the block back; a page that a staged
write must copy first is waited for; otherwise the interval may commit. -/
def whenCommits (bid : Nat) (s : State) (f : State → State) : State :=
  if (blkOf s bid).cls ≠ 2 then f s
  else if !(blkOf s bid).badLines.isEmpty then rollback bid 0x20 s
  else if !(frozenPages s bid).isEmpty then requestPages bid s
  else f s

/-- A register copy as it is saved: what is live, without pending marks. -/
def savedRegs (l : Live) (r : Regs) : Regs := { trimRegs l r with marks := [], bad := [] }

/-- R298, R299, R511: a warp as it is saved. -/
def savedWarp (table : List (Nat × List Byte)) (w : Warp) : Warp :=
  let l := warpLive table w
  { w with
    r := savedRegs l w.r
    tw := savedRegs l w.tw
    lanes := lmap (fun _ (x : Lane) => { x with
      skip := 0, bubble := 0, watch := 0, group := 0, stood := false, refetch := x.clause.isSome
      hold := match x.hold with | .compare => .none | h => h }) w.lanes
    acquiring := false
    pass := 0
    yielded := false
    twPass := 0
    twYielded := false
    cmps := []
    fetched := []
    stopped := false
    forced := false }

/-- R301: the 256 bytes of the control section that the device writes under a number: their layout is its own (log 14). -/
def controlBytes (n : Nat) : List Byte := (List.range controlLen).map fun i => (Config.huskControl n).getD i 0

/-- R299, R301: saves one block: its husk is written, and it leaves its core. -/
def saveBlock (bid : Nat) (s : State) : State :=
  let s := commitInterval bid s
  let table := pointTable (gridOf s (blkOf s bid).gid) s
  let ws := s.warps.filter fun e => e.2.bid == bid
  let live := ws.foldl (fun l e => Live.join l (warpLive table e.2)) ({} : Live)
  let b := { blkOf s bid with ls := (blkOf s bid).ls.filter fun e => live.st.testBit (e.1 / 2 ^ 20), bad := [], badCtl := [], stopAt := none }
  let ws := ws.map fun e => (e.1, savedWarp table e.2)
  let us := huskUnits b ws
  let codes := us.map unitCode
  let off := freeHusk b.ctx (huskLen us.length) s
  let id := freshId s
  let s := writeUnits b.ctx (off + controlLen) us (saveWrite b.ctx off (controlBytes id.1) id.2)
  let sv : Saved := {
    blk := b, warps := ws, off := off, num := id.1, codes := codes, sums := summaries codes
    mats := s.mats.filter fun m => m.bid == bid, locks := s.locks.filter fun l => l.bid == bid }
  let reqs := s.forkReqs.filter fun r => !b.wks.contains r.wk || r.done.isSome || r.refuse.isSome
  let s := dropBlock bid s
  { s with husks := lput bid sv s.husks, saves := lput sv.num (bid, sv) s.saves, forkReqs := reqs }

/-- BLOCK_SAVE: the blocks of a pod that is ready are saved together (R28, R134, R299). -/
def execBlockSave (bid : Nat) (s : State) : Out State :=
  let pod := podMembers s bid
  if (blkOf s bid).stopAt.isSome && pod.all (saveReady s) then
    .next (whenCommits bid s fun s =>
      match readForSave pod s with
      | (s, true) => s
      | (s, false) => pod.foldl (fun s b => saveBlock b s) (pod.foldl (fun s b => pauseLoops b s) s))
  else .next s

/-- R299, R301: a warp's registers from the units of its husk; the twin's copies are part of the control state. -/
def restoredWarp (b : Block) (us : List (List Word)) (i q : Nat) (w : Warp) : Warp :=
  let n := b.nwarps
  { w with
    quarter := q
    cntSeen := w.cnt
    r := { w.r with
      w := regsFrom ((us.drop (i * b.wregs)).take b.wregs)
      e := regsFrom ((us.drop (n * b.wregs + 8 * i)).take 8)
      p := predsFrom (us.getD (n * (b.wregs + 8) + i) []) } }

/-- R301: the device's own record of the husk whose control section lies at an offset: that of the husk itself, or the record of
another control section of the context, of an earlier save or of another block, whose bytes the host has put there. Bytes that the
device did not write leave the block as its record has it: the spec gives them no effect (log 14). -/
def husksAt (bid : Nat) (sv : Saved) (bs : List Byte) (s : State) : Saved :=
  if bs = controlBytes sv.num then sv
  else match s.saves.find? fun e => e.2.2.blk.ctx == sv.blk.ctx && bs == controlBytes e.1 with
    | some e => if e.2.2.blk.gid = sv.blk.gid ∧ e.2.2.blk.nwarps = sv.blk.nwarps then adopt e.2.1 sv e.2.2 else sv
    | none => sv
where
  /-- The key of the block's warp in the place of another one's. -/
  warpIn (own other : Saved) (wk : Nat) : Nat :=
    (((other.warps.zip own.warps).find? fun e => e.1.1 == wk).map fun e => e.2.1).getD wk
  /-- The block's own key in the place of another one's. -/
  blkIn (from' b : Nat) : Nat := if b = from' then bid else b
  /-- A block with another control state: its warps, its matrix operations, its range locks and its returned bindings. -/
  adopt (from' : Nat) (own other : Saved) : Saved :=
    { own with
      blk := { other.blk with
        podTag := own.blk.podTag, order := own.blk.order, wks := own.blk.wks
        returned := other.blk.returned.map fun c => { c with bid := blkIn from' c.bid, wk := warpIn own other c.wk } }
      warps := own.warps.zipWith (fun a b => (a.1, { b.2 with bid := a.2.bid })) other.warps
      mats := other.mats.map fun m => { m with
        bid := blkIn from' m.bid, wk := warpIn own other m.wk, members := m.members.map (blkIn from')
        prog := m.prog.map fun e => (blkIn from' e.1, e.2) }
      locks := other.locks.map fun l => { l with bid := blkIn from' l.bid } }

/-- R295, R299: restores a saved block onto a core. -/
def restoreBlock (bid core : Nat) (s : State) : State :=
  match lfind bid s.husks with
  | none => s
  | some own =>
    let c := saveRead own.blk.ctx own.off controlLen s
    let sv := husksAt bid own c.2 c.1
    let n := unitCount sv.blk
    let r := readUnits sv n 0 c.1
    let us := r.2
    let s := r.1
    let q0 := firstQuarter s [] core
    let b := { sv.blk with
      core := core, slot := freeSlot s core, placed := s.nextId
      ls := storesFrom sv.blk (us.drop (sv.blk.nwarps * (sv.blk.wregs + 9))) }
    let ws := sv.warps.map fun e => (e.1, restoredWarp b us e.2.num ((q0 + e.2.num) % 4) e.2)
    let s := { s with
      nextId := s.nextId + 1
      husks := ldel bid s.husks
      blocks := lput bid { b with bind := none } s.blocks
      warps := ws.foldl (fun m e => lput e.1 e.2 m) s.warps
      mats := sortBy (·.id) (s.mats ++ sv.mats.map fun m => { m with core := core })
      locks := s.locks ++ sv.locks.map fun l => { l with core := core } }
    checkpointNow bid (match sv.blk.bind with | some idx => autoBind bid idx s | none => s)

end Sys2Proof.Machine
end

