-- ==== Sys2Proof/Machine/Power.lean ====
section
/-! DEFINITION. Supply, pins, reset, bring-up, firmware and power limiting (R23, R24, R324, R329, R331, R332). -/

set_option Elab.async false

namespace Sys2Proof.Machine

/-- R324, R331, R332: the device as a reset leaves it. Host and peer memory, the messages sent and the inputs to come lie
outside it; the supply, the pins and the fuses keep their values (log 23). -/
def resetDevice (s : State) : State :=
  { State.reset with
    pw := { s.pw with
      step := 0, recovery := false, trained := false, secver := 0, fwbody := 0, fwversion := 0
      limit := if s.pw.fuse then 720 else 400, limited := false, withheld := 0, alertn := true }
    agenda := s.agenda
    frees := s.frees
    mem := s.mem.filter fun e => !isLocal e.1
    sent := s.sent }

/-- R331, R332: the device has power and is out of reset. -/
def powered (s : State) : Bool := s.pw.rails && s.pw.perst

/-- R332: the mailbox and the registers are ready. -/
def hostReady (s : State) : Bool := powered s && s.pw.step == 3

/-- PERSTN_FALL: the fundamental reset is driven (R331). -/
def execPerstnFall (s : State) : Out State := .next { resetDevice s with pw := { (resetDevice s).pw with perst := false } }

/-- PERSTN_RISE: the fundamental reset ends and bring-up begins (R332). -/
def execPerstnRise (s : State) : Out State :=
  if s.pw.perst then .next s else .next { resetDevice s with pw := { (resetDevice s).pw with perst := true } }

/-- SUPPLY_LOSS: the supply input is lost, and PWRGD drops (R331). -/
def execSupplyLoss (s : State) : Out State :=
  .next { resetDevice s with pw := { (resetDevice s).pw with supply := false, rails := false } }

/-- SUPPLY_RETURN: the supply returns, the rails come into regulation, and a thermal shutdown is cleared (R331). -/
def execSupplyReturn (s : State) : Out State :=
  if s.pw.supply then .next s
  else .next { resetDevice s with pw := { (resetDevice s).pw with supply := true, rails := true, thermal := false } }

/-- THERMAL_SHUTDOWN: the die rails are removed and THERMN is driven low (R331). -/
def execThermalShutdown (s : State) : Out State :=
  if s.pw.rails then .next { resetDevice s with pw := { (resetDevice s).pw with rails := false, thermal := true } } else .next s

/-- R329: an image passes the boot ROM's checks. -/
def imageOk (image : FwImage) (s : State) : Bool :=
  Config.sigOk image.body image.sig && decide (s.pw.rollback ≤ image.secver)

/-- R329: a verified image runs; one with a higher security version advances the fused counter by one. -/
def runImage (image : FwImage) (s : State) : State :=
  { s with pw := { s.pw with
      recovery := false, fwbody := image.body, fwversion := image.version, secver := image.secver
      rollback := if s.pw.rollback < image.secver then s.pw.rollback + 1 else s.pw.rollback } }

/-- FIRMWARE_VERIFICATION: the boot ROM verifies the image of the flash, or enters recovery mode (R329, R332). -/
def execFirmwareVerification (image : FwImage) (s : State) : Out State :=
  if powered s && s.pw.step == 0 then
    let s := { s with pw := { s.pw with step := 1 } }
    .next (if imageOk image s then runImage image s else { s with pw := { s.pw with recovery := true } })
  else .next s

/-- PORT0_LINK_TRAINING (R332). -/
def execPort0LinkTraining (s : State) : Out State :=
  if powered s && s.pw.step == 1 then .next { s with pw := { s.pw with step := 2 } } else .next s

/-- MEMORY_TRAINING: the 24 channels are trained, and the device is ready (R332). -/
def execMemoryTraining (s : State) : Out State :=
  if powered s && s.pw.step == 2 then .next { s with pw := { s.pw with step := 3, trained := true } } else .next s

/-- POWER_LIMIT_EXCEEDED: Xanyaz withholds issue cycles (R23). -/
def execPowerLimitExceeded (s : State) : Out State :=
  if powered s then .next { s with pw := { s.pw with limited := true } } else .next s

/-- POWER_BELOW_LIMIT (R23). -/
def execPowerBelowLimit (s : State) : Out State := .next { s with pw := { s.pw with limited := false, withheld := 0 } }

/-- DEVICE_RESET_WRITE: 0xA5A5 resets the device as by PERSTN; other values are ignored (R324). -/
def execDeviceResetWrite (v : BitVec 64) (s : State) : Out State :=
  if hostReady s && v == 0xA5A5 then .next (resetDevice s) else .next s

end Sys2Proof.Machine
end

