-- ==== Sys2Proof/Machine/Sched.lean ====
section
/-! DEFINITION. Launch queues, the checks of packets, dispatch, pre-emption, and the end of blocks (R163, R201, R202, R286 to
R296, R309, R311, R407, R509, R512). -/

set_option Elab.async false

namespace Sys2Proof.Machine

/-- What the checks of a packet answer (R291). -/
inductive Checked where
  | pass (obj : Obj) (segs : List Seg)
  | wait
  | reject (reason : Nat)
  deriving DecidableEq, Repr

/-- R291: reason 7: the graph that a packet names. -/
def checkGraph (ctx : Nat) (o : Obj) (p : Packet) (s : State) : State × Chk Unit :=
  if p.graph = 0xFFFFFFFF then (s, .ok ())
  else
    match readGraph ctx o p.graph s with
    | (s, .ok _) => (s, .ok ())
    | (s, .wait) => (s, .wait)
    | (s, .bad) => (s, .bad)

/-- R291, R509: reason 9: every address of a packet can be used. -/
def checkAddrs (ctx : Nat) (p : Packet) (s : State) : State × Got9 :=
  match allUsable ctx false ((p.waits.take p.nsig).map (·.1)) s with
  | (s, .bytes _) => allUsable ctx true (completionAddrs p) s
  | r => r

/-- R163, R291: the checks of a packet, by reason. An invalid ptroot is reason 6, checked first of those that read memory
(log 31). -/
def checkPacket (ctx : Nat) (p : Packet) (s : State) : State × Checked :=
  if packetReason p ≠ 0 then (s, .reject (packetReason p))
  else if !rootValid (ctxOf s ctx).ptroot then (s, .reject 6)
  else
    match readSegs ctx p.segtab s with
    | (s, .wait) => (s, .wait)
    | (s, .bad) => (s, .reject 5)
    | (s, .ok segs) =>
      match packetObject ctx p s with
      | (s, .wait) => (s, .wait)
      | (s, .bad) => (s, .reject 6)
      | (s, .ok o) =>
        match checkGraph ctx o p s with
        | (s, .wait) => (s, .wait)
        | (s, .bad) => (s, .reject 7)
        | (s, .ok _) =>
          if !fitsEmpty p then (s, .reject 8)
          else
            match checkAddrs ctx p s with
            | (s, .bytes _) => (s, .pass o segs)
            | (s, .wait) => (s, .wait)
            | (s, .fail) => (s, .reject 9)

/-- R325: the context of a queue. -/
def Queue.ctx (q : Queue) : Nat := (q.control >>> 8).toNat % 64

/-- R325: the queue is enabled. -/
def Queue.enabled (q : Queue) : Bool := q.control.getLsbD 31

/-- R286, R325: the slot count. -/
def Queue.slots (q : Queue) : Nat := 2 ^ (q.control.toNat % 16 + 4)

/-- R286, R287, R294: the queue has a head that stands for selection. -/
def Queue.hasHead (q : Queue) : Bool := q.enabled && !q.reported && !q.sel && decide (q.rdidx < q.wridx)

/-- R286, R509: the packet at a queue's head. -/
def headPacket (q : Queue) (s : State) : Packet := parsePacket (physRead s (q.base + 256 * (q.rdidx % q.slots)) 256)

/-- R287: the arrival time of a queue's head. -/
def Queue.arrival (q : Queue) (now : Nat) : Nat :=
  match q.arrivals.find? fun e => decide (e.1 > q.rdidx) with
  | some e => e.2
  | none => now

/-- QUEUE_DOORBELL: the host writes a queue's write index (R286, R287, R325). -/
def execQueueDoorbell (queue : Nat) (v : BitVec 64) (s : State) : Out State :=
  if queue ≥ 128 ∨ hostReady s = false then .next s
  else .next (repoll (modQueue queue (fun q => { q with
    wridx := v.toNat
    arrivals := if v.toNat > q.wridx then q.arrivals ++ [(v.toNat, timeOf s)] else q.arrivals }) s))

/-- R290, R509: a wait entry is satisfied. One whose page is answered unresolvable stays unsatisfied until the packet's next check
rejects it. -/
def waitEntry (ctx : Nat) (e : Nat × Nat) (s : State) : State × Bool :=
  match devTranslate ctx e.1 false true s with
  | (s, .ok k) =>
    let s := touch (k / 32) s
    (s, decide (readNat s k 8 ≥ e.2))
  | (s, r) => ((devPage ctx e.1 4 r s).1, false)

/-- R290: every wait entry of a packet is satisfied. -/
def waitsMet (ctx : Nat) : List (Nat × Nat) → State → State × Bool
  | [], s => (s, true)
  | e :: t, s =>
    match waitEntry ctx e s with
    | (s, true) => waitsMet ctx t s
    | r => r

/-- The wait entries of a packet. -/
def waitList (p : Packet) : List (Nat × Nat) := p.waits.take p.nsig

/-- WAIT_WORD_POLL: the device reads the wait words of every head and of every forked packet that awaits dispatch
(R290). -/
def execWaitWordPoll (s : State) : Out State :=
  let s := { s with polled := max (timeOf s) 1 }
  let s := (s.queues.map (·.1)).foldl (fun s q =>
    let x := lget {} q s.queues
    if x.hasHead then
      let r := waitsMet x.ctx (waitList (headPacket x s)) s
      modQueue q (fun x => { x with ready := r.2 }) r.1
    else s) s
  .next (s.forks.foldl (fun s e =>
    match e.2.pending with
    | some p =>
      let r := waitsMet e.2.ctx (waitList p) s
      { r.1 with forks := lmod e.1 (fun f => { f with ready := r.2 }) r.1.forks }
    | none => s) s)

/-- Where a candidate for selection comes from. -/
inductive Src where
  | head (queue : Nat) (pkt : Packet) (obj : Obj) (segs : List Seg)
  | fork (slot : Nat) (pkt : Packet) (obj : Obj) (segs : List Seg)
  | grid (gid : Nat)
  deriving DecidableEq, Repr

/-- A candidate for dispatch (R293). -/
structure Cand where
  deadline : Nat
  queue : Nat
  src : Src
  deriving DecidableEq, Repr

/-- R256, R296, R310: nothing of a context is dispatched. -/
def ctxBlocked (s : State) (ctx : Nat) : Bool :=
  let c := ctxOf s ctx
  c.suspend || c.failed || c.exhausted

/-- R317: a CODEMOVE holds the dispatch of an object's blocks. -/
def movingObject (s : State) (ctx object : Nat) : Bool :=
  match s.rw.running with
  | some (0x54, [c, h, _]) => c == ctx && h == object
  | _ => false

/-- R272: a task is out until revision space has a page. -/
def revisionOut (s : State) (ctx rev : Nat) : Bool := s.faults.any fun f => f.ctx == ctx && f.rev == rev && f.kind == 10 && f.out

/-- R293: a packet without a deadline takes its arrival time plus 100 ms. -/
def effDeadline (p : Packet) (arrival : Nat) : Nat := if p.deadline = 0 then arrival + 100000000 else p.deadline

/-- R269: the handle of a fork slot. -/
def forkHandle (slot : Nat) (f : Fork) : Word := BitVec.ofNat 32 (f.gen % 4096 * 2 ^ 20 + slot)

/-- R277: a forked packet that does not run. -/
def endFork (slot status : Nat) (s : State) : State :=
  { s with forks := lmod slot (fun f => { f with pending := none, verdict := none, state := if f.state = 1 then 2 else f.state, status := status }) s.forks }

/-- R291: a packet's rejection stands while its completion awaits a page: the packet is not read again. -/
def keepVerdict (queue : Nat) (slot : Option Nat) (v : Nat × Nat) (s : State) : State :=
  match slot with
  | some n => { s with forks := lmod n (fun f => { f with verdict := some v }) s.forks }
  | none => modQueue queue (fun q => { q with verdict := some v }) s

/-- R291, R292: a packet leaves without running: its completion, then the queue's head or the fork's slot goes on, then an
event record. The answer is false where its completion waits for a page. -/
def dismiss (ctx : Nat) (pkt : Packet) (queue : Nat) (slot : Option Nat) (status reason : Nat) (s : State) : State × Bool :=
  match completionWrites ctx pkt queue status reason s with
  | (s, false) => (keepVerdict queue slot (status, reason) s, false)
  | (s, true) =>
    let tpc := match slot with | some _ => queue + 2 ^ 31 | none => queue
    let addr := match slot with
      | some n => (forkHandle n (lget {} n s.forks)).toNat
      | none => (lget ({} : Queue) queue s.queues).rdidx % 2 ^ 32
    let s := match slot with | some n => endFork n status s | none => advanceQueue queue s
    (repoll (if status = 2 then eventRecord ctx 7 0 0xFF 0 tpc addr s else s), true)

/-- What a scan of heads and forked packets finds: the candidates, or that a packet has been rejected. -/
structure Scan where
  st : State
  cands : List Cand := []
  stop : Bool := false
  deriving DecidableEq, Repr

/-- The verdict that a packet at a queue's head, or of a fork's slot, awaits the completion of. -/
def verdictOf (queue : Nat) (slot : Option Nat) (s : State) : Option (Nat × Nat) :=
  match slot with
  | some n => (lget ({} : Fork) n s.forks).verdict
  | none => (lget ({} : Queue) queue s.queues).verdict

/-- A packet's rejection ends the scan where the packet has left. -/
def scanReject (d : State × Bool) (x : Scan) : Scan := { x with st := d.1, stop := d.2 }

/-- Checks one packet that stands for selection (R291, R293). One that has a verdict only awaits its completion. -/
def scanPacket (ctx : Nat) (pkt : Packet) (queue : Nat) (slot : Option Nat) (ready : Bool) (arrival : Nat) (x : Scan) : Scan :=
  match verdictOf queue slot x.st with
  | some v => scanReject (dismiss ctx pkt queue slot v.1 v.2 x.st) x
  | none =>
  match checkPacket ctx pkt x.st with
  | (s, .wait) => { x with st := s }
  | (s, .reject r) => scanReject (dismiss ctx pkt queue slot 2 r s) x
  | (s, .pass o segs) =>
    if (ready || pkt.nsig == 0) && !ctxBlocked s ctx && !movingObject s ctx pkt.object then
      let src := match slot with | some n => Src.fork n pkt o segs | none => .head queue pkt o segs
      { x with st := s, cands := x.cands ++ [⟨effDeadline pkt arrival, queue, src⟩] }
    else { x with st := s }

/-- The heads of the queues. -/
def scanHeads (x : Scan) : Scan :=
  (x.st.queues.map (·.1)).foldl (fun x q =>
    let y := lget {} q x.st.queues
    if x.stop || !y.hasHead then x
    else scanPacket y.ctx (headPacket y x.st) q none y.ready (y.arrival (timeOf x.st)) x) x

/-- The forked packets that await their selection. -/
def scanForks (x : Scan) : Scan :=
  x.st.forks.foldl (fun x e =>
    match e.2.pending with
    | some p => if x.stop then x else scanPacket e.2.ctx p e.2.queue (some e.1) e.2.ready e.2.arrival x
    | none => x) x

/-- The saved blocks of a grid. -/
def savedBlocks (s : State) (gid : Nat) : List (Nat × Saved) := s.husks.filter fun e => e.2.blk.gid == gid

/-- R293: grids that still have pods to place. -/
def scanGrids (s : State) : List Cand :=
  (s.grids.filter fun e =>
    e.2.final.isNone && (decide (e.2.placed < podCount e.2.pkt) || !(savedBlocks s e.1).isEmpty) && !ctxBlocked s e.2.ctx &&
      !movingObject s e.2.ctx e.2.pkt.object && !revisionOut s e.2.ctx e.2.fork).map fun e => ⟨e.2.deadline, e.2.queue, .grid e.1⟩

/-- R293: the earliest deadline, ties round-robin by queue number after the queue of the last decision. Among candidates of
one queue that tie, the spec leaves the choice open (log 1). -/
def choose (s : State) (cs : List Cand) : State × Option Cand :=
  let rank := fun (c : Cand) => (c.queue + 255 - s.lastQueue) % 128
  let best := cs.filter fun c => cs.all fun d =>
    decide (c.deadline < d.deadline) || (c.deadline == d.deadline && decide (rank c ≤ rank d))
  match best with
  | [] => (s, none)
  | [c] => (s, some c)
  | _ =>
    let r := freeNat s
    (r.2, best[(Config.freeWord r.1).toNat % best.length]?)

/-- R512: the next value of the device-wide count. -/
def nextGid (n : Nat) : Nat := n % 0xFFFFFFFF + 1

/-- R512: a packet is selected: its grid comes to be. -/
def makeGrid (ctx : Nat) (pkt : Packet) (o : Obj) (segs : List Seg) (queue idx fork deadline : Nat) (s : State) : Nat × State :=
  let gid := nextGid s.gridCount
  let g : Grid := {
    gid := gid, ctx := ctx, pkt := pkt, queue := queue, idx := idx, fork := fork
    depth := if fork = 0 then 0 else (lget ({} : Fork) fork s.forks).depth
    deadline := deadline, obj := o, segs := segs, order := s.nextId, left := pkt.x * pkt.y * pkt.z }
  (gid, { s with
    gridCount := gid, nextId := s.nextId + 1, grids := lput gid g s.grids
    forks := if fork = 0 then s.forks else lmod fork (fun f => { f with pending := none, child := gid }) s.forks
    queues := if fork = 0 then lmod queue (fun q => { q with sel := true }) s.queues else s.queues })

/-- The blocks of a grid's next pod to restore: those of its lowest saved block's pod (R28, R295). -/
def savedPod (s : State) (gid : Nat) : List Nat :=
  match savedBlocks s gid with
  | [] => []
  | e :: t =>
    if e.2.blk.podTag = 0xFFFFF then [e.1]
    else (sortBy (fun x => x.2.blk.pod) ((e :: t).filter fun x => x.2.blk.podTag == e.2.blk.podTag)).map (·.1)

/-- R219: the images that a grid's next pod needs. -/
def nextImages (s : State) (gid : Nat) : List Image :=
  let g := gridOf s gid
  match savedPod s gid with
  | [] => if g.pkt.graph = 0xFFFFFFFF then [] else [(g.ctx, g.pkt.object, g.pkt.graph)]
  | bs => bs.filterMap fun b => match lfind b s.husks with
    | some sv => sv.blk.bind.map fun i => (g.ctx, g.pkt.object, i)
    | none => none

/-- R295: where a grid's next pod fits, without some blocks. -/
def nextSpot (s : State) (gone : List Nat) (gid : Nat) : Option (List Nat) :=
  let g := gridOf s gid
  let n := (savedPod s gid).length
  podSpot s gone (needOf g.pkt) (if n = 0 then g.pkt.pod else n) (nextImages s gid)

/-- R201, R293, R295: places a grid's next pod onto cores, as an acquire. -/
def placeNext (gid : Nat) (cores : List Nat) (s : State) : State :=
  let g := gridOf s gid
  let s := cores.foldl (fun s c => l1Clear c s) s
  match savedPod s gid with
  | [] => placePod gid cores (if g.placed = 0 ∧ g.fork = 0 then advanceQueue g.queue s else s)
  | bs => (bs.zip cores).foldl (fun s (e : Nat × Nat) => restoreBlock e.1 e.2 s) s

/-- R296: the running grids that a candidate may pre-empt, the latest deadline first, the most recently dispatched on a
tie. -/
def victims (s : State) (gid : Nat) : List Nat :=
  let g := gridOf s gid
  let runs := s.grids.filter fun e =>
    e.1 != gid && decide (e.2.deadline > g.deadline + 1000 * s.margin) && s.blocks.any fun b => b.2.gid == e.1
  let top := runs.foldl (fun m e => max m (max e.2.deadline e.2.order)) 0
  (sortBy (fun e => (top - e.2.deadline) * (top + 1) + (top - e.2.order)) runs).map (·.1)

/-- R28, R296: the resident pods of a grid that nothing stops, the most recently placed first. -/
def residentPods (s : State) (gid : Nat) : List (List Nat) :=
  let mine := s.blocks.filter fun b => b.2.gid == gid && b.2.stopAt.isNone
  let top := mine.foldl (fun m b => max m b.2.placed) 0
  let pods := (sortBy (fun b => top - b.2.placed) mine).map fun b =>
    if b.2.podTag = 0xFFFFF then [b.1] else (mine.filter fun c => c.2.podTag == b.2.podTag).map (·.1)
  pods.eraseDups

/-- R296: stops pods in order until the candidate's pod fits. -/
def stopUntil (gid : Nat) : List (List Nat) → List Nat → State → State
  | [], _, s => s
  | p :: t, gone, s =>
    if (nextSpot s gone gid).isSome then s
    else stopUntil gid t (gone ++ p) (p.foldl (fun s b => stopBlock b s) s)

/-- R296: a candidate that finds no room pre-empts. -/
def preempt (gid : Nat) (s : State) : State :=
  let gone := (s.blocks.filter fun b => b.2.stopAt.isSome && !b.2.moveStop).map (·.1)
  stopUntil gid ((victims s gid).map (residentPods s)).flatten gone s

/-- R293, R295, R296: a selected grid places its next pod, or pre-empts, or waits. -/
def tryPlace (gid : Nat) (s : State) : State :=
  match nextSpot s [] gid with
  | some cores => placeNext gid cores s
  | none => preempt gid s

/-- R294: a packet is late at its first selection. -/
def isLate (pkt : Packet) (s : State) : Bool := pkt.deadline != 0 && decide (pkt.deadline < timeOf s)

/-- R294, R512: a head is selected. -/
def selectHead (queue : Nat) (pkt : Packet) (o : Obj) (segs : List Seg) (deadline : Nat) (s : State) : State :=
  let q := lget ({} : Queue) queue s.queues
  if q.act = some 1 ∨ (q.act = none ∧ isLate pkt s = true ∧ pkt.late = 1) then (dismiss q.ctx pkt queue none 1 0 s).1
  else if q.act = none ∧ isLate pkt s = true ∧ pkt.late = 2 then
    eventRecord q.ctx 6 0 0xFF 0 queue (q.rdidx % 2 ^ 32) (modQueue queue (fun q => { q with reported := true }) s)
  else
    let r := makeGrid q.ctx pkt o segs queue q.rdidx 0 deadline s
    tryPlace r.1 r.2

/-- R294, R512: a forked packet is selected. -/
def selectFork (slot : Nat) (pkt : Packet) (o : Obj) (segs : List Seg) (deadline : Nat) (s : State) : State :=
  let f := lget ({} : Fork) slot s.forks
  if isLate pkt s && pkt.late == 1 then (dismiss f.ctx pkt f.queue (some slot) 1 0 s).1
  else
    let s := if isLate pkt s && pkt.late == 2 then
        eventRecord f.ctx 6 0 0xFF 0 (f.queue + 2 ^ 31) (forkHandle slot f).toNat s
      else s
    let r := makeGrid f.ctx pkt o segs f.queue 0 slot deadline s
    tryPlace r.1 r.2

/-- DISPATCH_DECISION: a packet is rejected, or one candidate is taken, whose queue is that of the last decision (R291 to
R296). -/
def execDispatchDecision (s : State) : Out State :=
  if s.pw.step ≠ 3 then .next s
  else
    let x := scanForks (scanHeads { st := s })
    if x.stop then .next x.st
    else
      match choose x.st (x.cands ++ scanGrids x.st) with
      | (s, none) => .next s
      | (s, some c) =>
        let s := { s with lastQueue := c.queue }
        match c.src with
        | .head q pkt o segs => .next (selectHead q pkt o segs c.deadline s)
        | .fork n pkt o segs => .next (selectFork n pkt o segs c.deadline s)
        | .grid gid => .next (tryPlace gid s)

/-- R407: a block's warps have ended and nothing of it is under way. A pod loop that another member drives is an operation of that
member alone: it does not keep this block, whose part of the loop, flags and NaN stop end with it (DESIGN CHOICE, log 43). -/
def endReady (s : State) (bid : Nat) : Bool :=
  blockEnded s bid && !(s.copies.any fun c => c.bid == bid) && !(s.mats.any fun m => m.bid == bid) && intervalDone s bid &&
    s.warps.all fun e => e.2.bid != bid || e.2.loads.isEmpty

/-- R202, R407: what the end of a block leaves. One that no TRIGGER has triggered is triggered by it. -/
def endBlock (bid : Nat) (s : State) : State :=
  let s := triggerBlock bid (commitInterval bid s)
  let gid := (blkOf s bid).gid
  let s := dropBlock bid s
  modGrid gid (fun g => { g with left := g.left - 1, done := g.left == 1 }) s

/-- BLOCK_END (R202, R218, R407). -/
def execBlockEnd (bid : Nat) (s : State) : Out State :=
  if endReady s bid then .next (whenCommits bid s (endBlock bid)) else .next s

end Sys2Proof.Machine
end

