-- ==== Sys2Proof/Machine/Twin.lean ====
section
/-! DEFINITION. The comparison of a lead's actions with its twin's, and checkpoints at barriers (R244 to R251, R383,
R384). -/

set_option Elab.async false

namespace Sys2Proof.Machine

/-- R246: what an agreed comparison lets go: nothing, the accesses in flight that carry its number, the writes of an STL, or
the whole instruction, which its lanes then issue. -/
def letGo (wk : Nat) (c : Cmp) (s : State) : State :=
  match c.kind with
  | .read => dropCmp wk c.id s
  | .flight =>
    let s := dropCmp wk c.id { s with
      stores := s.stores.map fun t => if t.wk == wk && t.await == c.id then { t with await := 0 } else t
      side := s.side.map fun e => if e.wk == wk && e.await == c.id then { e with await := 0 } else e }
    ((warpOf s wk).loads.filter fun o => o.await == c.id).foldl (fun s o => settleLoad wk { o with await := 0 } s) s
  | .stl => storeLocal c.iss.bid wk c.puts (dropCmp wk c.id s)
  | .held =>
    modWarp wk (modLanes c.iss.lanes fun x => if x.hold == .compare && x.pc == c.iss.pc then { x with hold := .none } else x)
      (modCmp wk c.id (fun c => { c with agreed := true }) s)

/-- TWIN_COMPARE: the compare buffer's oldest entry of a warp whose twin has brought its action: where lanes and operands
agree, the action goes on; a difference rolls the block back (R246, R251). The cause that a kill would then report, the spec
leaves open (log 1). -/
def execTwinCompare (wk : Nat) (s : State) : Out State :=
  match (warpOf s wk).cmps.find? fun c => c.twin.isSome && !c.agreed with
  | none => .next s
  | some c =>
    if c.twin = some (c.act, c.ops) then .next (letGo wk c s)
    else
      let r := freeNat s
      .next (rollback (warpOf s wk).bid ((Config.freeWord r.1).toNat % 256) r.2)

/-- R383, R471: the barriers of a block, or of its pod of one, at which every warp has arrived. -/
def fullBarriers (s : State) (bid : Nat) (pod : Bool) (n : Nat) : List Nat :=
  (List.range n).filter fun b =>
    let arr := arrivals s bid pod b
    let x := lget {} b (if pod then (blkOf s bid).pbars else (blkOf s bid).bars)
    arr != 0 && (missing (blkOf s bid).nwarps x arr).isEmpty

/-- R248: the four conditions of a checkpoint at a barrier. -/
def checkpointReady (s : State) (bid : Nat) : Bool :=
  intervalDone s bid && !(s.copies.any fun c => c.bid == bid) && !(s.mats.any fun m => m.bid == bid) &&
    s.warps.all fun e => e.2.bid != bid || e.2.cnt.isEmpty

/-- R248 to R250, R384: the checkpoint of a block at barriers: the interval commits, the barriers release, and the block's
control state is recorded. -/
def takeCheckpoint (bid : Nat) (bars pbars : List Nat) (s : State) : State :=
  let s := commitInterval bid s
  let s := bars.foldl (fun s b => releaseBarrier bid false b s) s
  checkpointNow bid (pbars.foldl (fun s b => releaseBarrier bid true b s) s)

/-- ASSURED_CHECKPOINT: the block's warps have all arrived at a barrier, and its interval may end (R248 to R250, R384). -/
def execAssuredCheckpoint (bid : Nat) (s : State) : Out State :=
  let bars := fullBarriers s bid false 16
  let pbars := fullBarriers s bid true 4
  if (blkOf s bid).cls = 2 ∧ (blkOf s bid).stopAt = none ∧ checkpointReady s bid = true ∧ (bars ≠ [] ∨ pbars ≠ []) then
    .next (whenCommits bid s (takeCheckpoint bid bars pbars))
  else .next s

end Sys2Proof.Machine
end

