-- ==== Sys2Proof/Machine/Revision.lean ====
section
/-! DEFINITION. Forks, copy-on-write, revision space, joins and merges, and the completion of grids (R203, R263 to R285, R292,
R497 to R499, R509). -/

set_option Elab.async false

namespace Sys2Proof.Machine

/-- R268: the launch packet's and the join record's addresses of a TFORK. -/
def pairAddr (s : State) (r : Nat) : Nat := (readQ s (r + 1)).toNat % 2 ^ 24 * 2 ^ 32 + (readQ s r).toNat

/-- R268: a pair whose upper word holds bits above 23. -/
def pairHigh (s : State) (r : Nat) : Bool := (readQ s (r + 1)).toNat / 2 ^ 24 != 0

/-- R268: the request that a TFORK of a warp has at the revision engine. -/
def forkReqOf (s : State) (wk : Nat) (pc : Word) : Option ForkReq := s.forkReqs.find? fun r => r.wk == wk && r.pc == pc

/-- Removes the request of a TFORK. -/
def dropReq (wk : Nat) (pc : Word) (s : State) : State :=
  { s with forkReqs := s.forkReqs.filter fun r => !(r.wk == wk && r.pc == pc) }

/-- R203, R268, R270, R284: a TFORK reaches the revision engine, as a release at device scope. The interval that it exposes it
exposes now; the trap for that follows the fork (R252). -/
def requestFork (packet record : Nat) (s : State) : State :=
  let t := exposeInterval s.iss.bid s
  let lane := if (blkOf s s.iss.bid).exposed = (blkOf t s.iss.bid).exposed then 0 else lowestLane (active s 0) + 1
  let id := freshId t
  { id.2 with forkReqs := id.2.forkReqs ++ [{
      wk := s.iss.wk, pc := s.iss.pc, packet := packet, record := record, order := id.1, exposed := lane }] }

/-- R252, R284: a TFORK whose fork has been performed: an interval that a save has begun since its request is exposed too, and the
trap of the exposure follows the instruction. A refused TFORK raises none (log 45). -/
def forkExposed (lane : Nat) (s : State) : State :=
  if lane = 0 then expose s.iss.bid s.iss.wk (lowestLane (active s 0)) s
  else exposureTrap s.iss.bid s.iss.wk (lane - 1) (exposeInterval s.iss.bid s)

/-- TFORK (R203, R268 to R270, R284, R497). -/
def execTfork (d a b : BitVec 6) (s : State) : Out State :=
  issue (.tfork d a b) s fun s => uniformly 0 s fun s =>
    match forkReqOf s s.iss.wk s.iss.pc with
    | some r =>
      match r.done, r.refuse with
      | some h, _ => .next (forkExposed r.exposed (writeQ d.toNat h (dropReq r.wk r.pc s)))
      | none, some c => .trap (dropReq r.wk r.pc s) c.1 c.2
      | none, none => .hold
    | none =>
      let p := pairAddr s a.toNat
      let q := pairAddr s b.toNat
      if pairHigh s a.toNat || pairHigh s b.toNat then .trap s 0x03 0
      else if p % 256 ≠ 0 then .trap s 0x01 p
      else if q % 64 ≠ 0 then .trap s 0x01 q
      else whenReleased s fun s => .holdKeep (requestFork p q s)

/-- R269, R274, R278: the fork slot that a handle of the issuing task names. -/
def handleFork (h : Word) (s : State) : Option (Nat × Fork) :=
  let slot := h.toNat % 512
  if h.toNat / 512 % 2048 ≠ 0 ∨ slot = 0 ∨ slot > 256 then none
  else
    match lfind slot s.forks with
    | some f => if f.gen = h.toNat / 2 ^ 20 ∧ f.parent = (curBlk s).gid ∧ f.parent ≠ 0 then some (slot, f) else none
    | none => none

/-- TPOLL (R278, R499). -/
def execTpoll (d a : BitVec 6) (s : State) : Out State :=
  issue (.tpoll d a) s fun s => uniformly 0 s fun s =>
    let h := readQ s a.toNat
    match handleFork h s with
    | none => .trap s 0x10 h.toNat
    | some (_, f) =>
      let v : Word := if f.state = 0 then 3 else if f.claim.isSome then 2 else if f.state = 2 then 1 else 0
      .next (writeQ d.toNat v s)

/-- R270: an earlier TFORK of a context is still at the revision engine. -/
def forksPending (s : State) (ctx : Nat) : Bool :=
  s.forkReqs.any fun r => r.done.isNone && r.refuse.isNone && (blkOf s (warpOf s r.wk).bid).ctx == ctx

/-- TJOIN (R203, R252, R274, R498). -/
def execTjoin (a : BitVec 6) (sel : BitVec 1) (s : State) : Out State :=
  issue (.tjoin a sel) s fun s =>
    let c := counterOf sel s
    if active s 0 = 0 then emptyOperation c s
    else
      let h := readQ s a.toNat
      if counterFull c s || !releaseReady (curWarp s) || forksPending s (curBlk s).ctx then .hold
      else
        match handleFork h s with
        | some (n, f) =>
          if f.claim.isSome ∨ f.state = 0 then .trap s 0x10 h.toNat
          else
            let s := expose s.iss.bid s.iss.wk (lowestLane (active s 0)) s
            let id := freshId s
            .next (countUp c { id.2 with
              forks := lmod n (fun f => { f with claim := some (s.iss.wk, c, s.iss.bid), claimOrder := id.1 }) id.2.forks })
        | none => .trap s 0x10 h.toNat

/-- R270: the request that the revision engine performs next for a context: the earliest that is undecided. -/
def nextReq (s : State) (r : ForkReq) : Bool :=
  let ctx := (blkOf s (warpOf s r.wk).bid).ctx
  !s.forkReqs.any fun x => decide (x.order < r.order) && x.done.isNone && x.refuse.isNone && (blkOf s (warpOf s x.wk).bid).ctx == ctx

/-- Settles a request; the answers that its accesses waited for have been used. -/
def settleReq (r : ForkReq) (done : Option Word) (refuse : Option (Nat × Nat)) (s : State) : State :=
  let s := devForget (blkOf s (warpOf s r.wk).bid).ctx s
  { s with forkReqs := s.forkReqs.map fun x => if x.order == r.order then { x with done := done, refuse := refuse } else x }

/-- R268, R509: an address of a TFORK: usable; to be waited for; or refused with a cause. -/
def forkAddr (ctx va : Nat) (wr : Bool) (s : State) : State × Except (Option Nat) Unit :=
  match devTranslate ctx va wr false s with
  | (s, .ok _) => (s, .ok ())
  | (s, .own _) => (s, .ok ())
  | (s, .fail c) => (s, .error (some c))
  | (s, r) =>
    let w := devPage ctx va (if wr then 5 else 4) r s
    (w.1, .error (if w.2 then none else some 0x07))

/-- R268: the addresses of a TFORK in order: the packet, and the pages of the join record of 576 bytes. -/
def forkAddrs (ctx : Nat) : List (Nat × Bool) → State → State × Except (Option (Nat × Nat)) Unit
  | [], s => (s, .ok ())
  | (va, wr) :: t, s =>
    match forkAddr ctx va wr s with
    | (s, .ok _) => forkAddrs ctx t s
    | (s, .error none) => (s, .error none)
    | (s, .error (some c)) => (s, .error (some (c, va)))

/-- R269: the lowest-numbered free fork slot. -/
def freeFork (s : State) : Option Nat := ((List.range 256).map (· + 1)).find? fun n => (lget ({} : Fork) n s.forks).state == 0

/-- The revisioned pages of a revision, by page number. -/
def revPages (s : State) (ctx rev : Nat) : List (Nat × RevPage) :=
  (s.revmap.filter fun e => e.1 / 2 ^ 44 == ctx * 512 + rev).map fun e => (e.1 % 2 ^ 44, e.2)

/-- R269, R270: the fork point: the parent's view is frozen, the child's revision made with it, and the packet goes to
dispatch. -/
def takeFork (gid n : Nat) (r : ForkReq) (regions : List Region) (pkt : Packet) (s : State) : State :=
  let g := gridOf s gid
  let gen := ((lget ({} : Fork) n s.forks).gen + 1) % 4096
  let pages := revPages s g.ctx g.fork
  let f : Fork := {
    gen := gen, state := 1, ctx := g.ctx, parent := gid, parentRev := g.fork, depth := g.depth + 1, order := r.order, regions := regions
    anc := pages.map fun e => (e.1, e.2.pa), record := r.record, pending := some pkt, arrival := timeOf s, queue := g.queue }
  let old := s.revmap.map fun e => if e.1 / 2 ^ 44 = g.ctx * 512 + g.fork then (e.1, { e.2 with own := false }) else e
  let s := { s with
    forks := lput n f s.forks
    revmap := pages.foldl (fun m e => lput (pageKey g.ctx n e.1) { pa := e.2.pa, own := false } m) old
    tlb := s.tlb.filter fun e => !(tlbCtx e.1 == g.ctx && tlbRev e.1 == g.fork && e.2.rev) }
  repoll (if g.fork = 0 then modCtx g.ctx (fun c => { c with rootForked := true }) s else s)

/-- R270: an atomic of a warp to a revisioned page is in flight. -/
def atomicOpen (w : Warp) : Bool := w.loads.any fun o => o.rmw.isSome && o.accs.any fun a => !a.done && a.vpn != 0

/-- R270: every write that was made through an entry granting write to a revisioned page has been performed: stores,
reductions and atomics in flight, and the uncommitted writes of Assured intervals. What a copy has staged has not been written
yet: its commit takes the copy-on-write step (log 45). -/
def writesDone (s : State) (ctx rev : Nat) : Bool :=
  let mine := fun (b : Nat) => (blkOf s b).ctx == ctx && revOf s b == rev
  !(s.stores.any fun o => o.ctx == ctx && o.rev == rev && o.vpn != 0) &&
    !(s.warps.any fun e => mine e.2.bid && atomicOpen e.2) && !s.blocks.any fun e => mine e.1 && !e.2.uVpn.isEmpty

/-- R264, R270, R509: the region table at a fork point; none where the page must be awaited. -/
def forkRegions (ctx : Nat) (s : State) : State × Except Bool (List Region) :=
  match regionTable ctx s with
  | (s, .ok (some rs)) => (s, .ok rs)
  | (s, .ok none) => (s, .error false)
  | (s, .error r) =>
    let w := devPage ctx (absentVa ctx (ctxOf s ctx).regbase (16 * (ctxOf s ctx).regcount) s) 4 r s
    (w.1, .error w.2)

/-- R268 to R270: the revision engine performs a request, refuses it, or waits. -/
def performFork (r : ForkReq) (s : State) : State :=
  let gid := (blkOf s (warpOf s r.wk).bid).gid
  let g := gridOf s gid
  match forkRegions g.ctx s with
  | (s, .error true) => s
  | (s, .error false) => settleReq r none (some (0x01, 0)) s
  | (s, .ok regions) =>
    match forkAddrs g.ctx ((r.packet, false) :: if r.record = 0 then [] else (rangePages r.record 576).map fun a => (a, true)) s with
    | (s, .error none) => s
    | (s, .error (some c)) => settleReq r none (some c) s
    | (s, .ok _) =>
      match freeFork s with
      | none => settleReq r none (some (0x0F, g.depth * 4096 + g.fork)) s
      | some n =>
        if g.depth ≥ 8 then settleReq r none (some (0x0F, g.depth * 4096 + g.fork)) s
        else
          match devReadVirt g.ctx r.packet false 2 256 s with
          | (s, .ok bs) =>
            let s := takeFork gid n r regions (parsePacket bs) s
            settleReq r (some (forkHandle n (lget {} n s.forks))) none s
          | (s, .error _) => s

/-- R268, R285: a lane of the warp still stands at the TFORK. -/
def standsAt (s : State) (r : ForkReq) : Bool :=
  (warpOf s r.wk).lanes.any fun e => e.2.pc == r.pc && !e.2.exited

/-- FORK_POINT: the revision engine takes the request of a warp (R268 to R270). -/
def execForkPoint (wk : Nat) (s : State) : Out State :=
  match s.forkReqs.find? fun r => r.wk == wk && r.done.isNone && r.refuse.isNone with
  | none => .next s
  | some r =>
    let b := blkOf s (warpOf s wk).bid
    if !standsAt s r then .next (dropReq wk r.pc s)
    else if nextReq s r && writesDone s b.ctx (revOf s (warpOf s wk).bid) then .next (performFork r s)
    else .next s

/-- Copies 4 KiB between local pages, with their poison (R271, R280). No first-level cache holds an old line of the copy. -/
def copyPage (src dst : Nat) (s : State) : State :=
  (List.range 128).foldl (fun s i =>
    let k := src + 32 * i
    let s := touch (k / 32) s
    if !(paOnline s (dst + 32 * i)) then s
    else if poisoned s (k / 32) then writePoison (dst / 32 + i) s
    else sliceWrite (dst + 32 * i) (readBytes s k 32) (.set none) s) (l1DropAll dst 4096 s)

/-- R272: a step finds its stack empty: the host is told once, and the access waits. -/
def spaceFault (f : FaultRec) (cls : Nat) (s : State) : State :=
  if f.kind = 10 then s
  else eventRecord f.ctx 5 0 0xFF 0 0 cls { s with
    faults := s.faults.map fun x => if x.key == f.key then { x with kind := 10, cls := cls, clk := s.clock, out := false } else x }

/-- R271: a page of revision space becomes the revision's own. -/
def ownPage (ctx rev vpn pa : Nat) (s : State) : State :=
  let src := (viewPage ctx rev vpn s).getD 0
  let s := copyPage src pa s
  let s := { s with
    revmap := lput (pageKey ctx rev vpn) { pa := pa, own := true } s.revmap
    forks := lmap (fun _ f =>
      if f.state != 0 && f.ctx == ctx && f.parentRev == rev && !f.parentCopied.contains vpn then
        { f with parentCopied := vpn :: f.parentCopied } else f) s.forks }
  tlbDrop ctx rev vpn s

/-- A fault that no access waits for any more. -/
def dropFault (f : FaultRec) (s : State) : State := { s with faults := s.faults.filter fun x => x.key != f.key }

/-- R267: a page is the revision's own already. -/
def ownsPage (ctx rev vpn : Nat) (s : State) : Bool :=
  match lfind (pageKey ctx rev vpn) s.revmap with
  | some p => p.own
  | none => rev == 0 && !(ctxOf s ctx).rootForked

/-- COPY_ON_WRITE: a step that an access waits for takes a page of its region's class (R271, R272). Where the page has become the
revision's own, or there is nothing to copy, the access only translates again. -/
def execCopyOnWrite (ctx rev vpn : Nat) (s : State) : Out State :=
  match s.faults.find? fun f => f.ctx == ctx && f.rev == rev && f.vpn == vpn && (f.kind == 9 || f.kind == 10) with
  | none => .next s
  | some f =>
    match governing ctx rev s with
    | (s, .error r) =>
      let w := devPage ctx (vpn * 4096) 11 r s
      .next (if w.2 then w.1 else devForget ctx (dropFault f w.1))
    | (s, .ok rs) =>
      match regionFor rs vpn with
      | none => .next (dropFault f s)
      | some g =>
        if ownsPage ctx rev vpn s || (viewPage ctx rev vpn s).isNone then .next (dropFault f s)
        else
          match popPage ctx g.cls s with
          | none => .next (spaceFault f g.cls s)
          | some (pa, s) => .next (ownPage ctx rev vpn pa (dropFault f s))

/-- 10 ms in cycles (R272). -/
def spaceCycles : Nat := 12000000

/-- A revision-space step of a context and class that has waited 10 ms. -/
def spaceDue (s : State) (ctx cls : Nat) (f : FaultRec) : Bool :=
  f.ctx == ctx && f.kind == 10 && f.cls == cls && !f.out && decide (s.clock ≥ f.clk + spaceCycles)

/-- REVISION_SPACE_TIMEOUT: every grid of the waiting tasks is pre-empted, until the stack holds a page (R272). -/
def execRevisionSpaceTimeout (ctx cls : Nat) (s : State) : Out State :=
  let revs := ((s.faults.filter (spaceDue s ctx cls)).map (·.rev)).eraseDups
  let bids := (s.blocks.filter fun e => e.2.ctx == ctx && revs.contains (revOf s e.1)).map (·.1)
  .next (bids.foldl (fun s b => stopBlock b s)
    { s with faults := s.faults.map fun f => if spaceDue s ctx cls f then { f with out := true } else f })

/-- The merge of a fork so far: flags, conflicts, the lowest conflicting addresses, poisoned elements (R276, R277). -/
structure Merge where
  st : State
  fl : Nat := 0
  conflicts : Nat := 0
  list : List Nat := []
  poisoned : Nat := 0
  deriving DecidableEq, Repr

/-- The logarithmic format of an element width (R276). -/
def widthFmt (w : Nat) : Fmt := if w = 0 then fL8 else if w = 1 then fL16 else fL32

/-- R276: merge3 on elements of width code w: the result, whether it conflicts, and flags. -/
def merge3 (type w p c a : Nat) : Nat × Bool × Nat :=
  let n := 8 * 2 ^ w
  let F := widthFmt w
  let sx := fun (v : Nat) => (BitVec.ofNat n v).toInt
  if c = a then (p, false, 0)
  else if p = a then (c, false, 0)
  else
    match type with
    | 1 => (c, p != c, 0)
    | 2 => (p, p != c, 0)
    | 3 => ((p + c + (2 ^ n - a)) % 2 ^ n, false, 0)
    | 4 =>
      let x := logAdd F false (lval F c) (lnegate (lval F a))
      let y := logAdd F false (lval F p) x.1
      (lcode F y.1, false, Nat.lor x.2 y.2)
    | 5 => (if sx p ≤ sx c then p else c, false, 0)
    | 6 => (if sx p ≤ sx c then c else p, false, 0)
    | 7 => (min p c, false, 0)
    | 8 => (max p c, false, 0)
    | 9 =>
      let m := BitVec.ofNat n (Nat.xor p a)
      (((~~~m &&& BitVec.ofNat n c) ||| (m &&& BitVec.ofNat n p)).toNat, false, 0)
    | 10 => (lcode F (logMinMax F false (lval F p) (lval F c)), false, 0)
    | _ => (lcode F (logMinMax F true (lval F p) (lval F c)), false, 0)

/-- One element of a sector: its bytes merged. -/
def mergeElem (r : Region) (va : Nat) (p c a : List Byte) (x : Merge) : Merge × List Byte :=
  let m := merge3 r.type r.width (leNat p) (leNat c) (leNat a)
  ({ x with
      fl := Nat.lor x.fl m.2.2
      conflicts := if m.2.1 then min (x.conflicts + 1) 0xFFFFFFFF else x.conflicts
      list := if m.2.1 && decide (x.list.length < 64) then x.list ++ [va] else x.list }, leBytes p.length m.1)

/-- R280: a merge writes a sector of local memory, as a write of another agent than any block (log 52). -/
def mergeWrite (k : Nat) (bs : List Byte) (s : State) : State :=
  if paOnline s k then sliceWrite k bs (.set none) (breakReservation 0 (k / 32) s) else s

/-- R280, R281: sector i of a page: the merged elements are written to the page `dst`. -/
def mergeSector (r : Region) (vpn dst pp cc aa : Nat) (x : Merge) (i : Nat) : Merge :=
  let k := fun (pa : Nat) => pa + 32 * i
  let s := touch (k aa / 32) (touch (k cc / 32) (touch (k pp / 32) x.st))
  let bad := poisoned s (k pp / 32) || poisoned s (k cc / 32) || poisoned s (k aa / 32)
  let b := 2 ^ r.width
  let n := 32 / b
  let x := { x with st := s, poisoned := if bad then x.poisoned + n else x.poisoned }
  if bad && r.cls == 0 then { x with st := mergeWrite (k dst) (List.replicate 32 0) s }
  else
    let part := fun (pa j : Nat) => readBytes s (k pa + b * j) b
    let y := (List.range n).foldl (fun (y : Merge × List Byte) j =>
      let e := mergeElem r (4096 * vpn + 32 * i + b * j) (part pp j) (part cc j) (part aa j) y.1
      (e.1, y.2 ++ e.2)) (x, [])
    { y.1 with st := if bad then writePoison (k dst / 32) y.1.st else mergeWrite (k dst) y.2 y.1.st }

/-- R280: the lines of a page of Unprotected memory in which elements were written as zero. -/
def mergeZeroed (pp cc aa : Nat) (s : State) : Nat :=
  ((List.range 32).filter fun l => (List.range 4).any fun j =>
    [pp, cc, aa].any fun pa => poisoned s (pa / 32 + 4 * l + j)).length

/-- R275, R280: a page that both sides copied is merged element by element, into the page `dst`. -/
def mergePage (ctx : Nat) (r : Region) (vpn dst pp cc aa : Nat) (x : Merge) : Merge :=
  let s := (List.range 128).foldl (fun s i => [pp, cc, aa].foldl (fun s pa => touch (pa / 32 + i) s) s) (l1DropAll dst 4096 x.st)
  let lines := if r.cls = 0 then mergeZeroed pp cc aa s else 0
  let y := (List.range 128).foldl (mergeSector r vpn dst pp cc aa) { x with st := s }
  { y with st := modCtx ctx (fun c => { c with uecnt := min (c.uecnt + lines) 0xFFFFFFFF }) y.st }

/-- The ancestor page of a fork (R273, R279), where one is mapped. -/
def ancPage (f : Fork) (vpn : Nat) (s : State) : Option Nat :=
  match lfind vpn f.anc with
  | some a => some a
  | none => ptePage f.ctx vpn s

/-- R275: the pages that the child of a fork has copied, ascending. -/
def childCopied (n : Nat) (f : Fork) (s : State) : List (Nat × Nat) :=
  (revPages s f.ctx n).filterMap fun e => if some e.2.pa = ancPage f e.1 s then none else some (e.1, e.2.pa)

/-- R279: a page that a join changed counts as copied by the parent for every later fork. -/
def noteParent (n : Nat) (f : Fork) (vpn : Nat) (s : State) : State :=
  { s with forks := lmap (fun m (x : Fork) =>
      if m != n && x.state != 0 && x.ctx == f.ctx && x.parentRev == f.parentRev && !x.parentCopied.contains vpn then
        { x with parentCopied := vpn :: x.parentCopied } else x) s.forks }

/-- R273, R279: the parent's page is the ancestor of a later live fork of the same parent. -/
def frozenFor (n : Nat) (f : Fork) (vpn pp : Nat) (s : State) : Bool :=
  s.forks.any fun e => e.1 != n && e.2.state != 0 && e.2.ctx == f.ctx && e.2.parentRev == f.parentRev && ancPage e.2 vpn s == some pp

/-- R275, R279: a page becomes the parent's. It counts as copied by the parent's revision (R267, log 45). -/
def remapPage (n : Nat) (f : Fork) (vpn pa : Nat) (s : State) : State :=
  noteParent n f vpn (tlbDrop f.ctx f.parentRev vpn
    { s with revmap := lput (pageKey f.ctx f.parentRev vpn) { pa := pa, own := true } s.revmap })

/-- R275: one page that the child copied: remapped or merged. The merge writes the parent's page; where that page is frozen as a
later fork's ancestor, which must keep its contents, the merged page is the child's, and no free page is needed (R273, R279,
log 45). -/
def joinPage (n : Nat) (f : Fork) (y : Merge × Nat × Nat) (e : Nat × Nat) : Merge × Nat × Nat :=
  let vpn := e.1
  let x := y.1
  if f.parentCopied.contains vpn then
    match regionFor f.regions vpn, viewPage f.ctx f.parentRev vpn x.st, ancPage f vpn x.st with
    | some r, some pp, some aa =>
      if frozenFor n f vpn pp x.st then
        let z := mergePage f.ctx r vpn e.2 pp e.2 aa x
        ({ z with st := remapPage n f vpn e.2 z.st }, y.2.1, y.2.2 + 1)
      else
        let z := mergePage f.ctx r vpn pp pp e.2 aa x
        ({ z with st := noteParent n f vpn z.st }, y.2.1, y.2.2 + 1)
    | _, _, _ => y
  else ({ x with st := remapPage n f vpn e.2 x.st }, y.2.1 + 1, y.2.2)

/-- R277: the 576 bytes of a join record. -/
def joinRecord (status : Nat) (x : Merge) (remapped merged : Nat) : List Byte :=
  leBytes 4 status ++ leBytes 4 x.conflicts ++ leBytes 4 remapped ++ leBytes 4 merged ++ leBytes 4 x.poisoned ++
    List.replicate 44 0 ++ (List.range 64).flatMap fun i => leBytes 8 (x.list.getD i 0 % 2 ^ 56)

/-- R509: where the pieces of a join record go: address, key or none where the write is dropped. None at all where a page
must be awaited. -/
def recordDests (ctx record : Nat) : List Nat → State → State × Option (List (Nat × Option Nat))
  | [], s => (s, some [])
  | a :: t, s =>
    let go := fun (k : Option Nat) (s : State) =>
      match recordDests ctx record t s with
      | (s, some l) => (s, some ((a, k) :: l))
      | r => r
    match devTranslate ctx a true false s with
    | (s, .ok k) => go (some k) s
    | (s, r) =>
      let w := devPage ctx a 5 r s
      if w.2 then (w.1, none) else go none w.1

/-- Writes a join record's pieces. -/
def writeRecord (record : Nat) (bs : List Byte) (ds : List (Nat × Option Nat)) (s : State) : State :=
  ds.foldl (fun s d => match d.2 with
    | some k => devStore k ((bs.drop (d.1 - record)).take (4096 - d.1 % 4096)) s
    | none => s) s

/-- R273: the pages that a join frees, in order: ascending addresses, the child's page before the ancestor's. -/
def freedPages (f : Fork) (copied : List (Nat × Nat)) (s : State) : List (Nat × Nat) :=
  let child := copied.filterMap fun e => if f.parentCopied.contains e.1 then some (e.1, e.2) else none
  let vpns := (copied.map (·.1) ++ f.parentCopied).eraseDups
  sortBy (·.1) (child ++ vpns.filterMap fun v => (ancPage f v s).map fun a => (v, a))

/-- R203, R275: a join lowers its counter; the wait that observes it is an acquire. -/
def joinWarp (c : Nat) (w : Warp) : Warp :=
  { lowerCounter c none w with joined := if w.joined.contains c then w.joined else w.joined ++ [c] }

/-- R285: a join lowers the counter of a warp that is resident or saved. -/
def lowerJoin (wk c : Nat) (s : State) : State :=
  { s with
    warps := lmod wk (joinWarp c) s.warps
    husks := lmap (fun _ (sv : Saved) => { sv with warps := lmod wk (joinWarp c) sv.warps }) s.husks }

/-- R276: the flags of a merge reach sr.flags of the joining block, resident or saved. -/
def joinFlags (bid fl : Nat) (s : State) : State :=
  let w : Word := BitVec.ofNat 32 fl &&& 0xFF
  let s := setFlags bid w s
  { s with husks := lmod bid (fun sv => { sv with blk := { sv.blk with flags := sv.blk.flags ||| w } }) s.husks }

/-- R273, R275, R277, R279: the join of slot n merges, and the slot is free. -/
def mergeFork (n : Nat) (f : Fork) (ds : List (Nat × Option Nat)) (s : State) : State :=
  let copied := if f.status = 0 then childCopied n f s else []
  let y := copied.foldl (joinPage n f) ({ st := s }, 0, 0)
  let freed := freedPages f copied s
  let s := { y.1.st with
    forks := lput n { gen := f.gen, parent := f.parent } y.1.st.forks
    revmap := y.1.st.revmap.filter fun e => e.1 / 2 ^ 44 != f.ctx * 512 + n
    tlb := y.1.st.tlb.filter fun e => !(tlbCtx e.1 == f.ctx && tlbRev e.1 == n) }
  let s := freed.foldl (fun s e =>
    if pageSeen f.ctx e.1 e.2 s then s
    else pushPage f.ctx (((regionFor f.regions e.1).map (·.cls)).getD 0) e.2 s) s
  let s := writeRecord f.record (joinRecord f.status y.1 y.2.1 y.2.2) ds s
  match f.claim with
  | some (wk, c, bid) => if c < 12 then lowerJoin wk c (joinFlags bid y.1.fl s) else s
  | none => s

/-- R274, R275, R279: the join of a slot may merge: it is claimed, its child has completed, and no sibling's join that was
accepted before is left. -/
def joinReady (s : State) (f : Fork) : Bool :=
  f.claim.isSome && f.state == 2 &&
    !s.forks.any fun e => e.2.state != 0 && e.2.ctx == f.ctx && e.2.parentRev == f.parentRev && e.2.claim.isSome &&
      decide (e.2.claimOrder < f.claimOrder)

/-- JOIN_MERGE: the join of a fork slot merges (R273 to R285, R509). -/
def execJoinMerge (slot : Nat) (s : State) : Out State :=
  match lfind slot s.forks with
  | none => .next s
  | some f =>
    if joinReady s f then
      match recordDests f.ctx f.record (if f.record = 0 then [] else rangePages f.record 576) s with
      | (s, none) => .next s
      | (s, some ds) => .next (mergeFork slot f ds (devForget f.ctx s))
    else .next s

/-- R282: the children of a task whose joins have not merged, the latest fork point first. -/
def children (s : State) (gid : Nat) : List (Nat × Fork) :=
  let mine := s.forks.filter fun e => e.2.state != 0 && e.2.parent == gid
  let top := mine.foldl (fun m e => max m e.2.order) 0
  sortBy (fun e => top - e.2.order) mine

/-- R282: a task whose blocks have all exited joins its unclaimed children, in reverse order of fork points. -/
def claimChildren (cs : List (Nat × Fork)) (s : State) : State :=
  cs.foldl (fun s e =>
    if e.2.claim.isSome then s
    else { s with
      nextId := s.nextId + 1
      forks := lmod e.1 (fun f => { f with claim := some (0, 12, 0), claimOrder := s.nextId }) s.forks }) s

/-- GRID_COMPLETION: once every block has exited and every child has been joined, the grid completes (R201, R282, R292). The joins
start after the fork points that reached the revision engine before them (R270). -/
def execGridCompletion (gid : Nat) (s : State) : Out State :=
  match lfind gid s.grids with
  | none => .next s
  | some g =>
    match g.final with
    | some st => .next (completeGrid gid st s)
    | none =>
      if g.done then
        match children s gid with
        | [] => .next (completeGrid gid 0 s)
        | cs => .next (if forksPending s g.ctx then s else claimChildren cs s)
      else .next s

end Sys2Proof.Machine
end

