-- ==== Sys2Proof/Machine/Window.lean ====
section
/-! DEFINITION. The register window and the memory window: global, channel, queue, MSI-X and context registers, and host
accesses to local memory (R167, R168, R257, R281, R286, R296, R310, R319, R323 to R326, R508). -/

set_option Elab.async false

namespace Sys2Proof.Machine

/-- Changes the global registers. -/
def modRw (f : Regwin → Regwin) (s : State) : State := { s with rw := f s.rw }

/-- R323: the memory window's bytes: local memory at the home slice; ones outside usable online memory. The host's view
of a poisoned sector the spec does not give (log 1). -/
def windowRead : Nat → Nat → State → State × List Byte
  | _, 0, s => (s, [])
  | pa, n + 1, s =>
    let r : State × Byte :=
      if !(paOnline s pa) then (s, 0xFF)
      else
        let s := touch (pa / 32) s
        if poisoned s (pa / 32) then
          let f := freeNat s
          (f.2, Config.freeByte f.1)
        else (s, readByte s pa)
    let t := windowRead (pa + 1) n r.1
    (t.1, r.2 :: t.2)

/-- R323: writes through the memory window, in pieces of a sector, dropped outside usable online memory. -/
def windowWrite (pa : Nat) (bs : List Byte) : Nat → State → State
  | 0, s => s
  | fuel + 1, s =>
    if bs.isEmpty then s
    else
      let n := 32 - pa % 32
      windowWrite (pa + n) (bs.drop n) fuel
        (if paOnline s pa then sliceWrite pa (bs.take n) (.set none) (breakReservation 0 (pa / 32) s) else s)

/-- HOST_WINDOW_ACCESS: an access of the host or a peer through the memory window, at system scope (R281, R323). What lies at
or beyond the window's size does not reach the device (log 45). -/
def execHostWindowAccess (write : Bool) (off len : Nat) (data : List Byte) (s : State) : Out State :=
  let pa := s.rw.winbase * 2 ^ 30 + off
  if !(hostReady s) || decide (2 ^ (30 + s.rw.winsize) < off + max len 1) then .next s
  else if write then .next (windowWrite pa (data.take len) (data.length + 1) s)
  else
    let r := windowRead pa len s
    .next (modRw (fun w => { w with readData := r.2 }) r.1)

/-- L2WB: the host starts the write-back of every dirty second-level line (R324). -/
def execL2wb (v : BitVec 64) (s : State) : Out State :=
  if hostReady s && v == 1 then .next (modRw (fun w => { w with l2wb := true }) s) else .next s

/-- The lines of the second-level cache with a dirty sector. -/
def dirtyLines (s : State) : List Nat := ((s.l2.filter fun e => e.2.dirty).map fun e => e.1 / 4).eraseDups

/-- Writes back every dirty line of a kind. What a write-back dirties itself, a line of the dirty table or a corrected sibling, the
second pass writes back. -/
def writebackWhere (p : Nat → Bool) (s : State) : State :=
  let s := ((dirtyLines s).filter p).foldl (fun s l => writebackLine l s) s
  ((dirtyLines s).filter p).foldl (fun s l => writebackLine l s) s

/-- Writes every dirty line back. -/
def writebackAll (s : State) : State := writebackWhere (fun _ => true) s

/-- L2WB_DONE: the write-back of every dirty line finishes (R168, R324). -/
def execL2wbDone (s : State) : Out State :=
  if s.rw.l2wb then .next (modRw (fun w => { w with l2wb := false }) (writebackAll s)) else .next s

/-- R310, R325: a queue that stops being enabled gives up a head that was selected and has placed nothing. -/
def dropHead (queue : Nat) (s : State) : State :=
  { s with grids := s.grids.filter fun e => !(e.2.queue == queue && e.2.fork == 0 && e.2.placed == 0 && e.2.final.isNone) }

/-- The bits of a queue's control register: k − 4, context, vector, enable (R325). -/
def controlBits : BitVec 64 := 0x80FF3F0F

/-- QUEUE_CONTROL_WRITE: enabling one of its queues clears a context's failed bit; k holds while the queue is enabled
(R286, R310, R325, R508). -/
def execQueueControlWrite (queue : Nat) (v : BitVec 64) (s : State) : Out State :=
  let q := lget ({} : Queue) queue s.queues
  if !(hostReady s) || decide (queue ≥ 128) || (v.getLsbD 31 && decide (v.toNat % 16 > 12)) then .next s
  else
    let c := if q.enabled then (v &&& controlBits &&& ~~~(0xF : BitVec 64)) ||| (q.control &&& 0xF) else v &&& controlBits
    let s := modQueue queue (fun q => { q with control := c }) s
    let x := lget ({} : Queue) queue s.queues
    if x.enabled && !q.enabled then .next (repoll (modCtx x.ctx (fun c => { c with failed := false }) s))
    else if q.enabled && !x.enabled then
      .next (dropHead queue (modQueue queue (fun q => { q with sel := false, act := none, reported := false, ready := false, verdict := none }) s))
    else .next s

/-- A context number, and a device that is ready. -/
def ctxReady (ctx : Nat) (s : State) : Bool := hostReady s && decide (ctx < 64)

/-- TLBINV: the host starts a translation invalidation (R167, R326). -/
def execTlbinv (ctx : Nat) (v : BitVec 64) (s : State) : Out State :=
  if ctxReady ctx s && v == 1 then .next (modCtx ctx (fun c => { c with tlbinv := true }) s) else .next s

/-- TLBINV_DONE: no TLB holds an entry of the context (R167). -/
def execTlbinvDone (ctx : Nat) (s : State) : Out State :=
  if (ctxOf s ctx).tlbinv then .next (modCtx ctx (fun c => { c with tlbinv := false }) (tlbClear ctx s)) else .next s

/-- R296, R310, R326: a write to a context's control register: bit 0 is the suspension, whose setting swaps the context's
blocks out; bit 2 ends the context. -/
def writeControl (ctx : Nat) (v : BitVec 64) (s : State) : State :=
  let s := if v.getLsbD 0 && !(ctxOf s ctx).suspend then stopContext ctx s else s
  let s := modCtx ctx (fun c => { c with suspend := v.getLsbD 0 }) s
  if v.getLsbD 2 then endContext ctx s else s

/-- CONTEXT_SUSPEND: the host sets or clears a context's suspension (R296, R326). -/
def execContextSuspend (ctx : Nat) (v : BitVec 64) (s : State) : Out State :=
  if ctxReady ctx s then .next (writeControl ctx v s) else .next s

/-- CONTEXT_END_REQUEST: the host ends a context (R310, R326). -/
def execContextEndRequest (ctx : Nat) (v : BitVec 64) (s : State) : Out State :=
  if ctxReady ctx s then .next (writeControl ctx v s) else .next s

/-- FQRD_WRITE: the fault queue's read index (R326). -/
def execFqrdWrite (ctx : Nat) (v : BitVec 64) (s : State) : Out State :=
  if ctxReady ctx s then
    .next (flushFaults ctx ((ctxOf s ctx).fheld.length + 1) (modCtx ctx (fun c => { c with fqrd := v.toNat }) s))
  else .next s

/-- EQRD_WRITE: the event queue's read index (R326). -/
def execEqrdWrite (ctx : Nat) (v : BitVec 64) (s : State) : Out State :=
  if ctxReady ctx s then
    .next (flushEvents ctx ((ctxOf s ctx).eheld.length + 1) (modCtx ctx (fun c => { c with eqrd := v.toNat }) s))
  else .next s

/-- FQSIZE_WRITE: the fault queue's size; a valid one lets held records go (R326). -/
def execFqsizeWrite (ctx : Nat) (v : BitVec 64) (s : State) : Out State :=
  if ctxReady ctx s then
    .next (flushFaults ctx ((ctxOf s ctx).fheld.length + 1) (modCtx ctx (fun c => { c with fqsize := v.toNat }) s))
  else .next s

/-- EQSIZE_WRITE: the event queue's size (R326). -/
def execEqsizeWrite (ctx : Nat) (v : BitVec 64) (s : State) : Out State :=
  if ctxReady ctx s then
    .next (flushEvents ctx ((ctxOf s ctx).eheld.length + 1) (modCtx ctx (fun c => { c with eqsize := v.toNat }) s))
  else .next s

/-- REVISION_STACK_PUSH: the host writes a stack's count; tasks that wait for a page of the class may go on (R272,
R326). -/
def execRevisionStackPush (ctx cls : Nat) (v : BitVec 64) (s : State) : Out State :=
  if ctxReady ctx s && decide (cls < 3) then
    .next (modCtx ctx (fun c => { c with stackCount := lset 0 cls v.toNat c.stackCount }) s)
  else .next s

/-- CONTEXT_COUNTER_CLEAR: a write of 0 clears uecnt, rbcnt, pucnt or kcnt alone (R257, R326). -/
def execContextCounterClear (ctx which : Nat) (v : BitVec 64) (s : State) : Out State :=
  if ctxReady ctx s && v == 0 then
    .next (modCtx ctx (fun c => match which with
      | 0 => { c with uecnt := 0 }
      | 1 => { c with rbcnt := 0 }
      | 2 => { c with pucnt := 0 }
      | 3 => { c with kcnt := 0 }
      | _ => c) s)
  else .next s

/-- HINTSHORT_CLEAR (R319, R326). -/
def execHintshortClear (ctx : Nat) (v : BitVec 64) (s : State) : Out State :=
  if ctxReady ctx s && v == 0 then .next (modCtx ctx (fun c => { c with hintshort := 0 }) s) else .next s

/-- CHANNEL_COUNTER_CLEAR: a write of 0 clears cecnt, ucnt, repcnt, abncnt or passcnt alone (R257, R323). -/
def execChannelCounterClear (ch which : Nat) (v : BitVec 64) (s : State) : Out State :=
  if hostReady s && decide (ch < 24) && v == 0 then
    .next (modChan ch (fun c => match which with
      | 0 => { c with cecnt := 0 }
      | 1 => { c with ucnt := 0 }
      | 2 => { c with repcnt := 0 }
      | 3 => { c with abncnt := 0 }
      | 4 => { c with passcnt := 0 }
      | _ => c) s)
  else .next s

/-- R323, R324: a write to a global register without behaviour of its own. A window base beyond its range is ignored, which the
spec does not say (DESIGN CHOICE, log 53). -/
def writeGlobal (off v : Nat) (s : State) : State :=
  match off with
  | 0x18 => modRw (fun w => { w with dirtytab := v }) s
  | 0x20 => modRw (fun w => { w with trackmap := v }) s
  | 0x30 => modRw (fun w => { w with errvec := BitVec.ofNat 64 v }) s
  | 0x38 => if v ≤ 191 then modRw (fun w => { w with winbase := v }) s else s
  | _ => s

/-- R326: a write to a context register without behaviour of its own. -/
def writeContext (ctx off v : Nat) (s : State) : State :=
  modCtx ctx (fun c => match off with
    | 0x000 => { c with ptroot := v }
    | 0x008 => { c with tensbase := v }
    | 0x010 => { c with tenscount := v }
    | 0x018 => { c with regbase := v }
    | 0x020 => { c with regcount := v }
    | 0x028 => { c with objbase := v }
    | 0x030 => { c with objcount := v }
    | 0x038 => { c with savebase := v }
    | 0x040 => { c with savesize := v }
    | 0x048 => { c with diagbase := v }
    | 0x050 => { c with diagsize := v }
    | 0x058 => { c with fqbase := v }
    | 0x078 => { c with eqbase := v }
    | 0x098 => { c with stackBase := lset 0 0 v c.stackBase }
    | 0x0A8 => { c with stackBase := lset 0 1 v c.stackBase }
    | 0x0B8 => { c with stackBase := lset 0 2 v c.stackBase }
    | 0x0F0 => { c with vectors := BitVec.ofNat 64 v }
    | _ => c) s

/-- R323: a write to the MSI-X table, at an offset from its start. Unmasking a pending vector sends it. -/
def writeMsix (off : Nat) (v : BitVec 64) (s : State) : State :=
  if off < 4096 then
    let s := modRw (fun w => { w with msix := lset (msixReset (off / 8)) (off / 8) v w.msix }) s
    let n := off / 16
    if lget false n s.rw.pending && (lget (msixReset (2 * n + 1)) (2 * n + 1) s.rw.msix >>> 32).toNat % 2 == 0 then
      interrupt n (modRw (fun w => { w with pending := lset false n false w.pending }) s)
    else s
  else s

/-- R323: the place that stands, above the register window's 64 MiB, for the resizable-BAR control of the standard PCI Express
capability, whose own place the spec does not give (DESIGN CHOICE, log 45). -/
def resizeControl : Nat := 2 ^ 32 + 8

/-- REGISTER_WRITE: an aligned 8-byte write to a register that has no behaviour of its own; any other offset ignores it
(R286, R323 to R326, R328). The control of the memory window's size takes 0 to 8: 1 GiB to 256 GiB (R323). -/
def execRegisterWrite (off : Nat) (v : BitVec 64) (s : State) : Out State :=
  if !(hostReady s) || off % 8 != 0 then .next s
  else if off < 0x1000 then .next (writeGlobal off v.toNat s)
  else if 0x1008 ≤ off ∧ off < 0x1048 then .next (modRw (fun w => { w with mboxArgs := lset 0 ((off - 0x1008) / 8) v w.mboxArgs }) s)
  else if 0x10000 ≤ off ∧ off < 0x12000 then
    let q := (off - 0x10000) / 64
    if off % 64 = 0 ∧ (lget ({} : Queue) q s.queues).enabled = false then
      .next (modQueue q (fun x => { x with base := v.toNat % 2 ^ 56 }) s)
    else .next s
  else if 0x20000 ≤ off ∧ off < 0x100000 then .next (writeMsix (off - 0x20000) v s)
  else if 0x100000 ≤ off ∧ off < 0x140000 then .next (writeContext ((off - 0x100000) / 4096) (off % 4096) v.toNat s)
  else if off = resizeControl ∧ v.toNat ≤ 8 then .next (modRw (fun w => { w with winsize := v.toNat }) s)
  else .next s

/-- R324: a global register as it reads. -/
def readGlobal (off : Nat) (s : State) : Nat :=
  let bit := fun (b : Bool) (i : Nat) => if b then 2 ^ i else 0
  match off with
  | 0x00 => 0x7192 + s.pw.stepping % 256 * 2 ^ 16 + bit s.pw.fuse 24
  | 0x08 => bit (decide (s.pw.step ≥ 1) && !s.pw.recovery) 0 + bit s.pw.trained 1 + bit s.pw.recovery 2 + bit s.pw.limited 3
  | 0x18 => s.rw.dirtytab
  | 0x20 => s.rw.trackmap
  | 0x28 => bit s.rw.l2wb 0
  | 0x30 => s.rw.errvec.toNat
  | 0x38 => s.rw.winbase
  | _ => 0

/-- R326: a context register as it reads. -/
def readContext (ctx off : Nat) (s : State) : Nat :=
  let c := ctxOf s ctx
  match off with
  | 0x000 => c.ptroot
  | 0x008 => c.tensbase
  | 0x010 => c.tenscount
  | 0x018 => c.regbase
  | 0x020 => c.regcount
  | 0x028 => c.objbase
  | 0x030 => c.objcount
  | 0x038 => c.savebase
  | 0x040 => c.savesize
  | 0x048 => c.diagbase
  | 0x050 => c.diagsize
  | 0x058 => c.fqbase
  | 0x060 => c.fqsize
  | 0x068 => c.fqrd
  | 0x070 => c.fqwr
  | 0x078 => c.eqbase
  | 0x080 => c.eqsize
  | 0x088 => c.eqrd
  | 0x090 => c.eqwr
  | 0x098 => lget 0 0 c.stackBase
  | 0x0A0 => lget 0 0 c.stackCount
  | 0x0A8 => lget 0 1 c.stackBase
  | 0x0B0 => lget 0 1 c.stackCount
  | 0x0B8 => lget 0 2 c.stackBase
  | 0x0C0 => lget 0 2 c.stackCount
  | 0x0D0 => if c.tlbinv then 1 else 0
  | 0x0E8 => (if c.suspend then 1 else 0) + if c.failed then 2 else 0
  | 0x0F0 => c.vectors.toNat
  | 0x100 => c.uecnt
  | 0x108 => c.rbcnt
  | 0x110 => c.pucnt
  | 0x118 => c.kcnt
  | 0x120 => c.hintshort
  | _ => 0

/-- R323: a channel counter as it reads. -/
def readChannel (ch byte : Nat) (s : State) : Nat :=
  let c := lget ({} : Chan) ch s.chans
  match byte with
  | 0 => c.cecnt
  | 8 => c.ucnt
  | 16 => c.repcnt
  | 24 => c.abncnt
  | 32 => c.passcnt
  | _ => 0

/-- R325: a queue register as it reads. -/
def readQueue (q byte : Nat) (s : State) : Nat :=
  let x := lget ({} : Queue) q s.queues
  match byte with
  | 0 => x.base
  | 8 => x.control.toNat
  | 16 => x.wridx
  | 24 => x.rdidx
  | _ => 0

/-- R323: what the host reads at an 8-byte offset of the register window; an offset that is not listed reads as zero. -/
def readRegister (off : Nat) (s : State) : BitVec 64 :=
  if !(hostReady s) || off % 8 != 0 then 0
  else if off < 0x1000 then BitVec.ofNat 64 (readGlobal off s)
  else if off = 0x1000 then s.rw.mboxCmd
  else if 0x1008 ≤ off ∧ off < 0x1048 then lget 0 ((off - 0x1008) / 8) s.rw.mboxArgs
  else if off = 0x1048 then s.rw.mboxStatus
  else if 0x1050 ≤ off ∧ off < 0x1090 then lget 0 ((off - 0x1050) / 8) s.rw.mboxRes
  else if 0x2000 ≤ off ∧ off < 0x2600 then BitVec.ofNat 64 (readChannel ((off - 0x2000) / 64) (off % 64) s)
  else if 0x10000 ≤ off ∧ off < 0x12000 then BitVec.ofNat 64 (readQueue ((off - 0x10000) / 64) (off % 64) s)
  else if 0x20000 ≤ off ∧ off < 0x21000 then lget (msixReset ((off - 0x20000) / 8)) ((off - 0x20000) / 8) s.rw.msix
  else if 0x21000 ≤ off ∧ off < 0x21020 then
    BitVec.ofNat 64 ((List.range 64).foldl (fun n i => if lget false (8 * (off - 0x21000) + i) s.rw.pending then n + 2 ^ i else n) 0)
  else if 0x100000 ≤ off ∧ off < 0x140000 then BitVec.ofNat 64 (readContext ((off - 0x100000) / 4096) (off % 4096) s)
  else 0

/-- R323: a 4-byte read: the addressed half. -/
def readRegister4 (off : Nat) (s : State) : BitVec 32 :=
  if off % 8 = 4 then (readRegister (off - 4) s).extractLsb' 32 32 else (readRegister off s).extractLsb' 0 32

end Sys2Proof.Machine
end

