-- ==== Sys2Proof/Machine/Mailbox.lean ====
section
/-! DEFINITION. The management mailbox: partition, scrubber, retirement, budget, scheduling, husk, code-move, power, identity
and firmware commands (R24, R239 to R241, R256, R258, R260, R261, R294, R296, R303, R317, R328 to R330). -/

set_option Elab.async false

namespace Sys2Proof.Machine

/-- What a command does at once: it completes with a status of R240, or it runs on. -/
inductive Cmd where
  | done (status : Nat) (s : State)
  | runs (s : State)
  deriving DecidableEq, Repr

/-- R328: a command completes: its status, its tag, and the errvec interrupt. -/
def completeCommand (tag status : Nat) (s : State) : State :=
  interrupt (s.rw.errvec.toNat % 256)
    (modRw (fun w => { w with mboxStatus := BitVec.ofNat 64 (tag * 2 ^ 16 + status), running := none }) s)

/-- The argument words of a command (R328). -/
def putArgs (args : List (BitVec 64)) (m : SMap (BitVec 64)) : SMap (BitVec 64) :=
  (List.range args.length).foldl (fun m i => lset 0 i (args.getD i 0) m) m

/-- R328, R329: the host writes a command's arguments and its word. A word is ignored while a command runs (log 25). In
recovery mode every command but FWLOAD completes with status 1. -/
def mailbox (code : Nat) (tag : BitVec 16) (args : List (BitVec 64)) (body : State → Cmd) (s : State) : State :=
  if !(hostReady s) || s.rw.running.isSome then s
  else
    let s := modRw (fun w => { w with
      mboxCmd := BitVec.ofNat 64 (tag.toNat * 2 ^ 16 + code), mboxArgs := putArgs args w.mboxArgs }) s
    if s.pw.recovery && code != 0x70 then completeCommand tag.toNat 1 s
    else
      match body s with
      | .done st s => completeCommand tag.toNat st s
      | .runs s => modRw (fun w => { w with
          running := some (code, args.map (·.toNat))
          mboxStatus := BitVec.ofNat 64 ((tag.toNat * 2 ^ 16) ||| 2 ^ 31) }) s

/-- The tag of the running command. -/
def runningTag (s : State) : Nat := s.rw.mboxCmd.toNat / 2 ^ 16 % 2 ^ 16

/-- Changes a partition. -/
def modPart (p : Nat) (f : Part → Part) (s : State) : State := { s with parts := lset {} p (f (lget {} p s.parts)) s.parts }

/-- A memory key lies in a physical partition. -/
def inPart (p k : Nat) : Bool := decide (p * 2 ^ 31 ≤ k) && decide (k < (p + 1) * 2 ^ 31)

/-- A translation maps bytes of a partition. -/
def partMapped (p : Nat) (t : Trans) : Bool := decide (p * 2 ^ 31 < t.pa + 2 ^ t.size) && decide (t.pa < (p + 1) * 2 ^ 31)

/-- PARTOFF: an online partition begins to go offline: no TLB keeps an entry that maps it (R240, R241). -/
def execPartoff (tag : BitVec 16) (part : BitVec 64) (s : State) : Out State :=
  .next (mailbox 0x40 tag [part] (fun s =>
    if part.toNat ≥ 96 then .done 2 s
    else if (lget ({} : Part) part.toNat s.parts).state ≠ 2 then .done 1 s
    else .runs { s with tlb := s.tlb.filter fun e => !partMapped part.toNat e.2 }) s)

/-- The pages of a locked range of a context's addresses. -/
def lockPages (l : Lock) : List Nat := (List.range ((l.hi - 1) / 4096 + 1 - l.lo / 4096)).map (· + l.lo / 4096)

/-- R241: an access or an engine operation to a partition is in flight. -/
def partBusy (s : State) (p : Nat) : Bool :=
  let here := fun (a : Acc) => match a.pa with | some k => !a.done && inPart p k | none => false
  (s.warps.any fun w => w.2.loads.any fun o => o.accs.any here) ||
  (s.stores.any fun o => o.accs.any here) ||
  (s.blocks.any fun b => b.2.uncommitted.any (fun e => inPart p e.1) || b.2.staged.any fun g => g.bytes.any fun e => inPart p e.1) ||
  s.locks.any fun l => l.space == 5 && (lockPages l).any fun v =>
    match viewPage (blkOf s l.bid).ctx (revOf s l.bid) v s with
    | some k => inPart p k
    | none => false

/-- PARTOFF_DONE: nothing to the partition is in flight: its dirty lines are written back, and it is offline (R241). -/
def execPartoffDone (s : State) : Out State :=
  match s.rw.running with
  | some (0x40, [p]) =>
    if partBusy s p then .next s
    else
      let s := writebackWhere (fun l => inPart p (128 * l)) s
      .next (completeCommand (runningTag s) 0 (modPart p (fun x => { x with state := 0 }) s))
  | _ => .next s

/-- PARTFMT: an offline partition begins to be formatted with a class (R235, R240, R241). -/
def execPartfmt (tag : BitVec 16) (part cls : BitVec 64) (s : State) : Out State :=
  .next (mailbox 0x41 tag [part, cls] (fun s =>
    if part.toNat ≥ 96 ∨ cls.toNat ≥ 3 then .done 2 s
    else if (lget ({} : Part) part.toNat s.parts).state ≠ 0 then .done 1 s
    else .runs (modPart part.toNat (fun x => { x with state := 1 }) s)) s)

/-- The first and the last row of a channel that hold bytes of a range of local memory (R161, R258). -/
def rowsOf (ch lo hi : Nat) : Nat × Nat := ((lo + 6143 - 256 * ch) / 6144 / 64, (hi - 256 - 256 * ch) / 6144 / 64)

/-- R241: history entries of rows of a partition; a row that it shares with a neighbour counts as its own (log 26). -/
def rowEntry (ch p : Nat) (e : BitVec 64 × Bool) : Bool :=
  let r := rowsOf ch (p * 2 ^ 31) ((p + 1) * 2 ^ 31)
  let row := e.1.toNat / 2 ^ 18 % 2 ^ 19
  decide (r.1 ≤ row) && decide (row ≤ r.2)

/-- PARTFMT_DONE: every byte of the partition is zero and free of poison; its class is set, and it is offline (R241). -/
def execPartfmtDone (s : State) : Out State :=
  match s.rw.running with
  | some (0x41, [p, cls]) =>
    let s := { s with
      mem := s.mem.filter fun e => !inPart p e.1
      poison := s.poison.filter fun e => !inPart p (32 * e.1)
      dmgData := s.dmgData.filter fun e => !inPart p e.1
      dmgCheck := s.dmgCheck.filter fun e => !inPart p (64 * (e.1 / 8))
      l2 := s.l2.filter fun e => !inPart p (32 * e.1)
      chans := lmap (fun ch c => { c with hist := c.hist.filter fun e => !rowEntry ch p e }) s.chans }
    .next (completeCommand (runningTag s) 0 (modPart p (fun _ => { cls := cls, state := 0, formatted := true }) s))
  | _ => .next s

/-- PARTON: an offline partition that has been formatted since reset goes online (R239, R240). -/
def execParton (tag : BitVec 16) (part : BitVec 64) (s : State) : Out State :=
  .next (mailbox 0x42 tag [part] (fun s =>
    let x := lget ({} : Part) part.toNat s.parts
    if part.toNat ≥ 96 then .done 2 s
    else if x.state = 0 ∧ x.formatted = true then .done 0 (modPart part.toNat (fun x => { x with state := 2 }) s)
    else .done 1 s) s)

/-- SCRUBSET: the scrub period and the lasting-fault window of one channel, or of all (R240, R258). -/
def execScrubset (tag : BitVec 16) (ch period window : BitVec 64) (s : State) : Out State :=
  .next (mailbox 0x43 tag [ch, period, window] (fun s =>
    let p := period.toNat
    let w := window.toNat
    if ch.toNat > 24 ∨ (p ≠ 0 ∧ (p < 3600 ∨ p > 2 ^ 31)) ∨ w < 60 ∨ w > 86400 then .done 2 s
    else
      let chs := if ch.toNat = 24 then List.range 24 else [ch.toNat]
      .done 0 (chs.foldl (fun s c => modChan c (fun x => { x with period := p, window := w }) s) s)) s)

/-- RETIRE: a page joins the retired list of 4096 pages (R240, R261). -/
def execRetire (tag : BitVec 16) (pa : BitVec 64) (s : State) : Out State :=
  .next (mailbox 0x44 tag [pa] (fun s =>
    if pa.toNat % 4096 ≠ 0 ∨ pa.toNat ≥ localSize then .done 2 s
    else if s.retired.contains pa.toNat then .done 0 s
    else if s.retired.length ≥ 4096 then .done 1 s
    else .done 0 { s with retired := s.retired ++ [pa.toNat] }) s)

/-- BUDGET: a context's error budget; 0 exhausts a context that is not exhausted (R240, R256). -/
def execBudget (tag : BitVec 16) (ctx value : BitVec 64) (s : State) : Out State :=
  .next (mailbox 0x45 tag [ctx, value] (fun s =>
    let c := ctx.toNat
    if c ≥ 64 then .done 2 s
    else
      let v := value.toNat % 2 ^ 32
      let s := modCtx c (fun x => { x with ebud := v }) s
      .done 0 (if v = 0 then exhaust c s else s)) s)

/-- RESUME: the grids of a context that exhaustion has stopped go on (R240, R256). -/
def execResume (tag : BitVec 16) (ctx : BitVec 64) (s : State) : Out State :=
  .next (mailbox 0x46 tag [ctx] (fun s =>
    let c := ctx.toNat
    if c ≥ 64 then .done 2 s
    else if (ctxOf s c).ebud = 0 ∨ (ctxOf s c).exhausted = false then .done 1 s
    else .done 0 (modCtx c (fun x => { x with exhausted := false }) s)) s)

/-- R328: writes to a buffer at a bus address of host memory. -/
def hostWrite (buf : BitVec 64) (bs : List Byte) (s : State) : State := writeBytes (hostBase + buf.toNat) bs s

/-- HISTREAD: a channel's history, oldest first, 512 bytes; places without an entry are zero (R240, R260, log 26). -/
def execHistread (tag : BitVec 16) (ch buf : BitVec 64) (s : State) : Out State :=
  .next (mailbox 0x47 tag [ch, buf] (fun s =>
    if ch.toNat ≥ 24 then .done 2 s
    else
      let h : List (BitVec 64 × Bool) := (lget ({} : Chan) ch.toNat s.chans).hist
      .done 0 (hostWrite buf ((List.range 64).flatMap fun i => leBytes 8 ((h.map fun (e : BitVec 64 × Bool) => e.1).getD i 0).toNat) s)) s)

/-- SCHEDSET: the pre-emption margin, 0 to 1 s in µs (R296). -/
def execSchedset (tag : BitVec 16) (us : BitVec 64) (s : State) : Out State :=
  .next (mailbox 0x50 tag [us] (fun s =>
    if us.toNat > 1000000 then .done 2 s else .done 0 { s with margin := us.toNat }) s)

/-- The husk of a context at an offset of its save area. -/
def huskAt (s : State) (ctx off : Nat) : Option (Nat × Saved) := s.husks.find? fun e => e.2.blk.ctx == ctx && e.2.off == off

/-- R303: the bytes of a husk's summary bits, and those of the codes of its spans. -/
def metaSizes (sv : Saved) : Nat × List Nat :=
  let n := unitCount sv.blk
  let spans := (n + 511) / 512
  ((spans + 7) / 8, (List.range spans).map fun i => (min 512 (n - 512 * i) + 3) / 4)

/-- Truth values as bytes, the first in bit 0. -/
def packBits : Nat → List Bool → List Byte
  | 0, _ => []
  | n + 1, bs => BitVec.ofNat 8 (bitNat (bs.take 8)) :: packBits n (bs.drop 8)
where
  /-- The number whose bits, lowest first, are given. -/
  bitNat : List Bool → Nat
    | [] => 0
    | b :: t => (if b then 1 else 0) + 2 * bitNat t

/-- R303: the code bytes of span i: unit j of the span at bits 2j + 1 to 2j. The codes of a raw span are not kept, so
that what is read for them is free (log 1). -/
def spanBytes (sv : Saved) (i n : Nat) (s : State) : State × List Byte :=
  if sv.sums.getD i false then freeBytes n s
  else (s, (List.range n).map fun j => BitVec.ofNat 8
    ((List.range 4).foldr (fun k a => sv.codes.getD (512 * i + 4 * j + k) 0 + 4 * a) 0))

/-- The code bytes of all spans, from span i on. -/
def codeBytes (sv : Saved) : Nat → List Nat → State → State × List Byte
  | _, [], s => (s, [])
  | i, n :: t, s =>
    let r := spanBytes sv i n s
    let q := codeBytes sv (i + 1) t r.1
    (q.1, r.2 ++ q.2)

/-- HUSKEXP: a husk's summary bits and then its unit codes go to a host buffer (R303). -/
def execHuskexp (tag : BitVec 16) (ctx off buf : BitVec 64) (s : State) : Out State :=
  .next (mailbox 0x51 tag [ctx, off, buf] (fun s =>
    match huskAt s ctx.toNat off.toNat with
    | none => .done 2 s
    | some (_, sv) =>
      let m := metaSizes sv
      let r := codeBytes sv 0 m.2 s
      .done 0 (hostWrite buf (packBits m.1 sv.sums ++ r.2) r.1)) s)

/-- R303: the metadata that a buffer gives a husk. -/
def metaFrom (sv : Saved) (bs : List Byte) : Saved :=
  let m := metaSizes sv
  let n := unitCount sv.blk
  { sv with
    sums := (List.range m.2.length).map fun i => (bs.getD (i / 8) 0).getLsbD (i % 8)
    codes := (List.range n).map fun i => (bs.getD (m.1 + i / 4) 0).toNat / 4 ^ (i % 4) % 4 }

/-- HUSKIMP: a husk's metadata comes back from a host buffer (R303). -/
def execHuskimp (tag : BitVec 16) (ctx off buf : BitVec 64) (s : State) : Out State :=
  .next (mailbox 0x52 tag [ctx, off, buf] (fun s =>
    match huskAt s ctx.toNat off.toNat with
    | none => .done 2 s
    | some (b, sv) =>
      let m := metaSizes sv
      let bs := readBytes s (hostBase + buf.toNat) (m.1 + m.2.sum)
      .done 0 { s with husks := lput b (metaFrom sv bs) s.husks }) s)

/-- LATEACT: a queue that a late report has stopped goes on, its head run or dropped (R294). -/
def execLateact (tag : BitVec 16) (queue act : BitVec 64) (s : State) : Out State :=
  .next (mailbox 0x53 tag [queue, act] (fun s =>
    if queue.toNat > 127 ∨ act.toNat > 1 then .done 2 s
    else if (lget ({} : Queue) queue.toNat s.queues).reported = false then .done 1 s
    else .done 0 (modQueue queue.toNat (fun q => { q with reported := false, act := some act.toNat }) s)) s)

/-- The resident blocks of a context that run an object. -/
def objectBlocks (s : State) (ctx object : Nat) : List Nat :=
  (s.blocks.filter fun e => e.2.ctx == ctx && (gridOf s e.2.gid).pkt.object == object).map (·.1)

/-- R317: a block stops for a CODEMOVE, staying resident. -/
def stopForMove (b : Nat) (s : State) : State :=
  modBlk b (fun x => if x.stopAt.isSome then x else { x with stopAt := some s.clock, moveStop := true }) s

/-- CODEMOVE: dispatch of the object's blocks is held, and its resident warps stop (R317, steps 1 and 2; log 27). -/
def execCodemove (tag : BitVec 16) (ctx handle base : BitVec 64) (s : State) : Out State :=
  .next (mailbox 0x54 tag [ctx, handle, base] (fun s =>
    if ctx.toNat ≥ 64 ∨ base.toNat % 64 ≠ 0 ∨ base.toNat ≥ 2 ^ 56 ∨ handle.toNat ≥ 2 ^ 32 then .done 2 s
    else
      match readObject ctx.toNat handle.toNat s with
      | (s, .bad) => .done 2 s
      | (s, _) => .runs ((objectBlocks s ctx.toNat handle.toNat).foldl (fun s b => stopForMove b s) s)) s)

/-- R317, step 7: the stopped warps go on. -/
def releaseMoved (ctx object : Nat) (s : State) : State :=
  (objectBlocks s ctx object).foldl (fun s b =>
    if (blkOf s b).moveStop then
      let s := { s with warps := lmap (fun _ (w : Warp) => if w.bid = b then staleWords { w with stopped := false } else w) s.warps }
      modBlk b (fun x => { x with stopAt := none, moveStop := false }) s
    else s) s

/-- R317, step 3: an engine operation of a context has a locked range within an image. -/
def imageLocked (s : State) (ctx base size : Nat) : Bool :=
  s.locks.any fun l => l.space == 5 && (blkOf s l.bid).ctx == ctx && decide (l.lo < base + size) && decide (base < l.hi)

/-- Where the pages of a range go: address and memory key. -/
inductive Dests where
  | ok (l : List (Nat × Nat))
  | wait
  | bad
  deriving DecidableEq, Repr

/-- The memory keys of a range that the device writes at virtual addresses (R317, R509). -/
def writeKeys (ctx : Nat) : List Nat → State → State × Dests
  | [], s => (s, .ok [])
  | a :: t, s =>
    match devTranslate ctx a true false s with
    | (s, .ok k) =>
      match writeKeys ctx t s with
      | (s, .ok l) => (s, .ok ((a, k) :: l))
      | r => r
    | (s, r) =>
      let w := devPage ctx a 5 r s
      (w.1, if w.2 then .wait else .bad)

/-- R317, steps 4 to 6: the image is copied, the forwarding entry is written as a release at device scope, and the fetched
words of the context are invalidated. -/
def moveImage (ctx handle newBase : Nat) (image : List Byte) (ds : List (Nat × Nat)) (entry : Nat) (s : State) : State :=
  let s := ds.foldl (fun s d => devStore d.2 ((image.drop (d.1 - newBase)).take (4096 - d.1 % 4096)) s) s
  let s := sliceWrite entry (leBytes 8 newBase) (.set (some { deviceStamp with scope := 3 })) s
  { s with
    icache := s.icache.filter fun e => e.1 / 2 ^ 56 % 64 != ctx
    grids := lmap (fun _ (g : Grid) =>
      if g.ctx = ctx ∧ g.pkt.object = handle then { g with obj := { g.obj with base := newBase } } else g) s.grids }

/-- CODEMOVE_COPY: every warp has stopped, with its twin, and no lock remains: the image moves, and the warps go on (R317). -/
def execCodemoveCopy (s : State) : Out State :=
  match s.rw.running with
  | some (0x54, [ctx, handle, base]) =>
    let bs := objectBlocks s ctx handle
    let finish := fun (st : Nat) (s : State) => completeCommand (runningTag s) st (devForget ctx (releaseMoved ctx handle s))
    if s.warps.all fun e => !bs.contains e.2.bid || warpSettled e.2 then
      match readObject ctx handle s with
      | (s, .wait) => .next s
      | (s, .bad) => .next (finish 2 s)
      | (s, .ok o) =>
        match devGet ctx (o.base + 8) 4 s with
        | (s, .wait) => .next s
        | (s, .fail) => .next (finish 2 s)
        | (s, .bytes n) =>
          let size := leNat n
          if imageLocked s ctx o.base size then .next s
          else
            match devGet ctx o.base size s with
            | (s, .wait) => .next s
            | (s, .fail) => .next (finish 2 s)
            | (s, .bytes image) =>
              let entry := (ctxOf s ctx).objbase + 16 * (handle % 2 ^ 20)
              match writeKeys ctx (entry :: rangePages base size) s with
              | (s, .wait) => .next s
              | (s, .ok ((_, k) :: ds)) => .next (finish 0 (moveImage ctx handle base image ds k s))
              | (s, _) => .next (finish 2 s)
    else .next s
  | _ => .next s

/-- POWERSET: the die limit, where the module fuse is intact (R24, R328). -/
def execPowerset (tag : BitVec 16) (watts : BitVec 64) (s : State) : Out State :=
  .next (mailbox 0x55 tag [watts] (fun s =>
    if s.pw.fuse then .done 1 s
    else if watts.toNat < 300 ∨ watts.toNat > 720 then .done 2 s
    else .done 0 { s with pw := { s.pw with limit := watts.toNat } }) s)

/-- IDENT: the identity public key and its certificate chain (R328, R330; log 11). -/
def execIdent (tag : BitVec 16) (buf : BitVec 64) (s : State) : Out State :=
  .next (mailbox 0x60 tag [buf] (fun s => .done 0 (hostWrite buf (Config.identBytes ()) s)) s)

/-- A list of exactly n bytes. -/
def fitBytes (n : Nat) (bs : List Byte) : List Byte := (List.range n).map fun i => bs.getD i 0

/-- R330: the first 160 bytes of an attestation report. -/
def reportBody (s : State) (nonce : List (BitVec 64)) : List Byte :=
  leBytes 4 0x54415856 ++ fitBytes 16 (Config.serial ()) ++ leBytes 4 s.pw.fwversion ++ leBytes 4 s.pw.secver ++
  fitBytes 48 (Config.sha384Image s.pw.fwbody) ++ fitBytes 48 (nonce.flatMap fun w => leBytes 8 w.toNat) ++
  leBytes 24 ((List.range 96).foldr (fun p n => (lget ({} : Part) p s.parts).cls + 4 * n) 0) ++ List.replicate 12 0

/-- ATTEST: a signed report for a nonce of 48 bytes (R328, R330; log 11). -/
def execAttest (tag : BitVec 16) (buf : BitVec 64) (nonce : List (BitVec 64)) (s : State) : Out State :=
  .next (mailbox 0x61 tag (buf :: nonce.take 6) (fun s =>
    let r := reportBody s (nonce.take 6)
    .done 0 (hostWrite buf (r ++ fitBytes 96 (Config.sign r)) s)) s)

/-- FWLOAD: firmware of a host buffer is verified and runs; accepted only in recovery mode. The status of an image that
fails the spec does not give: 1 or 2 (R328, R329; log 11). -/
def execFwload (tag : BitVec 16) (buf len : BitVec 64) (s : State) : Out State :=
  .next (mailbox 0x70 tag [buf, len] (fun s =>
    if s.pw.recovery then
      let f := Config.imageOf (readBytes s (hostBase + buf.toNat) len.toNat)
      let image : FwImage := { body := f.1, secver := f.2.1, version := f.2.2.1, sig := f.2.2.2 }
      if imageOk image s then .done 0 (runImage image s)
      else
        let r := freeNat s
        .done (if Config.freeBool r.1 then 1 else 2) r.2
    else .done 1 s) s)

/-- The assigned command codes (R240, R294, R296, R303, R328). -/
def assignedCodes : List Nat :=
  [0x40, 0x41, 0x42, 0x43, 0x44, 0x45, 0x46, 0x47, 0x50, 0x51, 0x52, 0x53, 0x54, 0x55, 0x60, 0x61, 0x70]

/-- MAILBOX_UNASSIGNED: a code that is not assigned completes with status 2 (R328). -/
def execMailboxUnassigned (tag code : BitVec 16) (s : State) : Out State :=
  if assignedCodes.contains code.toNat then .next s else .next (mailbox code.toNat tag [] (fun s => .done 2 s) s)

end Sys2Proof.Machine
end

