-- ==== Sys2Proof/Machine/Scrub.lean ====
section
/-! DEFINITION. Upsets of stored bits, the patrol scrubber, and words that are no instruction (R236 to R238, R251, R254, R258
to R260, R339, R351). -/

set_option Elab.async false

namespace Sys2Proof.Machine

/-- R258: the rows of a channel that hold online Assured or Detect memory, partition by partition: first and last. -/
def scrubRows (s : State) (ch : Nat) : List (Nat × Nat) :=
  (s.parts.filter fun e => e.2.state == 2 && e.2.cls != 0).map fun e =>
    rowsOf ch (e.1 * 2 ^ 31) (e.1 * 2 ^ 31 + usable e.2.cls)

/-- R258: the first row at or after a place that is read. -/
def nextRow (s : State) (ch row : Nat) : Option Nat :=
  (scrubRows s ch).foldl (fun o r =>
    if r.2 < row then o
    else match o with
      | none => some (max row r.1)
      | some m => some (min m (max row r.1))) none

/-- R258: the number of rows of a pass; a row that two partitions share counts once. -/
def rowCount (s : State) (ch : Nat) : Nat :=
  ((scrubRows s ch).foldl (fun (a : Nat × Nat) r => (a.1 + (r.2 + 1 - max a.2 r.1), max a.2 (r.2 + 1))) (0, 0)).1

/-- R258: nanoseconds between two rows, so that a pass takes the period. -/
def rowTime (s : State) (ch : Nat) : Nat := (lget ({} : Chan) ch s.chans).period * 1000000000 / max 1 (rowCount s ch)

/-- R258: the scrubber reads its next row. -/
def scrubDue (s : State) (ch : Nat) : Bool :=
  let c := lget ({} : Chan) ch s.chans
  decide (ch < 24) && c.period != 0 && decide (c.due ≤ timeOf s) && !(scrubRows s ch).isEmpty

/-- R259: the slice holds a sector dirty. -/
def heldDirty (s : State) (sec : Nat) : Bool := match lfind sec s.l2 with | some e => e.dirty | none => false

/-- R257, R258, R259: the scrubber reads the codeword of a unit: the state, and what the read found wrong, if anything. A
correction is written back unless the slice holds a dirty line for the codeword; an uncorrectable codeword has both its sectors
poisoned in memory. -/
def scrubUnit (u : Nat) (s : State) : State × Option Codeword :=
  let ch := chanOf (64 * u)
  let c := codeword s u
  if c.bad then
    (setPoison (2 * u) true (setPoison (2 * u + 1) true (modChan ch (fun x => { x with ucnt := satInc x.ucnt }) s)), some c)
  else if c.fixed.isSome then
    let s := modChan ch (fun x => { x with cecnt := satInc x.cecnt }) s
    if heldDirty s (2 * u) || heldDirty s (2 * u + 1) then (modChan ch (fun x => { x with abncnt := satInc x.abncnt }) s, some c)
    else
      (modChan ch (fun x => { x with repcnt := satInc x.repcnt }) (clearDamage u { s with mem := Memory.write s.mem (64 * u) c.data }), some c)
  else (s, none)

/-- R260: the scrubber's read of a row enters the history once, whatever the number of its codewords that fail: as
uncorrectable where one of them is (log 26). -/
def scrubRow (us : List Nat) (s : State) : State :=
  let r := us.foldl (fun (r : State × List (Nat × Codeword)) u =>
    if isDamaged r.1 u then
      match scrubUnit u r.1 with
      | (s, some c) => (s, r.2 ++ [(u, c)])
      | (s, none) => (s, r.2)
    else r) (s, [])
  match r.2.find? fun e => e.2.bad with
  | some e => noteError (64 * e.1) 1 true 0xFF r.1
  | none =>
    match r.2 with
    | e :: _ => noteError (64 * e.1) 0 true (e.2.fixed.getD 0xFF) r.1
    | [] => r.1

/-- R258: the units of 64 bytes of a row, in the online Assured and Detect memory. -/
def rowUnits (s : State) (ch row : Nat) : List Nat :=
  ((List.range 64).flatMap fun i =>
    let pa := ((64 * row + i) * 24 + ch) * 256
    if paOnline s pa && (partOf s pa).cls != 0 then [pa / 64, pa / 64 + 1, pa / 64 + 2, pa / 64 + 3] else [])

/-- PATROL_SCRUB_ROW: a channel's scrubber reads its next row (R258 to R261). -/
def execPatrolScrubRow (ch : Nat) (s : State) : Out State :=
  if scrubDue s ch then
    let c := lget ({} : Chan) ch s.chans
    let row := (nextRow s ch c.row).getD ((nextRow s ch 0).getD 0)
    let s := scrubRow (rowUnits s ch row) s
    let ended := (nextRow s ch (row + 1)).isNone
    .next (modChan ch (fun c => { c with
      row := if ended then 0 else row + 1
      passcnt := if ended then satInc c.passcnt else c.passcnt
      due := timeOf s + rowTime s ch }) s)
  else .next s

/-- R238, R257: a correction in a core's storage is counted; in which channel's cecnt, the spec leaves open (log 1). -/
def countCorrected (s : State) : State :=
  let r := freeNat s
  modChan ((Config.freeWord r.1).toNat % 24) (fun c => { c with cecnt := satInc c.cecnt }) r.2

/-- R235: the check symbols of a codeword of a class. -/
def checkSymbols (cls : Nat) : Nat := if cls = 2 then 8 else if cls = 1 then 2 else 0

/-- R238: an upset of on-die storage: beyond correction it has an effect; otherwise it is corrected and counted. -/
def strike (many : Bool) (f : State → State) (s : State) : State := if many then f s else countCorrected s

/-- R30, R238: a register of a warp's block exists. -/
def regExists (b : Block) (kind reg lane : Nat) : Bool :=
  decide (lane < 32) && match kind with
    | 0 => decide (reg < b.wregs)
    | 1 => decide (reg < b.qregs) && lane == 0
    | 2 => decide (0 < reg) && decide (reg < 16)
    | 3 => decide (reg < 8)
    | _ => false

/-- R238: a word of a register file fails: it reads as zero, and is marked until it is written. -/
def failReg (kind reg lane : Nat) (r : Regs) : Regs :=
  let k := laneKey reg lane
  let r := { r with bad := (kind, reg, lane) :: r.bad }
  match kind with
  | 0 => { r with w := ldel k r.w }
  | 1 => { r with q := ldel reg r.q }
  | 2 => { r with p := ldel k r.p }
  | _ => { r with e := ldel k r.e }

/-- R238: a word of a local store fails. -/
def failStore (space addr : Nat) (b : Block) : Block :=
  let b := storePut space (4 * (addr / 4)) [0, 0, 0, 0] b
  { b with bad := lput (storeKey space addr / 4) true b.bad }

/-- R248, R254: word n of a block's own control state reads as zero: sr.flags, sr.trapen, sr.hstat, the per-tensor scales, the
latch, the ring phases, the barriers and the pod barriers. -/
def zeroBlockWord (n : Nat) (b : Block) : Block :=
  match n with
  | 0 => { b with flags := 0 }
  | 1 => { b with trapen := 0 }
  | 2 => { b with hstat := 0 }
  | 3 => { b with tA := 0 }
  | 4 => { b with tB := 0 }
  | 5 => { b with latch := [] }
  | 6 => { b with rings := [] }
  | _ => if n < 23 then { b with bars := ldel (n - 7) b.bars } else { b with pbars := ldel (n - 23) b.pbars }

/-- R248, R254: word n of a warp's control state reads as zero: masks m0 to m11, the counters, the trap registers, sr.mnan, the
permutation slots, and each lane's program counter, sr.link and random generator. -/
def zeroWarpWord (n : Nat) (w : Warp) : Warp :=
  if n < 12 then { w with r := { w.r with masks := lset 0 n 0 w.r.masks } }
  else if n < 28 then { w with cnt := lset 0 (n - 12) 0 w.cnt, cerr := ldel (n - 12) w.cerr }
  else if n = 28 then { w with tcause := 0 }
  else if n = 29 then { w with tpc := 0 }
  else if n = 30 then { w with taddr := 0 }
  else if n = 31 then { w with taddrhi := 0 }
  else if n = 32 then { w with mnan := 0 }
  else if n < 37 then
    { w with r := { w.r with perm := (List.range 64).foldl (fun m i => lset i (64 * (n - 33) + i) 0 m) w.r.perm } }
  else if n < 69 then { w with lanes := lmod (n - 37) (fun x => { x with pc := 0, clause := none }) w.lanes }
  else if n < 101 then { w with r := { w.r with link := lset 0 (n - 69) 0 w.r.link } }
  else if n < 133 then { w with r := { w.r with rng := lset 0 (n - 101) 0 w.r.rng } }
  else w

/-- R254: word n of a block's control state, its own words before those of its warps. -/
def zeroControl (bid n : Nat) (s : State) : State :=
  if n < 27 then modBlk bid (zeroBlockWord n) s
  else match (blkOf s bid).wks[(n - 27) / 133]? with
    | some wk => modWarp wk (zeroWarpWord ((n - 27) % 133)) s
    | none => s

/-- R238, R254: an entry of a block's control state fails, until an instruction of the block reads it: a tile-table entry, a range
lock, or a word of the rest. Outside Assured kernels it reads as zero from then on, a failing lock being lost (log 35). -/
def failControl (bid entry : Nat) (s : State) : State :=
  let plain := (blkOf s bid).cls != 2
  if entry < 64 then
    modBlk bid (fun b => { b with
      tiles := if plain then ldel entry b.tiles else b.tiles, badCtl := b.badCtl ++ [64 + entry] }) s
  else
    match (s.locks.filter fun l => l.bid == bid)[entry - 64]? with
    | some l =>
      modBlk bid (fun b => { b with badCtl := b.badCtl ++ [1] })
        (if plain then { s with locks := s.locks.filter fun x => x != l } else s)
    | none =>
      let n := entry - 64 - (s.locks.filter fun l => l.bid == bid).length
      modBlk bid (fun b => { b with badCtl := b.badCtl ++ [0] }) (if plain then zeroControl bid n s else s)

/-- R247: an upset strikes a byte of an engine operation on its way. -/
def strikeTransit (op place : Nat) (pat : Byte) (s : State) : State :=
  let hit := fun (m : SMap Byte) => lset 0 place (lget 0 place m ^^^ pat) m
  { s with
    mats := s.mats.map fun m => if m.id == op then { m with struck := hit m.struck } else m
    copies := s.copies.map fun c => if c.id == op then { c with struck := hit c.struck } else c }

/-- What an upset does (R236 to R238, R247). Stored data of Unprotected memory change, and nothing can tell. -/
def upset (u : Upset) (s : State) : State :=
  match u with
  | .data pa pat =>
    if pa < localSize then { s with
      mem := Memory.write s.mem pa [lget 0 pa s.mem ^^^ pat]
      dmgData := if (partOf s pa).cls = 0 then s.dmgData else lset 0 pa (lget 0 pa s.dmgData ^^^ pat) s.dmgData }
    else s
  | .check unit k pat =>
    if unit * 64 < localSize ∧ k < checkSymbols (partOf s (64 * unit)).cls then
      { s with dmgCheck := lset 0 (8 * unit + k) (lget 0 (8 * unit + k) s.dmgCheck ^^^ pat) s.dmgCheck }
    else s
  | .level2 sec many =>
    if (lfind sec s.l2).isNone then s
    else if many then modL2 sec (fun e => { e with poison := true }) s
    else modChan (chanOf (32 * sec)) (fun c => { c with cecnt := satInc c.cecnt }) s
  | .level1 core sec => l1Drop core (32 * sec) 1 s
  | .reg wk kind reg lane twin many =>
    if (lfind wk s.warps).isNone || !regExists (blkOf s (warpOf s wk).bid) kind reg lane then s
    else strike many (modWarp wk (sideRegs (if twin then .twin else .lead) (failReg kind reg lane))) s
  | .store bid space addr many =>
    if (lfind bid s.blocks).isNone ∨ (blkOf s bid).alloc.getD space 0 ≤ addr then s
    else strike many (modBlk bid (failStore space addr)) s
  | .journal bid unit many =>
    if (lfind unit (blkOf s bid).journal).isNone then s
    else strike many (modBlk bid fun b => { b with badLog := b.badLog ++ [unit] }) s
  | .queue wk id many =>
    if (warpOf s wk).cmps.any fun c => c.id == id then strike many (modCmp wk id fun c => { c with bad := true }) s else s
  | .line bid key many =>
    if (blkOf s bid).uncommitted.any fun e => e.1 / 8 == key then
      strike many (modBlk bid fun b => { b with badLines := b.badLines ++ [key] }) s
    else s
  | .control bid entry many => if (lfind bid s.blocks).isNone then s else strike many (failControl bid entry) s
  | .transit op place pat => strikeTransit op place pat s

/-- STORAGE_ERROR: stored bits change of themselves (R236 to R238). -/
def execStorageError (u : Upset) (s : State) : Out State := .next (upset u s)

/-- R339, R351: a word that no encoding assigns, or with a reserved field that is not zero. -/
def illegalWord (w : Word) : Bool :=
  match decodeWord w with
  | .ok _ => false
  | .error .register => match decodeWord (registerBits w) with
    | .ok _ => false
    | .error _ => true
  | .error _ => true

/-- ILLEGAL_INSTRUCTION: the bundle that reaches such a word traps with cause 0x01 (R339, R351). -/
def execIllegalInstruction (word : Word) (s : State) : Out State :=
  if s.iss.live && illegalWord word then .next (trapHere 0x01 0 s) else .next s

end Sys2Proof.Machine
end

