-- ==== Sys2Proof/Machine/Watch.lean ====
section
/-! DEFINITION. The watchdogs and their snapshots (R306 to R311, R327, R507, R508). -/

set_option Elab.async false

namespace Sys2Proof.Machine

/-- Bits of a list of truth values, the first lowest. -/
def bitsNat : List Bool → Nat
  | [] => 0
  | b :: t => (if b then 1 else 0) + 2 * bitsNat t

/-- R308: the block record of a snapshot, 128 bytes. -/
def blockRecord (s : State) (seq : Nat) (b : Block) (fired : Bool) : List Byte :=
  leBytes 4 seq ++ leBytes 4 b.x ++ leBytes 4 (b.y % 65536 + b.z * 65536) ++
  leBytes 4 (b.core + b.nwarps % 64 * 2 ^ 8 + b.cls * 2 ^ 14 + if fired then 2 ^ 16 else 0) ++
  ((List.range 16).map fun k => BitVec.ofNat 8 (laneCount (lget {} k b.bars).arrived)) ++
  leBytes 16 ((List.range 64).foldr (fun t n => (tileAt b t).state % 4 + 4 * n) 0) ++
  leBytes 8 (bitsNat ((List.range 64).map fun i => lget false i b.rings)) ++
  leBytes 8 (timeOf s) ++ List.replicate 64 0

/-- R308, R507: the warp record of a snapshot, 256 bytes. -/
def warpRecord (seq : Nat) (w : Warp) (fired : Bool) : List Byte :=
  let set := fun (f : Lane → Bool) => leBytes 4 (laneSet ((w.lanes.filter fun e => f e.2).map (·.1))).toNat
  leBytes 4 seq ++ leBytes 4 (w.num % 32 + w.role * 2 ^ 8 + if fired then 2 ^ 10 else 0) ++
  set (·.exited) ++ set (fun x => !x.exited && heldAtPoint x) ++
  ((List.range 32).map fun l => leBytes 4 ((laneOf w l).getD {}).pc.toNat).flatten ++
  ((List.range 12).map fun k => leBytes 4 (maskOf w k).toNat).flatten ++
  leBytes 9 ((List.range 12).foldr (fun c n => lget 0 c w.cnt % 64 + 64 * n) 0) ++
  leBytes 2 (bitsNat ((List.range 12).map fun c => (lfind c w.cerr).isSome)) ++ List.replicate 53 0

/-- R308: the snapshot of a block. -/
def snapshot (s : State) (seq bid fired : Nat) : List Byte :=
  let b := blkOf s bid
  blockRecord s seq b (b.wks.contains fired) ++
    (b.wks.map fun wk => warpRecord seq (warpOf s wk) (wk == fired)).flatten

/-- R327: the snapshots that fit, one after the other, with the numbers written and dropped. -/
def fitSnapshots : Nat → List (List Byte) → Nat × Nat × List Byte
  | _, [] => (0, 0, [])
  | room, b :: t =>
    if b.length ≤ room then
      let r := fitSnapshots (room - b.length) t
      (r.1 + 1, r.2.1, b ++ r.2.2)
    else
      let r := fitSnapshots room t
      (r.1, r.2.1 + 1, r.2.2)

/-- R327: writes a context's diagnostic area from its latched snapshots. -/
def writeDiag (ctx seq : Nat) (snaps : List (List Byte)) (s : State) : State :=
  let c := ctxOf s ctx
  if snaps.isEmpty ∨ c.diagsize < 64 then s
  else
    let r := fitSnapshots (c.diagsize - 64) snaps
    physWrite c.diagbase (leBytes 4 seq ++ leBytes 4 r.1 ++ leBytes 4 r.2.1 ++ List.replicate 52 0 ++ r.2.2) s

/-- The blocks of a context in ascending core number and, on one core, in dispatch order (R327). -/
def ctxBlocks (s : State) (ctx : Nat) : List Nat :=
  (sortBy (fun e => e.2.core) (sortBy (fun e => e.2.order) (s.blocks.filter fun e => e.2.ctx == ctx))).map (·.1)

/-- R308: the common trigger: every resident block is latched, and each context's area is written. -/
def pullTrigger (fired : Nat) (s : State) : State :=
  let seq := s.trigger + 1
  let areas := (List.range 64).map fun c => (c, (ctxBlocks s c).map fun b => snapshot s seq b fired)
  areas.foldl (fun s e => writeDiag e.1 seq e.2 s) { s with trigger := seq }

/-- R308, R309, R310: a watchdog fires, charged to a warp. -/
def fireWatchdog (wk cause tpc addr : Nat) (s : State) : State :=
  let w := warpOf s wk
  let b := blkOf s w.bid
  endContext b.ctx (eventRecord b.ctx 2 cause b.core w.num tpc addr (pullTrigger wk s))

/-- R306: the hang timeout in cycles. -/
def hangLimit (p : Packet) : Nat := (if p.hangtime = 0 then 1000 else p.hangtime) * 1200000

/-- R307: the barrier timeout in cycles. -/
def barLimit (p : Packet) : Nat := (if p.bartime = 0 then 100000 else p.bartime) * 1200

/-- HANG_WATCHDOG (R306, R309). -/
def execHangWatchdog (wk : Nat) (s : State) : Out State :=
  let w := warpOf s wk
  match w.lanes.find? fun e => !e.2.exited with
  | some e =>
    if w.idle ≥ hangLimit (gridOf s (blkOf s w.bid).gid).pkt then .next (fireWatchdog wk 0x22 e.2.pc.toNat 0 s) else .next s
  | none => .next s

/-- The offset at which a warp's lowest held lane stands at a barrier (R309). -/
def barrierPc (w : Warp) (pod : Bool) (b : Nat) : Nat :=
  match w.lanes.find? fun e => !e.2.exited && atBarrier pod b e.2 with
  | some e => e.2.pc.toNat
  | none => 0

/-- BARRIER_TIMEOUT (R307, R309). -/
def execBarrierTimeout (bid bar : Nat) (s : State) : Out State :=
  let b := blkOf s bid
  let x := lget {} bar b.bars
  match x.first with
  | some n =>
    if x.arrived ≠ 0 ∧ x.timer ≥ barLimit (gridOf s b.gid).pkt then
      let wk := b.wks.getD n 0
      .next (fireWatchdog wk 0x23 (barrierPc (warpOf s wk) false bar) bar s)
    else .next s
  | none => .next s

/-- R309: the block of a pod whose warp arrived first at a pod barrier. -/
def firstMember (s : State) (bar : Nat) (ms : List Nat) : Option Nat :=
  let timer := fun m => (lget {} bar (blkOf s m).pbars).timer
  let here := (sortBy (fun m => (blkOf s m).pod) ms).filter fun m => (lget {} bar (blkOf s m).pbars).first.isSome
  match here with
  | [] => none
  | m :: t => some (t.foldl (fun a m => if timer m > timer a then m else a) m)

/-- POD_BARRIER_TIMEOUT (R307, R309, R471). -/
def execPodBarrierTimeout (bid bar : Nat) (s : State) : Out State :=
  match firstMember s bar (podMembers s bid) with
  | none => .next s
  | some m =>
    let b := blkOf s m
    let x := lget {} bar b.pbars
    if x.arrived ≠ 0 ∧ x.timer ≥ barLimit (gridOf s b.gid).pkt then
      let wk := b.wks.getD (x.first.getD 0) 0
      .next (fireWatchdog wk 0x23 (barrierPc (warpOf s wk) true bar) bar s)
    else .next s

end Sys2Proof.Machine
end

