-- ==== Sys2Proof/Machine/Dispatch.lean ====
section
/-! DEFINITION. The dispatch of a step: one arm per constructor, each a direct call of that instruction's meaning. -/

namespace Sys2Proof.Machine

/-- The effect of one row of the opcode table on the device. -/
def exec (i : Instr) (s : State) : Host.Outcome State Fault Refusal :=
  match i with
  | .iadd d a b g => Sys2Proof.Machine.execIadd d a b g s
  | .iaddD d a b g => Sys2Proof.Machine.execIaddD d a b g s
  | .isub d a b g => Sys2Proof.Machine.execIsub d a b g s
  | .isubD d a b g => Sys2Proof.Machine.execIsubD d a b g s
  | .imul d a b g => Sys2Proof.Machine.execImul d a b g s
  | .imulD d a b g => Sys2Proof.Machine.execImulD d a b g s
  | .imulh d a b g => Sys2Proof.Machine.execImulh d a b g s
  | .imulhU d a b g => Sys2Proof.Machine.execImulhU d a b g s
  | .imad d a b g => Sys2Proof.Machine.execImad d a b g s
  | .imin d a b g => Sys2Proof.Machine.execImin d a b g s
  | .iminU d a b g => Sys2Proof.Machine.execIminU d a b g s
  | .imax d a b g => Sys2Proof.Machine.execImax d a b g s
  | .imaxU d a b g => Sys2Proof.Machine.execImaxU d a b g s
  | .iabs d a g => Sys2Proof.Machine.execIabs d a g s
  | .ishl d a b g => Sys2Proof.Machine.execIshl d a b g s
  | .ishlD d a b g => Sys2Proof.Machine.execIshlD d a b g s
  | .ishr d a b g => Sys2Proof.Machine.execIshr d a b g s
  | .ishrS d a b g => Sys2Proof.Machine.execIshrS d a b g s
  | .ishrD d a b g => Sys2Proof.Machine.execIshrD d a b g s
  | .ishrDs d a b g => Sys2Proof.Machine.execIshrDs d a b g s
  | .iext d a w sg n => Sys2Proof.Machine.execIext d a w sg n s
  | .icmp c p a b g => Sys2Proof.Machine.execIcmp c p a b g s
  | .icmpD c p a b g => Sys2Proof.Machine.execIcmpD c p a b g s
  | .isel d a b sg => Sys2Proof.Machine.execIsel d a b sg s
  | .and d a b g => Sys2Proof.Machine.execAnd d a b g s
  | .or d a b g => Sys2Proof.Machine.execOr d a b g s
  | .xor d a b g => Sys2Proof.Machine.execXor d a b g s
  | .andn d a b g => Sys2Proof.Machine.execAndn d a b g s
  | .popc d a g => Sys2Proof.Machine.execPopc d a g s
  | .clz d a g => Sys2Proof.Machine.execClz d a g s
  | .brev d a g => Sys2Proof.Machine.execBrev d a g s
  | .bfe d a l p => Sys2Proof.Machine.execBfe d a l p s
  | .bfeS d a l p => Sys2Proof.Machine.execBfeS d a l p s
  | .bfi d a l p => Sys2Proof.Machine.execBfi d a l p s
  | .bdep d a b g => Sys2Proof.Machine.execBdep d a b g s
  | .bext d a b g => Sys2Proof.Machine.execBext d a b g s
  | .bperm d a sg g => Sys2Proof.Machine.execBperm d a sg g s
  | .bpset a sg => Sys2Proof.Machine.execBpset a sg s
  | .bmm8 d a b g => Sys2Proof.Machine.execBmm8 d a b g s
  | .bytep d a b g => Sys2Proof.Machine.execBytep d a b g s
  | .mov d a g => Sys2Proof.Machine.execMov d a g s
  | .movD d a g => Sys2Proof.Machine.execMovD d a g s
  | .movi d im => Sys2Proof.Machine.execMovi d im s
  | .movhi d im => Sys2Proof.Machine.execMovhi d im s
  | .plop c d a b g => Sys2Proof.Machine.execPlop c d a b g s
  | .ptow d g => Sys2Proof.Machine.execPtow d g s
  | .wtop a g => Sys2Proof.Machine.execWtop a g s
  | .qadd d a b im => Sys2Proof.Machine.execQadd d a b im s
  | .qsub d a b im => Sys2Proof.Machine.execQsub d a b im s
  | .qmul d a b im => Sys2Proof.Machine.execQmul d a b im s
  | .qlop d a b f => Sys2Proof.Machine.execQlop d a b f s
  | .qshf d a b k => Sys2Proof.Machine.execQshf d a b k s
  | .qcmp p a b c => Sys2Proof.Machine.execQcmp p a b c s
  | .qmovi d im => Sys2Proof.Machine.execQmovi d im s
  | .qmovhi d im => Sys2Proof.Machine.execQmovhi d im s
  | .vtoq d a g => Sys2Proof.Machine.execVtoq d a g s
  | .qtov d a g => Sys2Proof.Machine.execQtov d a g s
  | .ladd d a b g => Sys2Proof.Machine.execLadd d a b g s
  | .laddL16 d a b g => Sys2Proof.Machine.execLaddL16 d a b g s
  | .laddL8 d a b g => Sys2Proof.Machine.execLaddL8 d a b g s
  | .lsub d a b g => Sys2Proof.Machine.execLsub d a b g s
  | .lsubL16 d a b g => Sys2Proof.Machine.execLsubL16 d a b g s
  | .lsubL8 d a b g => Sys2Proof.Machine.execLsubL8 d a b g s
  | .lmul d a b g => Sys2Proof.Machine.execLmul d a b g s
  | .lmulL16 d a b g => Sys2Proof.Machine.execLmulL16 d a b g s
  | .lmulL8 d a b g => Sys2Proof.Machine.execLmulL8 d a b g s
  | .ldiv d a b g => Sys2Proof.Machine.execLdiv d a b g s
  | .ldivL16 d a b g => Sys2Proof.Machine.execLdivL16 d a b g s
  | .ldivL8 d a b g => Sys2Proof.Machine.execLdivL8 d a b g s
  | .lmad d a b g => Sys2Proof.Machine.execLmad d a b g s
  | .lmadL16 d a b g => Sys2Proof.Machine.execLmadL16 d a b g s
  | .lmadL8 d a b g => Sys2Proof.Machine.execLmadL8 d a b g s
  | .lmin d a b g => Sys2Proof.Machine.execLmin d a b g s
  | .lminL16 d a b g => Sys2Proof.Machine.execLminL16 d a b g s
  | .lminL8 d a b g => Sys2Proof.Machine.execLminL8 d a b g s
  | .lmax d a b g => Sys2Proof.Machine.execLmax d a b g s
  | .lmaxL16 d a b g => Sys2Proof.Machine.execLmaxL16 d a b g s
  | .lmaxL8 d a b g => Sys2Proof.Machine.execLmaxL8 d a b g s
  | .lcmp c p a b g => Sys2Proof.Machine.execLcmp c p a b g s
  | .lcmpL16 c p a b g => Sys2Proof.Machine.execLcmpL16 c p a b g s
  | .lcmpL8 c p a b g => Sys2Proof.Machine.execLcmpL8 c p a b g s
  | .lscale d a n p => Sys2Proof.Machine.execLscale d a n p s
  | .ldot4 d a b g => Sys2Proof.Machine.execLdot4 d a b g s
  | .lsqrt d a p g => Sys2Proof.Machine.execLsqrt d a p g s
  | .lrcp d a p g => Sys2Proof.Machine.execLrcp d a p g s
  | .lsgn d a sg p g => Sys2Proof.Machine.execLsgn d a sg p g s
  | .lclass d a p g => Sys2Proof.Machine.execLclass d a p g s
  | .lexp2 d a p g => Sys2Proof.Machine.execLexp2 d a p g s
  | .llog2 d a p g => Sys2Proof.Machine.execLlog2 d a p g s
  | .lsin d a p g => Sys2Proof.Machine.execLsin d a p g s
  | .lcos d a p g => Sys2Proof.Machine.execLcos d a p g s
  | .ltanh d a p g => Sys2Proof.Machine.execLtanh d a p g s
  | .lnarrow d a sg f t g => Sys2Proof.Machine.execLnarrow d a sg f t g s
  | .lwiden d a sg f t g => Sys2Proof.Machine.execLwiden d a sg f t g s
  | .lcvi d a u p g => Sys2Proof.Machine.execLcvi d a u p g s
  | .lcvx d a u p g => Sys2Proof.Machine.execLcvx d a u p g s
  | .lcvf d a f p g => Sys2Proof.Machine.execLcvf d a f p g s
  | .lcve d a f p g => Sys2Proof.Machine.execLcve d a f p g s
  | .rand d a sg p g => Sys2Proof.Machine.execRand d a sg p g s
  | .shflLane d a b g => Sys2Proof.Machine.execShflLane d a b g s
  | .shflFlip d a b g => Sys2Proof.Machine.execShflFlip d a b g s
  | .shflLower d a b g => Sys2Proof.Machine.execShflLower d a b g s
  | .shflHigher d a b g => Sys2Proof.Machine.execShflHigher d a b g s
  | .shwr d a b g => Sys2Proof.Machine.execShwr d a b g s
  | .quadx d a m => Sys2Proof.Machine.execQuadx d a m s
  | .vote m p im a q g => Sys2Proof.Machine.execVote m p im a q g s
  | .mjoin m => Sys2Proof.Machine.execMjoin m s
  | .mleave m => Sys2Proof.Machine.execMleave m s
  | .mwait m => Sys2Proof.Machine.execMwait m s
  | .mread d m => Sys2Proof.Machine.execMread d m s
  | .mset m b => Sys2Proof.Machine.execMset m b s
  | .ld d o sg w h => Sys2Proof.Machine.execLd d o sg w h s
  | .lda d o sg w c => Sys2Proof.Machine.execLda d o sg w c s
  | .st d o sg w h => Sys2Proof.Machine.execSt d o sg w h s
  | .str d o sg w c => Sys2Proof.Machine.execStr d o sg w c s
  | .ldq d o sg w h => Sys2Proof.Machine.execLdq d o sg w h s
  | .ldl d o sg w x => Sys2Proof.Machine.execLdl d o sg w x s
  | .stl d o sg w x => Sys2Proof.Machine.execStl d o sg w x s
  | .fenceAcqrel sg => Sys2Proof.Machine.execFenceAcqrel sg s
  | .fenceSc sg => Sys2Proof.Machine.execFenceSc sg s
  | .cctl o sg p => Sys2Proof.Machine.execCctl o sg p s
  | .ifence => Sys2Proof.Machine.execIfence s
  | .atomAdd d o sg w r c => Sys2Proof.Machine.execAtomAdd d o sg w r c s
  | .atomMin d o sg w r c => Sys2Proof.Machine.execAtomMin d o sg w r c s
  | .atomMinu d o sg w r c => Sys2Proof.Machine.execAtomMinu d o sg w r c s
  | .atomMax d o sg w r c => Sys2Proof.Machine.execAtomMax d o sg w r c s
  | .atomMaxu d o sg w r c => Sys2Proof.Machine.execAtomMaxu d o sg w r c s
  | .atomAnd d o sg w r c => Sys2Proof.Machine.execAtomAnd d o sg w r c s
  | .atomOr d o sg w r c => Sys2Proof.Machine.execAtomOr d o sg w r c s
  | .atomXor d o sg w r c => Sys2Proof.Machine.execAtomXor d o sg w r c s
  | .atomExch d o sg w r c => Sys2Proof.Machine.execAtomExch d o sg w r c s
  | .atomCas d o sg w r c => Sys2Proof.Machine.execAtomCas d o sg w r c s
  | .atomIncw d o sg r c => Sys2Proof.Machine.execAtomIncw d o sg r c s
  | .atomAddb d o sg r c => Sys2Proof.Machine.execAtomAddb d o sg r c s
  | .atomLadd d o sg r c => Sys2Proof.Machine.execAtomLadd d o sg r c s
  | .redAdd d o sg w r c => Sys2Proof.Machine.execRedAdd d o sg w r c s
  | .redMin d o sg w r c => Sys2Proof.Machine.execRedMin d o sg w r c s
  | .redMinu d o sg w r c => Sys2Proof.Machine.execRedMinu d o sg w r c s
  | .redMax d o sg w r c => Sys2Proof.Machine.execRedMax d o sg w r c s
  | .redMaxu d o sg w r c => Sys2Proof.Machine.execRedMaxu d o sg w r c s
  | .redAnd d o sg w r c => Sys2Proof.Machine.execRedAnd d o sg w r c s
  | .redOr d o sg w r c => Sys2Proof.Machine.execRedOr d o sg w r c s
  | .redXor d o sg w r c => Sys2Proof.Machine.execRedXor d o sg w r c s
  | .redLadd d o sg r c => Sys2Proof.Machine.execRedLadd d o sg r c s
  | .midx a b sg => Sys2Proof.Machine.execMidx a b sg s
  | .mloop d sg => Sys2Proof.Machine.execMloop d sg s
  | .mclr t sg => Sys2Proof.Machine.execMclr t sg s
  | .mscl a b => Sys2Proof.Machine.execMscl a b s
  | .mstat d m t => Sys2Proof.Machine.execMstat d m t s
  | .tdesc t a => Sys2Proof.Machine.execTdesc t a s
  | .tstate d t => Sys2Proof.Machine.execTstate d t s
  | .trel t => Sys2Proof.Machine.execTrel t s
  | .cpyin d sg => Sys2Proof.Machine.execCpyin d sg s
  | .cpyout d sg => Sys2Proof.Machine.execCpyout d sg s
  | .cpyx d sg => Sys2Proof.Machine.execCpyx d sg s
  | .cpyp d sg => Sys2Proof.Machine.execCpyp d sg s
  | .hbind x n sg => Sys2Proof.Machine.execHbind x n sg s
  | .hstat d sg c => Sys2Proof.Machine.execHstat d sg c s
  | .bra o g => Sys2Proof.Machine.execBra o g s
  | .brx a g => Sys2Proof.Machine.execBrx a g s
  | .call o g => Sys2Proof.Machine.execCall o g s
  | .ret g => Sys2Proof.Machine.execRet g s
  | .exit g => Sys2Proof.Machine.execExit g s
  | .trap c => Sys2Proof.Machine.execTrap c s
  | .tret g => Sys2Proof.Machine.execTret g s
  | .bkpt t => Sys2Proof.Machine.execBkpt t s
  | .nop g => Sys2Proof.Machine.execNop g s
  | .yield g => Sys2Proof.Machine.execYield g s
  | .bar b => Sys2Proof.Machine.execBar b s
  | .bardrop a b => Sys2Proof.Machine.execBardrop a b s
  | .pbar d b => Sys2Proof.Machine.execPbar d b s
  | .waitc c n => Sys2Proof.Machine.execWaitc c n s
  | .rgsig im a r sg => Sys2Proof.Machine.execRgsig im a r sg s
  | .rgwait p im a r sg => Sys2Proof.Machine.execRgwait p im a r sg s
  | .trigger g => Sys2Proof.Machine.execTrigger g s
  | .tfork d a b => Sys2Proof.Machine.execTfork d a b s
  | .tjoin a sg => Sys2Proof.Machine.execTjoin a sg s
  | .tpoll d a => Sys2Proof.Machine.execTpoll d a s
  | .sread d n => Sys2Proof.Machine.execSread d n s
  | .swrite a n => Sys2Proof.Machine.execSwrite a n s
  | .loadSectorReturn wk ld sec => Sys2Proof.Machine.execLoadSectorReturn wk ld sec s
  | .storeAck id => Sys2Proof.Machine.execStoreAck id s
  | .pageWalkComplete core ctx rev va => Sys2Proof.Machine.execPageWalkComplete core ctx rev va s
  | .lightFault ctx va => Sys2Proof.Machine.execLightFault ctx va s
  | .faultResolve ctx v => Sys2Proof.Machine.execFaultResolve ctx v s
  | .sideLogReplay id => Sys2Proof.Machine.execSideLogReplay id s
  | .l2LineWriteback line evict => Sys2Proof.Machine.execL2LineWriteback line evict s
  | .linkRecoveryStart link => Sys2Proof.Machine.execLinkRecoveryStart link s
  | .linkRecoveryEnd link => Sys2Proof.Machine.execLinkRecoveryEnd link s
  | .peerUnreachable link => Sys2Proof.Machine.execPeerUnreachable link s
  | .patrolScrubRow ch => Sys2Proof.Machine.execPatrolScrubRow ch s
  | .copyStart core queue => Sys2Proof.Machine.execCopyStart core queue s
  | .hullerCellFire op cell => Sys2Proof.Machine.execHullerCellFire op cell s
  | .copyComplete core queue => Sys2Proof.Machine.execCopyComplete core queue s
  | .hbindComplete core => Sys2Proof.Machine.execHbindComplete core s
  | .matrixOpStart core => Sys2Proof.Machine.execMatrixOpStart core s
  | .midxComplete core => Sys2Proof.Machine.execMidxComplete core s
  | .mclrComplete core => Sys2Proof.Machine.execMclrComplete core s
  | .mloopComplete core => Sys2Proof.Machine.execMloopComplete core s
  | .mloopNanStop core => Sys2Proof.Machine.execMloopNanStop core s
  | .forkPoint wk => Sys2Proof.Machine.execForkPoint wk s
  | .joinMerge slot => Sys2Proof.Machine.execJoinMerge slot s
  | .copyOnWrite ctx rev vpn => Sys2Proof.Machine.execCopyOnWrite ctx rev vpn s
  | .revisionSpaceTimeout ctx cls => Sys2Proof.Machine.execRevisionSpaceTimeout ctx cls s
  | .twinCompare wk => Sys2Proof.Machine.execTwinCompare wk s
  | .assuredCheckpoint bid => Sys2Proof.Machine.execAssuredCheckpoint bid s
  | .queueDoorbell queue v => Sys2Proof.Machine.execQueueDoorbell queue v s
  | .waitWordPoll => Sys2Proof.Machine.execWaitWordPoll s
  | .dispatchDecision => Sys2Proof.Machine.execDispatchDecision s
  | .warpStopped wk => Sys2Proof.Machine.execWarpStopped wk s
  | .forcedStop wk => Sys2Proof.Machine.execForcedStop wk s
  | .blockSave bid => Sys2Proof.Machine.execBlockSave bid s
  | .blockEnd bid => Sys2Proof.Machine.execBlockEnd bid s
  | .gridCompletion gid => Sys2Proof.Machine.execGridCompletion gid s
  | .hangWatchdog wk => Sys2Proof.Machine.execHangWatchdog wk s
  | .barrierTimeout bid bar => Sys2Proof.Machine.execBarrierTimeout bid bar s
  | .podBarrierTimeout bid bar => Sys2Proof.Machine.execPodBarrierTimeout bid bar s
  | .powerLimitExceeded => Sys2Proof.Machine.execPowerLimitExceeded s
  | .thermalShutdown => Sys2Proof.Machine.execThermalShutdown s
  | .perstnRise => Sys2Proof.Machine.execPerstnRise s
  | .firmwareVerification image => Sys2Proof.Machine.execFirmwareVerification image s
  | .port0LinkTraining => Sys2Proof.Machine.execPort0LinkTraining s
  | .memoryTraining => Sys2Proof.Machine.execMemoryTraining s
  | .hostWindowAccess write off len data => Sys2Proof.Machine.execHostWindowAccess write off len data s
  | .deviceResetWrite v => Sys2Proof.Machine.execDeviceResetWrite v s
  | .l2wb v => Sys2Proof.Machine.execL2wb v s
  | .l2wbDone => Sys2Proof.Machine.execL2wbDone s
  | .queueControlWrite queue v => Sys2Proof.Machine.execQueueControlWrite queue v s
  | .tlbinv ctx v => Sys2Proof.Machine.execTlbinv ctx v s
  | .tlbinvDone ctx => Sys2Proof.Machine.execTlbinvDone ctx s
  | .contextSuspend ctx v => Sys2Proof.Machine.execContextSuspend ctx v s
  | .contextEndRequest ctx v => Sys2Proof.Machine.execContextEndRequest ctx v s
  | .fqrdWrite ctx v => Sys2Proof.Machine.execFqrdWrite ctx v s
  | .eqrdWrite ctx v => Sys2Proof.Machine.execEqrdWrite ctx v s
  | .fqsizeWrite ctx v => Sys2Proof.Machine.execFqsizeWrite ctx v s
  | .eqsizeWrite ctx v => Sys2Proof.Machine.execEqsizeWrite ctx v s
  | .revisionStackPush ctx cls v => Sys2Proof.Machine.execRevisionStackPush ctx cls v s
  | .contextCounterClear ctx which v => Sys2Proof.Machine.execContextCounterClear ctx which v s
  | .hintshortClear ctx v => Sys2Proof.Machine.execHintshortClear ctx v s
  | .channelCounterClear ch which v => Sys2Proof.Machine.execChannelCounterClear ch which v s
  | .registerWrite off v => Sys2Proof.Machine.execRegisterWrite off v s
  | .partoff tag part => Sys2Proof.Machine.execPartoff tag part s
  | .partoffDone => Sys2Proof.Machine.execPartoffDone s
  | .partfmt tag part cls => Sys2Proof.Machine.execPartfmt tag part cls s
  | .partfmtDone => Sys2Proof.Machine.execPartfmtDone s
  | .parton tag part => Sys2Proof.Machine.execParton tag part s
  | .scrubset tag ch period window => Sys2Proof.Machine.execScrubset tag ch period window s
  | .retire tag pa => Sys2Proof.Machine.execRetire tag pa s
  | .budget tag ctx value => Sys2Proof.Machine.execBudget tag ctx value s
  | .resume tag ctx => Sys2Proof.Machine.execResume tag ctx s
  | .histread tag ch buf => Sys2Proof.Machine.execHistread tag ch buf s
  | .schedset tag us => Sys2Proof.Machine.execSchedset tag us s
  | .huskexp tag ctx off buf => Sys2Proof.Machine.execHuskexp tag ctx off buf s
  | .huskimp tag ctx off buf => Sys2Proof.Machine.execHuskimp tag ctx off buf s
  | .lateact tag queue act => Sys2Proof.Machine.execLateact tag queue act s
  | .codemove tag ctx handle base => Sys2Proof.Machine.execCodemove tag ctx handle base s
  | .codemoveCopy => Sys2Proof.Machine.execCodemoveCopy s
  | .powerset tag watts => Sys2Proof.Machine.execPowerset tag watts s
  | .ident tag buf => Sys2Proof.Machine.execIdent tag buf s
  | .attest tag buf nonce => Sys2Proof.Machine.execAttest tag buf nonce s
  | .fwload tag buf len => Sys2Proof.Machine.execFwload tag buf len s
  | .mailboxUnassigned tag code => Sys2Proof.Machine.execMailboxUnassigned tag code s
  | .illegalInstruction word => Sys2Proof.Machine.execIllegalInstruction word s
  | .perstnFall => Sys2Proof.Machine.execPerstnFall s
  | .supplyLoss => Sys2Proof.Machine.execSupplyLoss s
  | .supplyReturn => Sys2Proof.Machine.execSupplyReturn s
  | .linkRestore link => Sys2Proof.Machine.execLinkRestore link s
  | .storageError u => Sys2Proof.Machine.execStorageError u s
  | .powerBelowLimit => Sys2Proof.Machine.execPowerBelowLimit s

end Sys2Proof.Machine
end

