-- ==== Sys2Proof/Machine/Due.lean ====
section
/-! DEFINITION. Which of the device's own steps are due, and the order of a cycle. -/

set_option Elab.async false

namespace Sys2Proof.Machine

/-- R179: links whose recovery has lasted 50 ms. -/
def lostLinks (s : State) : List Instr :=
  s.links.filterMap fun e =>
    match e.2.recovery with
    | some t => if !e.2.unreachable && decide (timeOf s ≥ t + recoveryLimit) then some (Instr.peerUnreachable e.1) else none
    | none => none

/-- R306: warps whose hang timer has reached its limit. -/
def hungWarps (s : State) : List Instr :=
  (s.warps.filter fun e =>
    (e.2.lanes.any fun l => !l.2.exited) && decide (e.2.idle ≥ hangLimit (gridOf s (blkOf s e.2.bid).gid).pkt)).map fun e =>
      Instr.hangWatchdog e.1

/-- R307: block barriers whose timer has reached its limit. -/
def stuckBarriers (s : State) : List Instr :=
  s.blocks.flatMap fun e => (e.2.bars.filter fun x =>
    x.2.arrived != 0 && x.2.first.isSome && decide (x.2.timer ≥ barLimit (gridOf s e.2.gid).pkt)).map fun x =>
      Instr.barrierTimeout e.1 x.1

/-- R471: the pod barrier of a block's pod has reached its limit. -/
def podStuck (s : State) (bid bar : Nat) : Bool :=
  match firstMember s bar (podMembers s bid) with
  | some m =>
    let x := lget {} bar (blkOf s m).pbars
    x.arrived != 0 && decide (x.timer ≥ barLimit (gridOf s (blkOf s m).gid).pkt)
  | none => false

/-- R471: pod barriers whose timer has reached its limit. -/
def stuckPods (s : State) : List Instr :=
  s.blocks.flatMap fun e => (e.2.pbars.filter fun x => podStuck s e.1 x.1).map fun x => Instr.podBarrierTimeout e.1 x.1

/-- R298: warps whose 100 µs are over. -/
def lateStops (s : State) : List Instr := (s.warps.filter fun e => forceDue s e.2).map fun e => Instr.forcedStop e.1

/-- R290, R293: packets or pods stand for dispatch. -/
def dispatchWaits (s : State) : Bool :=
  (s.queues.any fun q => q.2.hasHead) || (s.forks.any fun f => f.2.pending.isSome) || !(scanGrids s).isEmpty

/-- R290: a completion or a doorbell has come since the wait words were read, or 10 µs are over. -/
def duePolls (s : State) : List Instr :=
  if (s.polled = 0 ∨ timeOf s ≥ s.polled + 10000) ∧ dispatchWaits s = true then [Instr.waitWordPoll] else []

/-- R272: revision-space steps that have waited 10 ms. -/
def lateSpace (s : State) : List Instr :=
  (s.faults.filter fun f => spaceDue s f.ctx f.cls f).map fun f => Instr.revisionSpaceTimeout f.ctx f.cls

/-- Steps that the spec ties to an instant: they come before anything else of a device's turn (R179, R290, R298, R306,
R307, R272). Where several stand, which comes first is free (log 4). -/
def timedEvents (s : State) : List Instr :=
  [lostLinks s, hungWarps s, stuckBarriers s, stuckPods s, lateStops s, duePolls s, lateSpace s].flatten

/-- Sectors of loads and atomics that may return. -/
def loadReturns (s : State) : List Instr :=
  s.warps.flatMap fun e => e.2.loads.flatMap fun o =>
    ((o.accs.filter fun a => !a.done).filterMap paSector).eraseDups.map fun sec => Instr.loadSectorReturn e.1 o.id sec

/-- Walks that may be repeated. -/
def walkEnds (s : State) : List Instr :=
  s.warps.flatMap fun e => e.2.loads.flatMap fun o =>
    (o.accs.filter fun a => a.wait != 0 && !a.done && !faultWaits s a.wait).map fun a =>
      Instr.pageWalkComplete (blkOf s e.2.bid).core (blkOf s e.2.bid).ctx (revOf s e.2.bid) a.va

/-- Faults that the device itself serves. -/
def ownFaults (s : State) : List Instr :=
  s.faults.filterMap fun f =>
    if f.kind = 8 then some (Instr.lightFault f.ctx (f.vpn * 4096))
    else if f.kind = 9 ∨ f.kind = 10 then some (Instr.copyOnWrite f.ctx f.rev f.vpn)
    else none

/-- Lines that may be written back or evicted. -/
def lineEvents (s : State) : List Instr :=
  (s.l2.map fun e => e.1 / 4).eraseDups.flatMap fun l => [Instr.l2LineWriteback l false, Instr.l2LineWriteback l true]

/-- Steps of loads, stores, the side log, faults and the second-level cache. -/
def memoryEvents (s : State) : List Instr :=
  [loadReturns s, s.stores.map fun o => Instr.storeAck o.id, walkEnds s,
    (s.side.filter (replayReady s)).map fun e => Instr.sideLogReplay e.id, ownFaults s,
    lineEvents s].flatten

/-- Steps of the copy queues. -/
def copyEvents (s : State) : List Instr :=
  ((s.copies.map fun c => (c.core, c.queue)).eraseDups).flatMap fun q =>
    [Instr.copyStart q.1 q.2, Instr.copyComplete q.1 q.2, Instr.hbindComplete q.1]

/-- Cells of the Hullers that may fire. -/
def cellEvents (s : State) : List Instr :=
  s.copies.flatMap fun c => if c.started && c.fab.isSome then c.ops.map fun o => Instr.hullerCellFire c.id o.1 else []

/-- Steps of the matrix units, whose issue cycles power limiting withholds first (R23). -/
def matrixEvents (s : State) : List Instr :=
  if s.pw.withheld ≠ 0 then [] else (s.mats.map fun m => m.core).eraseDups.flatMap fun c =>
    [Instr.matrixOpStart c, Instr.midxComplete c, Instr.mclrComplete c, Instr.mloopComplete c, Instr.mloopNanStop c]

/-- Steps of the revision engine, of twins and of checkpoints. -/
def revisionEvents (s : State) : List Instr :=
  [(s.forkReqs.filter fun r => r.done.isNone && r.refuse.isNone).map fun r => Instr.forkPoint r.wk,
    (s.forks.filter fun f => joinReady s f.2).map fun f => Instr.joinMerge f.1,
    (s.warps.filter fun e => e.2.cmps.any fun c => c.twin.isSome && !c.agreed).map fun e => Instr.twinCompare e.1,
    (s.blocks.filter fun b => b.2.cls == 2 && b.2.stopAt.isNone).map fun b => Instr.assuredCheckpoint b.1].flatten

/-- Steps of blocks that stop or end, and of grids that complete. -/
def blockEvents (s : State) : List Instr :=
  [(s.warps.filter fun e => (blkOf s e.2.bid).stopAt.isSome && !e.2.stopped).map fun e => Instr.warpStopped e.1,
    (s.blocks.filter fun b => b.2.stopAt.isSome && !b.2.moveStop).map fun b => Instr.blockSave b.1,
    (s.blocks.filter fun b => endReady s b.1).map fun b => Instr.blockEnd b.1,
    (s.grids.filter fun g => g.2.done || g.2.final.isSome).map fun g => Instr.gridCompletion g.1].flatten

/-- Dispatch, and polls of wait words, which may be more frequent than R290 asks. -/
def dispatchEvents (s : State) : List Instr := if dispatchWaits s then [Instr.dispatchDecision, Instr.waitWordPoll] else []

/-- Steps of bring-up (R332). -/
def bringUpEvents (s : State) : List Instr :=
  if powered s then
    match s.pw.step with
    | 1 => [Instr.port0LinkTraining]
    | 2 => [Instr.memoryTraining]
    | _ => []
  else []

/-- The end of a running command (R241, R317). -/
def commandEvents (s : State) : List Instr :=
  match s.rw.running with
  | some (0x40, _) => [Instr.partoffDone]
  | some (0x41, _) => [Instr.partfmtDone]
  | some (0x54, _) => [Instr.codemoveCopy]
  | _ => []

/-- Steps that finish what the host began, bring-up, and the scrubbers. -/
def hostEvents (s : State) : List Instr :=
  [bringUpEvents s, if s.rw.l2wb then [Instr.l2wbDone] else [], (s.ctxs.filter fun c => c.2.tlbinv).map fun c => Instr.tlbinvDone c.1,
    commandEvents s, ((List.range 24).filter (scrubDue s)).map fun c => Instr.patrolScrubRow c].flatten

/-- The device's own steps that could happen now (log 4). Upsets, links that fail, the die's power and the flash's image
come from outside (log 2). -/
def dueEvents (s : State) : List Instr :=
  [memoryEvents s, copyEvents s, cellEvents s, matrixEvents s, revisionEvents s, blockEvents s, dispatchEvents s,
    hostEvents s].flatten

/-- One of n choices that the spec leaves open (log 2). -/
def freeChoice (n : Nat) (s : State) : Nat × State :=
  let r := freeNat s
  ((Config.freeWord r.1).toNat % n, r.2)

/-- The device's turn at the start of a cycle, whose completions come before the issues of the cycle (R150): a step that is
tied to this instant, where one is; else a due step or the end of the turn, which of them being free (log 2, log 4). -/
def devicePhase (exec : Instr → State → Out State) (s : State) : Out State :=
  match timedEvents s with
  | t :: ts =>
    let r := freeChoice (ts.length + 1) s
    exec ((t :: ts).getD r.1 t) r.2
  | [] =>
    match dueEvents s with
    | [] => .next { s with slot := 1 }
    | evs =>
      let r := freeChoice (evs.length + 1) s
      match evs[r.1]? with
      | some e => exec e r.2
      | none => .next { r.2 with slot := 1 }

/-- One step of the device, given the effect of each row (log 3): the next input or device event of the agenda; else the
device's turn; else the next bundle of the cycle, or the end of the cycle. -/
def stepWith (exec : Instr → State → Out State) (s : State) : Out State :=
  match s.agenda with
  | i :: t => exec i { s with agenda := t }
  | [] =>
    if s.slot = 0 then devicePhase exec s
    else
      match issuePhase exec 769 s with
      | (_, some r) => r
      | (s, none) => .next (endCycle s)

/-- Physical addresses of the tables and the page that `withFetchWord` writes, and the page-table entries. -/
def slotTables : List (Nat × Nat) :=
  [(0x1000, 0x801), (0x2000, 0xC01), (0x3000, 0x1001), (0x4000, 0x1401), (0x5080, 0x403D)]

/-- A header that opens a clause of one slot, of the class of the word, with counters 0 and 1. -/
def slotHeader (w : Word) : Word :=
  let c : Nat := match opClass (opByte w) with
    | some .v => 0
    | some .m => 1
    | some .x => 2
    | some .c => 3
    | _ => 4
  BitVec.ofNat 32 (5 * 2 ^ 29 + 2 ^ 25 + c * 2 ^ 22 + 1 * 4)

/-- The registers of the program slot's warp: mask m0 holds every lane (R43). -/
def slotRegs : Regs := { masks := [(0, 0xFFFFFFFF)] }

/-- The program slot: one context, grid, block and warp of 32 lanes whose text is a clause of one word (log 19). -/
def loadSlot (w : Word) (s : State) : State :=
  let mem := slotTables.foldl (fun m e => Memory.write m e.1 (leBytes 8 e.2)) s.mem
  let mem := Memory.write mem 0x10040 (wordBytes (slotHeader w) ++ wordBytes w)
  { s with
    agenda := []
    slot := 1
    iss := {}
    pw := { s.pw with step := 3, limited := false, withheld := 0 }
    parts := lset {} 0 { cls := 0, state := 2, formatted := true } s.parts
    ctxs := lset {} 0 { lget {} 0 s.ctxs with ptroot := 0x1000 } s.ctxs
    mem := mem
    poison := []
    dmgData := []
    dmgCheck := []
    l2 := []
    busy := []
    l1 := []
    icache := []
    tlb := []
    revmap := []
    locks := []
    retired := []
    stores := []
    side := []
    faults := []
    copies := []
    mats := []
    forkReqs := []
    grids := [(1, {
      gid := 1, ctx := 0, queue := 0, idx := 0,
      pkt := { handler := 0, roles := [0, 0, 0, 1], lanes := 32, wunits := 15, qunits := 7 },
      obj := { base := 0x10000, text := 64, textLen := 8 }, left := 1 })]
    blocks := [(1, { gid := 1, ctx := 0, core := 0, wks := [1], wregs := 128, qregs := 64 })]
    warps := [(1, {
      bid := 1, num := 0, role := 3, quarter := 0,
      r := slotRegs, tw := slotRegs,
      lanes := (List.range 32).map fun l => (l, ({} : Lane)) })]
    lastWarp := [] }

end Sys2Proof.Machine
end

