-- ==== Sys2Proof/Machine/Step.lean ====
section
/-! DEFINITION. One step of the device, and the program slot that its next step fetches from. -/

set_option Elab.async false

namespace Sys2Proof.Machine

/-- One step of the device (log 3). -/
def step (s : State) : Host.Outcome State Fault Refusal := stepWith exec s

/-- The state with an instruction word placed where the next step fetches (log 19). -/
def State.withFetchWord (s : State) (_nbits w : Nat) : State := loadSlot (BitVec.ofNat 32 w) s

end Sys2Proof.Machine
end

