-- ==== Sys2Proof/Safety.lean ====
section
/-! DEFINITION. What counts as a safe run, and the terms that claims use. -/

set_option Elab.async false

namespace Sys2Proof.Machine

/-- A step neither faults nor refuses. -/
def goesOn (s : State) : Prop := ∃ t, step s = .next t

/-- Every run of k steps from a state goes on. -/
def safeFor : Nat → State → Prop
  | 0, _ => True
  | k + 1, s => ∃ t, step s = .next t ∧ safeFor k t

/-- An instruction issues and nothing stands in its way: a bundle of a warp of the device issues it, the checks of R339
and the interlock of R59 pass, and the block is not Assured (Assured kernels have statements of their own). -/
def Runs (i : Instr) (s : State) : Prop :=
  s.iss.live = true ∧ issueOk i s = true ∧ isAssured s = false ∧ s.iss.side = .lead ∧ s.iss.cmp = 0 ∧
    (lfind s.iss.wk s.warps).isSome = true ∧ (lfind s.iss.bid s.blocks).isSome = true

/-- Where the bundle goes on: the following word, or the header after the clause (R35, R38). -/
def nextPc (s : State) : Word := if s.iss.last then s.iss.hnext else s.iss.next

/-- The lanes of the bundle stand at an offset, the warp's other lanes where they stood, and none has exited. -/
def movedTo (pc : Word) (s t : State) : Prop :=
  ∀ l, (lfind l (curWarp t).lanes).map (fun x => (x.pc, x.exited)) =
    (lfind l (curWarp s).lanes).map fun x => (if s.iss.lanes.getLsbD l then pc else x.pc, x.exited)

/-- The lanes of the bundle have gone on. -/
def movedOn (s t : State) : Prop := movedTo (nextPc s) s t

/-- A warp without its lanes and the lead's registers. -/
def restOfWarp (w : Warp) : Warp := { w with r := {}, lanes := [] }

/-- The device without its warps. -/
def restOfState (s : State) : State := { s with warps := [] }

/-- Registers without the w registers, the marks of pending results (R59) and the failing words (R238). -/
def restOfW (r : Regs) : Regs := { r with w := [], marks := [], bad := [] }

/-- The same without the p registers. -/
def restOfP (r : Regs) : Regs := { r with p := [], marks := [], bad := [] }

/-- The same without the q registers. -/
def restOfQ (r : Regs) : Regs := { r with q := [], marks := [], bad := [] }

/-- No word of the registers comes to fail: a write only heals words (R238). -/
def noNewBad (s t : State) : Prop := ∀ e ∈ (regsOf t).bad, e ∈ (regsOf s).bad

/-- The issuing warp keeps all but its lanes' places and the lead's registers: trap registers, masks, counters, ages,
the twin's registers. -/
def keepsWarp (s t : State) : Prop :=
  restOfWarp (curWarp t) = restOfWarp (curWarp s)

/-- Registers without the masks and the marks. -/
def restOfMaskRegs (r : Regs) : Regs := { r with masks := [], marks := [] }

/-- The same without the mark of YIELD. -/
def restOfYield (w : Warp) : Warp := { w with r := {}, lanes := [], yielded := false }

/-- Registers without sr.link and the marks. -/
def restOfLink (r : Regs) : Regs := { r with link := [], marks := [] }

/-- A warp without its deferred causes. -/
def restOfDeferred (w : Warp) : Warp := { w with deferred := [] }

/-- The issuing warp, beside its lanes and its lead's registers, changes as f says. -/
def changesWarp (s t : State) (f : Warp → Warp) : Prop := restOfWarp (curWarp t) = restOfWarp (f (curWarp s))

/-- Every byte of memory reads as before. -/
def keepsMemory (s t : State) : Prop := ∀ a, readByte t a = readByte s a

/-- Everything outside the issuing warp is as before: memory, caches, blocks with their flags and local stores, grids,
contexts, queues, every other warp. -/
def keepsDevice (s t : State) : Prop :=
  restOfState t = restOfState s ∧ (∀ k, k ≠ s.iss.wk → warpOf t k = warpOf s k) ∧ keepsMemory s t

/-- What R41 leaves in lane l of a destination: the value in an active lane; zero under the zero policy, else the old
value, in another lane of the bundle. -/
def laneValue {α : Type} (s : State) (g l : Nat) (zero old v : α) : α :=
  if laneActive s g l then v else if (curPfx s).zero then zero else old

/-- The w registers d to d + n - 1 of the bundle's lanes take the values of R41; every other w register, and every
register of another kind, is as before. -/
def setsW (s t : State) (g d n : Nat) (v : Nat → Nat → Word) : Prop :=
  (∀ r l, l < 32 → readW t r l =
    if d ≤ r ∧ r < d + n ∧ s.iss.lanes.getLsbD l then laneValue s g l 0 (readW s r l) (v (r - d) l) else readW s r l) ∧
  restOfW (regsOf t) = restOfW (regsOf s) ∧ noNewBad s t

/-- The same for one p register; p0 stays true (R342). -/
def setsP (s t : State) (g d : Nat) (v : Nat → Bool) : Prop :=
  (∀ r l, l < 32 → readP t r l =
    if r = d ∧ d ≠ 0 ∧ s.iss.lanes.getLsbD l then laneValue s g l false (readP s r l) (v l) else readP s r l) ∧
  restOfP (regsOf t) = restOfP (regsOf s) ∧ noNewBad s t

/-- The q register d takes a value where some lane is active (R350); every other register is as before. -/
def setsQ (s t : State) (g d : Nat) (v : Word) : Prop :=
  (∀ r, readQ t r = if r = d ∧ active s g ≠ 0 then v else readQ s r) ∧
  restOfQ (regsOf t) = restOfQ (regsOf s) ∧ noNewBad s t

/-- An instruction completes with an effect on w registers only, and the bundle goes on. -/
def doneW (i : Instr) (s : State) (g d n : Nat) (v : Nat → Nat → Word) : Prop :=
  ∃ t, exec i s = .next t ∧ setsW s t g d n v ∧ movedOn s t ∧ keepsWarp s t ∧ keepsDevice s t

/-- The same for a p register. -/
def doneP (i : Instr) (s : State) (g d : Nat) (v : Nat → Bool) : Prop :=
  ∃ t, exec i s = .next t ∧ setsP s t g d v ∧ movedOn s t ∧ keepsWarp s t ∧ keepsDevice s t

/-- The same for a q register. -/
def doneQ (i : Instr) (s : State) (g d : Nat) (v : Word) : Prop :=
  ∃ t, exec i s = .next t ∧ setsQ s t g d v ∧ movedOn s t ∧ keepsWarp s t ∧ keepsDevice s t

/-- The halves of a pair, lower word first. -/
def pairHalves (f : Nat → BitVec 64) (k l : Nat) : Word := (f l).extractLsb' (32 * k) 32

/-- The device without its warps and blocks. -/
def restOfDevice (s : State) : State := { s with warps := [], blocks := [] }

/-- The block of the issuing bundle changes as f says; no other block, nothing of the device and no byte of memory
changes. -/
def changesBlk (s t : State) (f : Block → Block) : Prop :=
  curBlk t = f (curBlk s) ∧ (∀ b, b ≠ s.iss.bid → blkOf t b = blkOf s b) ∧ restOfDevice t = restOfDevice s ∧
    (∀ k, k ≠ s.iss.wk → warpOf t k = warpOf s k) ∧ keepsMemory s t

/-- A block without the flags raised in this cycle. -/
def restOfFlags (b : Block) : Block := { b with flagsNow := 0 }

/-- Some lane that is active and no helper raises flag k (R47, R111). -/
def raised (s : State) (g : Nat) (fl : Nat → Nat) (k : Nat) : Bool :=
  (lanesOf (active s g)).any fun l => !isHelper s l && (fl l).testBit k

/-- No lane that is active and no helper raises a flag whose enable bit is 1 (R111). -/
def noTrap (s : State) (g : Nat) (fl : Nat → Nat) : Prop :=
  ∀ l, l < 32 → laneActive s g l = true → isHelper s l = false → Nat.land (fl l) ((curBlk s).trapen.toNat % 32) = 0

/-- The sticky flags that lanes raise are added to those of the block; nothing else outside the issuing warp changes
(R109, R110). -/
def addsFlags (s t : State) (r : Nat → Bool) : Prop :=
  (∀ k, k < 32 → (curBlk t).flagsNow.getLsbD k = ((curBlk s).flagsNow.getLsbD k || (decide (k < 8) && r k))) ∧
  restOfFlags (curBlk t) = restOfFlags (curBlk s) ∧ (∀ b, b ≠ s.iss.bid → blkOf t b = blkOf s b) ∧
  restOfDevice t = restOfDevice s ∧ (∀ k, k ≠ s.iss.wk → warpOf t k = warpOf s k) ∧ keepsMemory s t

/-- An arithmetic instruction completes: its result in each active lane, and the flags of its lanes. -/
def doneF (i : Instr) (s : State) (g d : Nat) (res : Nat → Word × Nat) : Prop :=
  ∃ t, exec i s = .next t ∧ setsW s t g d 1 (fun _ l => (res l).1) ∧ movedOn s t ∧ keepsWarp s t ∧
    addsFlags s t (raised s g fun l => (res l).2)

/-- Registers without the w and e registers and the generators. -/
def restOfConv (r : Regs) : Regs := { r with w := [], e := [], rng := [], marks := [], bad := [] }

/-- A conversion completes where no enabled flag stops it (R106, R107, R111): each active lane's result, generator and
residues, and the flags of its lanes; other lanes, and every other register, as R41 gives. -/
def doneConv (i : Instr) (s : State) (g d : Nat) (res : Nat → ConvAcc) (word : Nat → ConvAcc → Word) : Prop :=
  noTrap s g (fun l => (res l).flags) →
  ∃ t, exec i s = .next t ∧
    (∀ r l, l < 32 → readW t r l =
      if r = d ∧ s.iss.lanes.getLsbD l then laneValue s g l 0 (readW s r l) (word l (res l)) else readW s r l) ∧
    (∀ l, l < 32 → readRng t l = if laneActive s g l then (res l).rng else readRng s l) ∧
    (∀ r l, l < 32 → readE t r l =
      if laneActive s g l then ((lfind r (res l).res).getD (readE s r l)) else readE s r l) ∧
    restOfConv (regsOf t) = restOfConv (regsOf s) ∧ noNewBad s t ∧ movedOn s t ∧ keepsWarp s t ∧
    addsFlags s t (raised s g fun l => (res l).flags)

/-- Where a lane stands: its program counter, its clause, its hold, and whether it has exited. -/
def standing (s : State) (l : Nat) : Option (Word × Option (Word × Word) × Hold × Bool) :=
  (lfind l (curWarp s).lanes).map fun x => (x.pc, x.clause, x.hold, x.exited)

/-- The lanes of the bundle stand at new places, the warp's other lanes where they stood. -/
def places (s t : State) (f : Nat → Bool → Word × Option (Word × Word) × Hold × Bool) : Prop :=
  ∀ l, standing t l = if s.iss.lanes.getLsbD l then (standing s l).map fun x => f l x.2.2.2 else standing s l

/-- The place after the instruction: in its clause, or at the header that follows. -/
def onward (s : State) (x : Bool) : Word × Option (Word × Word) × Hold × Bool :=
  (nextPc s, if s.iss.last then none else some (s.iss.hoff, s.iss.hdr), .none, x)

/-- A lane that stands at a header. -/
def atHeader (pc : Word) (x : Bool) : Word × Option (Word × Word) × Hold × Bool := (pc, none, .none, x)

/-- A lane held at the instruction. -/
def heldHere (s : State) (h : Hold) (x : Bool) : Word × Option (Word × Word) × Hold × Bool :=
  (s.iss.pc, some (s.iss.hoff, s.iss.hdr), h, x)

/-- Every lane outside a set stands where it stood. -/
def othersStand (s t : State) (ls : Word) : Prop := ∀ l, ls.getLsbD l = false → standing t l = standing s l

/-- R304: what taking an exception does to a warp with a handler: the four trap registers, the trapping lanes at the handler's
offset, and nothing outside the warp. Of the other lanes `othersStand` speaks. -/
def entersHandler (s t : State) (ls : Word) (cause : Nat) (async : Bool) (tpc : Word) (addr : Nat) (h : Word) : Prop :=
  (curWarp t).tcause = BitVec.ofNat 32 (cause + if async then 256 else 0) ∧ (curWarp t).tpc = tpc &&& 0xFFFFFFFC ∧
    (curWarp t).taddr.toNat = addr % 2 ^ 32 ∧ (curWarp t).taddrhi.toNat = addr / 2 ^ 32 % 2 ^ 32 ∧
    (curWarp t).inHandler = true ∧ (curWarp t).trapLanes = ls ∧
    (∀ l, ls.getLsbD l = true → standing t l = (standing s l).map fun x => atHeader h x.2.2.2) ∧
    (curWarp t).r = (curWarp s).r ∧ (curWarp t).deferred = (curWarp s).deferred ∧
    (∀ k, k ≠ s.iss.wk → warpOf t k = warpOf s k) ∧
    restOfState t = restOfState s ∧ keepsMemory s t

/-- A bundle is held at issue: nothing but that mark changes (R36). -/
def heldAt (i : Instr) (s : State) : Prop := exec i s = .next { s with iss := { s.iss with held := true } }

/-- No stored byte and no check symbol is damaged (R236). -/
def undamaged (s : State) : Prop := s.dmgData = [] ∧ s.dmgCheck = []

/-- The accesses of the active lanes that are no helpers, from an offset register and a segment (R158). -/
def ordinaryAccs (s : State) (k o size : Nat) : List Acc :=
  (lanesOf (active s 0 &&& ~~~(helpers s (active s 0)))).map (accessOf s k o size)

/-- The same with the data of the lanes' registers from d on. -/
def ordinaryData (s : State) (k o d size : Nat) : List Acc :=
  (ordinaryAccs s k o size).map fun a => { a with data := dataBytes s d size a.lane }

/-- The one access of an LDQ, from q registers (R446). -/
def uniformAccs (s : State) (k o size : Nat) : List Acc :=
  let v := (readQ s o).toNat + if k = 15 then (readQ s (o + 1)).toNat * 2 ^ 32 else 0
  ((lanesOf (active s 0 &&& ~~~(helpers s (active s 0)))).take 1).map fun l =>
    { lane := l, off := v, size := size, va := if k = 15 then v % 2 ^ 56 else (segOf s k).base + v }

/-- An access in global memory as R159 checks it: the instruction, whether its release must wait first, what it wants of the
page and with which fault kind, and the accesses of its ordinary lanes. -/
structure Global where
  ins : Instr
  release : Bool
  want : Want
  kind : Nat
  accs : List Acc

/-- The forms of a global access: every load, store, atomic and reduction, of every width (R436, R438, R445, R491, R492, R374,
R483). -/
def globals (s : State) (d o : BitVec 7) (dq oq : BitVec 6) (k : BitVec 4) (w h c : BitVec 3) (x y : BitVec 1) (r : BitVec 2) :
    List Global :=
  let n := bytesOfWidth w.toNat
  let m := 4 * (x.toNat + 1)
  let at_ := ordinaryAccs s k.toNat o.toNat
  [⟨.ld d o k w h, false, .read, 0, at_ n⟩, ⟨.lda d o k w c, false, .read, 0, at_ n⟩,
    ⟨.ldq dq oq k w h, false, .read, 0, uniformAccs s k.toNat oq.toNat n⟩,
    ⟨.st d o k w h, false, .write, 1, at_ n⟩, ⟨.str d o k w c, true, .write, 1, at_ n⟩] ++
  ([.atomAdd d o k x r c, .atomMin d o k x r c, .atomMinu d o k x r c, .atomMax d o k x r c, .atomMaxu d o k x r c,
    .atomAnd d o k x r c, .atomOr d o k x r c, .atomXor d o k x r c, .atomExch d o k x r c, .atomCas d o k x r c] : List Instr).map
      (⟨·, r == 2 || r == 3, .readWrite, 2, at_ m⟩) ++
  ([.atomIncw d o k r c, .atomAddb d o k r c, .atomLadd d o k r c] : List Instr).map
      (⟨·, r == 2 || r == 3, .readWrite, 2, at_ 4⟩) ++
  ([.redAdd d o k x y c, .redMin d o k x y c, .redMinu d o k x y c, .redMax d o k x y c, .redMaxu d o k x y c,
    .redAnd d o k x y c, .redOr d o k x y c, .redXor d o k x y c] : List Instr).map (⟨·, y == 1, .readWrite, 2, at_ m⟩) ++
  [⟨.redLadd d o k y c, y == 1, .readWrite, 2, at_ 4⟩]

/-- A block without its local stores and their failing words. -/
def restOfStores (b : Block) : Block := { b with ls := [], bad := [] }

/-- Nothing but the local stores of the block of the issuing bundle changes, outside the issuing warp. -/
def changesStores (s t : State) : Prop :=
  restOfStores (curBlk t) = restOfStores (curBlk s) ∧ (∀ b, b ≠ s.iss.bid → blkOf t b = blkOf s b) ∧
    restOfDevice t = restOfDevice s ∧ (∀ k, k ≠ s.iss.wk → warpOf t k = warpOf s k) ∧ keepsMemory s t

/-- The memory key at which an access has found its place. -/
def placeOf : Reach → Option Nat
  | .at p _ => some p
  | _ => none

/-- An access has found its place. -/
def isAt (r : Reach) : Bool := (placeOf r).isSome

/-- Nothing but the link n has changed. -/
def onlyLink (n : Nat) (s t : State) : Prop :=
  (∀ k, k ≠ n → lget {} k t.links = lget {} k s.links) ∧ t = (fun x : State => { x with links := t.links }) s

/-- Every access passes the six checks of R159 and finds its page. -/
def accessible (s : State) (k : Nat) (w : Want) (kind : Nat) (accs : List Acc) : Prop :=
  firstCheck s k w accs = none ∧
    ∀ e ∈ (reachAll (curBlk s).core (curBlk s).ctx (revOf s s.iss.bid) (segOf s k) w kind accs s).2, isAt e.2 = true

/-- No local store of the warp awaits its comparison (R246). -/
def noStl (s : State) : Prop := ∀ c ∈ (curWarp s).cmps, c.kind ≠ .stl

/-- A release of the warp waits for nothing: its stores are visible, its loads have read, and no local store of it awaits its
comparison (R189, R192, R246). -/
def mayRelease (s : State) : Prop := (curWarp s).rsc = 0 ∧ (curWarp s).loads = [] ∧ noStl s

/-- The warp's accesses may begin: no acquire is under way (R193), and a release waits for nothing (R192). -/
def mayAccess (s : State) (release : Bool) : Prop := (curWarp s).acquiring = false ∧ (release = true → mayRelease s)

/-- R385, R471: what taking warp n out of a barrier leaves of it. -/
def dropsWarp (n : Nat) (x : Barrier) : Barrier :=
  { x with dropped := x.dropped ||| 1#32 <<< n, arrived := x.arrived &&& ~~~(1#32 <<< n) }

/-- The memory key at which checks 5 and 6 of R159 place an access of an instruction. -/
def placed (s : State) (k : Nat) (w : Want) (kind : Nat) (accs : List Acc) (a : Acc) (p : Nat) : Prop :=
  ∃ r, (a, r) ∈ (reachAll (curBlk s).core (curBlk s).ctx (revOf s s.iss.bid) (segOf s k) w kind accs s).2 ∧ placeOf r = some p

/-- An ordinary lane's access has become one of a set of accesses, at the place in memory that its translation gives; or two, the
halves of 16 bytes of host or peer memory (R181). -/
def carried (at_ : Acc → Nat → Prop) (P : Acc → Prop) (a : Acc) : Prop :=
  ∃ b, P b ∧ b.lane = a.lane ∧ b.va = a.va ∧ ∃ k, at_ a k ∧ b.pa = some k ∧
    ((b.size = a.size ∧ b.data = a.data ∧ (a.size = 16 → isLocal k = true)) ∨
      (a.size = 16 ∧ isLocal k = false ∧ b.size = 8 ∧ b.data = a.data.take 8 ∧
        ∃ c, P c ∧ c.lane = a.lane ∧ c.va = a.va + 8 ∧ c.pa = some (k + 8) ∧ c.size = 8 ∧ c.data = a.data.drop 8))

/-- A load or atomic stands issued: the bundle has gone on, the destinations keep their values for now, memory and every block are
as they were, and the warp has one more load outstanding, with an access for each ordinary lane (R60, R171); the release store count
rises by the sectors of an atomic (R192). -/
def loadOut (s t : State) (seg : Nat) (w : Want) (kind d n : Nat) (accs : List Acc) (f : LoadOp → Prop) : Prop :=
  movedOn s t ∧
    (∀ r l, l < 32 → laneActive s 0 l = true → readW t r l = readW s r l) ∧
    (∀ r l, l < 32 → ¬ (d ≤ r ∧ r < d + n) → readW t r l = readW s r l) ∧
    restOfW (curWarp t).r = restOfW (curWarp s).r ∧ noNewBad s t ∧
    changesWarp s t (fun w => { w with loads := (curWarp t).loads, acquiring := (curWarp t).acquiring, rsc := (curWarp t).rsc }) ∧
    (undamaged s → keepsMemory s t) ∧ (∀ k, k ≠ s.iss.wk → warpOf t k = warpOf s k) ∧ t.blocks = s.blocks ∧
    (curWarp t).loads.length = (curWarp s).loads.length + 1 ∧
    ∀ o ∈ (curWarp t).loads.getLast?, f o ∧ o.dst = d ∧ o.nreg = n ∧ o.lanes = active s 0 ∧ (curWarp t).acquiring = o.acquire ∧
      (curWarp t).rsc = (curWarp s).rsc + (if o.rmw.isSome then (sectorsOf accs).length else 0) ∧
      ∀ a ∈ accs, carried (placed s seg w kind accs) (fun b => b ∈ o.accs ∧ b.done = false ∧ b.wait = 0) a

/-- A store or reduction stands issued: the bundle has gone on, no register has changed, memory and every block are as they were,
the release store count has risen by the sectors, and each ordinary lane's access stands in a store in flight (R192). -/
def storeOut (s t : State) (seg : Nat) (w : Want) (kind : Nat) (accs : List Acc) (f : StoreOp → Prop) : Prop :=
  movedOn s t ∧ (curWarp t).r = (curWarp s).r ∧ (undamaged s → keepsMemory s t) ∧
    (∀ k, k ≠ s.iss.wk → warpOf t k = warpOf s k) ∧ t.blocks = s.blocks ∧
    changesWarp s t (fun w => { w with rsc := w.rsc + (sectorsOf accs).length }) ∧
    (∀ o ∈ s.stores, o ∈ t.stores) ∧
    ∀ a ∈ accs, carried (placed s seg w kind accs) (fun b => ∃ o ∈ t.stores, o.wk = s.iss.wk ∧ f o ∧ b ∈ o.accs) a

/-- Every active lane is a helper, so that an access reaches no lane of the program (R26, R47). -/
def onlyHelpers (s : State) : Prop := active s 0 ≠ 0 ∧ active s 0 &&& ~~~(helpers s (active s 0)) = 0

/-- An instruction with no active lane: the bundle goes on and nothing else happens (R350). -/
def doneIdle (s t : State) : Prop := movedOn s t ∧ (curWarp t).r = (curWarp s).r ∧ keepsWarp s t ∧ keepsDevice s t

/-- An instruction with no active lane only moves the bundle on (R350). -/
def idles (i : Instr) (s : State) : Prop := ∃ t, exec i s = .next t ∧ doneIdle s t

/-- The comparisons by their codes: eq, ne, lt, le, gt, ge signed, ltu and geu unsigned (R416, R476). -/
def condOf {n : Nat} (c : Nat) (x y : BitVec n) : Bool :=
  [x == y, x != y, x.slt y, x.sle y, y.slt x, y.sle x, x.ult y, y.ule x].getD c false

/-- The number of set bits of a mask below bit i. -/
def rankBelow (m : Word) (i : Nat) : Nat := ((List.range i).filter fun j => m.getLsbD j).length

/-- The issuing warp of the block is outside its handler. -/
def mayTrap (s : State) : Prop := (curWarp s).bid = s.iss.bid ∧ (curWarp s).inHandler = false

/-- An instruction takes a precise exception of its whole bundle into the block's handler (R303, R304). -/
def trapsAt (i : Instr) (s : State) (cause addr : Nat) : Prop :=
  ∀ h ∈ handlerOf s s.iss.bid, ∃ t, exec i s = .next t ∧ entersHandler s t s.iss.lanes cause false s.iss.pc addr h ∧
    othersStand s t s.iss.lanes

/-- The bundle goes on, the issuing warp keeps its registers and the block changes as f says; nothing else changes. -/
def doneBlk (i : Instr) (s : State) (f : Block → Block) : Prop :=
  ∃ t, exec i s = .next t ∧ places s t (fun _ x => onward s x) ∧ (curWarp t).r = (curWarp s).r ∧ keepsWarp s t ∧ changesBlk s t f

/-- The counters of a warp with counter c moved by a number (R51). -/
def counts (w v : Warp) (c : Nat) (f : Nat → Nat) : Prop :=
  ∀ k, lget 0 k v.cnt = if k = c then f (lget 0 k w.cnt) else lget 0 k w.cnt

/-- An engine operation with no active lane: it counts, and its counter falls in the next cycle (R53); a counter at 63 holds it
(R51). -/
def countsOnly (i : Instr) (c : Nat) (s : State) : Prop :=
  (63 ≤ lget 0 c (curWarp s).cntSeen → heldAt i s) ∧
  (lget 0 c (curWarp s).cntSeen < 63 →
    ∃ t, exec i s = .next t ∧ places s t (fun _ x => onward s x) ∧ (curWarp t).r = (curWarp s).r ∧ keepsDevice s t ∧
      changesWarp s t (fun w => { w with cnt := (curWarp t).cnt, drops := w.drops ++ [(c, s.clock + 1)] }) ∧
      counts (curWarp s) (curWarp t) c (· + 1))

/-- A matrix operation is issued: the bundle goes on, no register and no byte of memory changes, the counter of the clause
rises by 1, the operation stands last in the queue and its ranges are locked (R51, R126, R127). -/
def issuesMatrix (i : Instr) (s : State) (c : Nat) (rs : List Range) (f : MatOp → State → Prop) : Prop :=
  ∃ t, exec i s = .next t ∧ places s t (fun _ x => onward s x) ∧ (curWarp t).r = (curWarp s).r ∧ keepsMemory s t ∧
    (∀ k, k ≠ s.iss.wk → warpOf t k = warpOf s k) ∧ counts (curWarp s) (curWarp t) c (· + 1) ∧
    changesWarp s t (fun w => { w with cnt := (curWarp t).cnt }) ∧
    t.mats.length = s.mats.length + 1 ∧ (∀ m ∈ s.mats, m ∈ t.mats) ∧ t.copies = s.copies ∧
    (∀ m ∈ t.mats.getLast?, m.started = false ∧ m.bid = s.iss.bid ∧ m.wk = s.iss.wk ∧ m.core = (curBlk s).core ∧ m.cnt = c ∧
      m.tA = (curBlk s).tA ∧ m.tB = (curBlk s).tB ∧ f m t ∧
      (∀ l, l ∈ t.locks ↔ l ∈ s.locks ∨ ∃ r ∈ rs, l = {
        core := r.core, bid := r.bid, op := m.id, space := r.space, lo := r.lo, hi := r.hi, write := r.write }))

/-- What an operation's end leaves of the queue, its locks and its counter, where it has no error (R54, R127). -/
def endsMatrix (op : MatOp) (s t : State) : Prop :=
  t.mats = s.mats.filter (fun m => m.id != op.id) ∧ t.locks = s.locks.filter (fun l => l.op != op.id) ∧
    counts (warpOf s op.wk) (warpOf t op.wk) op.cnt (· - 1) ∧ (warpOf t op.wk).r = (warpOf s op.wk).r ∧
    (∀ k, k ≠ op.wk → warpOf t k = warpOf s k) ∧ keepsMemory s t

/-- The value of C[i, j] after the steps of a loop (R121 to R123). -/
def loopValue (op : MatOp) (b : Block) (i j : Nat) : LV :=
  let d := loopDesc op.desc
  (List.range d.n).foldl (fun acc k => (accumulate d (lval fL32 op.tA.toNat) (lval fL32 op.tB.toNat) acc
    (rowOfA d b b.latch i k).1 (colOfB d b j k).1).v) (lval fL32 (elemAt b (geoAt b d.c) i j))

/-- The byte of a store that belongs to no element of a tile. -/
def outsideTile (g : Geo) (sp a : Nat) : Prop := ∀ i j k, i < g.rows → j < g.cols → k < 4 → ¬ (sp = g.sp ∧ a = g.base + i * g.pitch + 4 * j + k)

/-- The tile entries of the block of the issuing bundle, one of them changed. -/
def withTile (b : Block) (t : Nat) (x : Tile) : Block := { b with tiles := lset {} t x b.tiles }

/-- A tensor that a handle names, with the scales that its descriptor names (R155). -/
def tensorRead (s : State) (h : Nat) : Option (Tensor × Option Tensor) :=
  match (readTensor (curBlk s).ctx h s).2 with
  | (.ok t, sc) => some (t, sc)
  | _ => none

/-- The walk of R506 finds a block header at the offset that a Kasko stream starts from. -/
def headerFound (s : State) (t : Tensor) (org : Nat) : Bool :=
  match (kaskoHeader s.iss.bid t org (org + 1) 0 s).2 with
  | .ok b => b
  | _ => false

/-- The tile entries at a copy's issue (R148): its source draining with one reader more, its destinations filling and
unmarked. -/
def tilesClaimed (k : CopyKind) (d : CopyDesc) (ms : List Nat) (s t : State) : Prop :=
  ∀ b n, tileAt (blkOf t b) n =
    let x := tileAt (blkOf s b) n
    let y := if (k = .cpyout ∨ k = .cpyx) ∧ b = s.iss.bid ∧ n = d.tile then { x with state := 3, rdcnt := x.rdcnt + 1 } else x
    if b ∈ ms ∧ n = destTile k d then { y with state := 1, satcnt := 0, nan := false, err := false } else y

/-- An operation of a copy queue is issued: the bundle goes on, no register and no byte of memory changes, the counter of the
clause rises by 1, the operation stands last in the queues and its ranges are locked (R51, R199, R207). -/
def issuesCopy (i : Instr) (s : State) (c : Nat) (rs : List Range) (f : CopyOp → State → Prop) : Prop :=
  ∃ t, exec i s = .next t ∧ places s t (fun _ x => onward s x) ∧ (curWarp t).r = (curWarp s).r ∧ (undamaged s → keepsMemory s t) ∧
    (∀ k, k ≠ s.iss.wk → warpOf t k = warpOf s k) ∧ counts (curWarp s) (curWarp t) c (· + 1) ∧
    changesWarp s t (fun w => { w with cnt := (curWarp t).cnt }) ∧
    t.copies.length = s.copies.length + 1 ∧ (∀ m ∈ s.copies, m ∈ t.copies) ∧ t.mats = s.mats ∧
    (∀ m ∈ t.copies.getLast?, m.started = false ∧ m.bid = s.iss.bid ∧ m.wk = s.iss.wk ∧ m.core = (curBlk s).core ∧ m.cnt = c ∧ f m t ∧
      (∀ l, l ∈ t.locks ↔ l ∈ s.locks ∨ ∃ r ∈ rs, l = {
        core := r.core, bid := r.bid, op := m.id, space := r.space, lo := r.lo, hi := r.hi, write := r.write }))

/-- A warp has taken a precise exception of its whole bundle, after reads of memory (R303, R304). -/
def tookCause (s t : State) (cause addr : Nat) : Prop :=
  (curWarp t).tcause = BitVec.ofNat 32 cause ∧ (curWarp t).tpc = s.iss.pc &&& 0xFFFFFFFC ∧
    (curWarp t).taddr = BitVec.ofNat 32 addr ∧ (curWarp t).taddrhi = BitVec.ofNat 32 (addr / 2 ^ 32) ∧
    (curWarp t).inHandler = true ∧ (curWarp t).trapLanes = s.iss.lanes ∧ othersStand s t s.iss.lanes ∧ (curWarp t).r = (curWarp s).r ∧
    t.copies = s.copies ∧ (undamaged s → keepsMemory s t)

/-- An instruction takes an exception with a cause and an address, after reads of memory. -/
def takesCause (i : Instr) (s : State) (cause addr : Nat) : Prop := ∃ t, exec i s = .next t ∧ tookCause s t cause addr

/-- The same, and neither a block nor another warp changes. -/
def turnedAway (i : Instr) (s : State) (cause addr : Nat) : Prop :=
  ∃ t, exec i s = .next t ∧ tookCause s t cause addr ∧ t.blocks = s.blocks ∧ ∀ k, k ≠ s.iss.wk → warpOf t k = warpOf s k

/-- Registers without the generators. -/
def restOfRng (r : Regs) : Regs := { r with rng := [] }

/-- What a copy's end leaves of the queues, its locks and its counter, where it has no error (R54, R197). -/
def endsCopy (op : CopyOp) (s t : State) : Prop :=
  t.copies = s.copies.filter (fun c => c.id != op.id) ∧ t.locks = s.locks.filter (fun l => l.op != op.id) ∧
    counts (warpOf s op.wk) (warpOf t op.wk) op.cnt (· - 1) ∧ restOfRng (warpOf t op.wk).r = restOfRng (warpOf s op.wk).r ∧
    (∀ k, k ≠ op.wk → warpOf t k = warpOf s k)

/-- The head of a copy queue has started on a fixed path, waits for nothing, has met no error and keeps its data sound; its
block is not Assured. -/
def copyRuns (s : State) (op : CopyOp) : Prop :=
  op.started = true ∧ op.fab = none ∧ op.err = none ∧ faultWaits s op.wait = false ∧ (blkOf s op.bid).cls ≠ 2 ∧
    (blkOf s op.bid).bad = [] ∧ op.struck = [] ∧ (lfind op.bid s.blocks).isSome = true ∧ (lfind op.wk s.warps).isSome = true

/-- The TLBs hold nothing of a context but what its tables give: no invalidation is under way (R166, R167). -/
def noStale (ctx : Nat) (s : State) : Prop :=
  ∀ e ∈ s.tlb, tlbCtx e.1 = ctx → e.2.size = e.1 / 2 ^ 44 % 64 ∧ ∀ va w, va < 2 ^ 56 → tlbCovers e.1 ctx va = true →
    permit s (pageTrans va e.2) w = (translate (tlbPlace e.1) ctx (tlbRev e.1) va w 4 { s with tlb := [] }).2

/-- The memory key of a byte that an engine operation reads or writes, where it is mapped, local and sound. -/
def homeKey (s : State) (bid cls : Nat) (wr : Bool) (va : Nat) : Option Nat :=
  match (engKey bid cls false wr va s).2 with
  | .ok k => if isLocal k.1 && !poisoned s (k.1 / 32) then some k.1 else none
  | _ => none

/-- The code of a tensor's element as memory holds it, where each byte of it is mapped, local and sound (R71, R154). -/
def elemOf (s : State) (bid : Nat) (t : Tensor) (idx : List Nat) : Option Nat :=
  let w := fmtBits t.fmt
  let p := elemPlace t idx
  ((List.range ((p % 8 + w + 7) / 8)).mapM fun n => homeKey s bid t.cls false (p / 8 + n)).map fun ks =>
    leNat (ks.map (readByte s)) / 2 ^ (p % 8) % 2 ^ w

/-- R211, R216: the code that a fixed path below 7 makes of an element, in a mode that draws nothing. -/
def pathCode (d : CopyDesc) (a b v : Nat) : Nat := if d.path = 0 then v else (convElem a b d.rnd d.sat v {}).1

/-- The bytes that elements of whole bytes leave in memory, in stream order, where each byte is mapped, local and sound. -/
def bytesTo (s : State) (bid : Nat) (t : Tensor) (es : List (List Nat × Nat)) : Option (List (Nat × Byte)) :=
  (es.mapM fun e => (List.range (fmtBits t.fmt / 8)).mapM fun n =>
    (homeKey s bid t.cls true (elemPlace t e.1 / 8 + n)).map fun k => (k, BitVec.ofNat 8 (e.2 / 256 ^ n))).map List.flatten

/-- Memory after writes in order: the last that names a byte stays. -/
def afterWrites (s t : State) (ps : List (Nat × Byte)) : Prop :=
  ∀ k, readByte t k = match ps.reverse.find? fun e => e.1 == k with | some e => e.2 | none => readByte s k

/-- The mailbox has completed a command: its tag and its status stand in the status word, and no command runs (R328). -/
def answers (t : State) (tag : BitVec 16) (status : Nat) : Prop :=
  t.rw.mboxStatus = BitVec.ofNat 64 (tag.toNat * 2 ^ 16 + status) ∧ t.rw.running = none

/-- The mailbox runs a command: bit 31 of the status word is 1 beside its tag (R328). -/
def runsOn (t : State) (tag : BitVec 16) (code : Nat) (args : List Nat) : Prop :=
  t.rw.mboxStatus = BitVec.ofNat 64 (tag.toNat * 2 ^ 16 ||| 2 ^ 31) ∧ t.rw.running = some (code, args)

/-- What every reset leaves (R324, R331, R332): nothing runs, local memory holds nothing, the registers hold their reset
values and bring-up begins; host and peer memory, what has been sent, and the fuses are as before. -/
def isReset (s t : State) : Prop :=
  t.warps = [] ∧ t.blocks = [] ∧ t.grids = [] ∧ t.queues = [] ∧ t.ctxs = [] ∧ t.parts = [] ∧ t.l2 = [] ∧ t.tlb = [] ∧ t.husks = [] ∧
    t.pw.step = 0 ∧ t.pw.recovery = false ∧ t.pw.limit = (if s.pw.fuse then 720 else 400) ∧ t.pw.fuse = s.pw.fuse ∧
    t.pw.rollback = s.pw.rollback ∧ t.sent = s.sent ∧
    ∀ k, readByte t k = if isLocal k then readByte State.reset k else readByte s k

/-- The device after what comes before the choice in a quarter's cycle (R36, R305). -/
def settled (q : Nat) (s : State) : State := (quarterWarps s q).foldl (fun s wk => settleWarp exec wk s) s

/-- The warps and twins of a quarter that have ready bundles, in age order, with those bundles (R37, R39, R244). -/
def readyIn (q : Nat) (s : State) : List (Nat × List Bundle) :=
  readyWarps exec q (settled q s)

/-- The state in which the chosen bundle of a warp issues: the counts of R37, R39, R66 and R306 are booked, and the device's
next quarter comes after. -/
def atIssue (q wk : Nat) (b : Bundle) (bs : List Bundle) (s : State) : State :=
  bookIssue q wk b bs ((readyIn q s).map (·.1)) b.st

/-- The next bundle that the device issues in this cycle: its own turn is over, the next quarter with warps is not occupied by an
earlier instruction and takes a warp or a twin (R39, R66), and that a bundle (R37, R45). -/
def nextBundle (s : State) (q wk : Nat) (bs : List Bundle) (b : Bundle) : Prop :=
  s.agenda = [] ∧ 0 < s.slot ∧ s.slot < 769 ∧ nextQuarter s (s.slot - 1) = some q ∧ lget 0 q (settled q s).busy ≤ (settled q s).clock ∧
    pickWarp (settled q s) q (readyIn q s) = some (wk, bs) ∧ pickBundle (warpOf (settled q s) wk) bs = some b

/-- A bundle about to issue the instruction at pc of a clause: the word after it is at nx, the next header at fin. -/
def issueAt (core bid wk : Nat) (ls hoff hdr pc nx fin pfx : Word) (hasPfx : Bool) : Iss :=
  { live := true, core := core, bid := bid, wk := wk, lanes := ls, pc := pc, next := nx, hnext := fin, hoff := hoff, hdr := hdr,
    last := nx == fin, pfx := pfx, hasPfx := hasPfx }

/-- The offset of the header that follows a clause (R334). -/
def clauseEnd (hoff hdr : Word) : Word := hoff + BitVec.ofNat 32 (4 * ((headerOf hdr).count.toNat + 1))

end Sys2Proof.Machine
end

