-- ==== Sys2Proof/Certificates/Slice0/Obligations.lean ====
section
/-! DEFINITION. The statements for the provers. A statement's docstring names the rules of spec/ that it rests on. -/

set_option Elab.async false

open Sys2Proof Sys2Proof.Machine

/-- R414, R415 (and R419 to R421): what the integer arithmetic instructions leave in their destination, in every lane, and
that they leave everything else alone; the words of IABS, IADD and ISUB; an odd register of a pair form of IADD or ISUB takes
cause 0x03. -/
def Obligations.IntegerArithmetic : Prop :=
  ((∀ d a b g s, Runs (.iadd d a b g) s →
    doneW (.iadd d a b g) s g.toNat d.toNat 1 fun _ l => readW s a.toNat l + readW s b.toNat l) ∧
  (∀ d a b g s, Runs (.iaddD d a b g) s →
    doneW (.iaddD d a b g) s g.toNat d.toNat 2 (pairHalves fun l => readD s a.toNat l + readD s b.toNat l)) ∧
  (∀ d a b g s, Runs (.isub d a b g) s →
    doneW (.isub d a b g) s g.toNat d.toNat 1 fun _ l => readW s a.toNat l - readW s b.toNat l) ∧
  (∀ d a b g s, Runs (.isubD d a b g) s →
    doneW (.isubD d a b g) s g.toNat d.toNat 2 (pairHalves fun l => readD s a.toNat l - readD s b.toNat l)) ∧
  (∀ d a b g s, Runs (.imul d a b g) s →
    doneW (.imul d a b g) s g.toNat d.toNat 1 fun _ l => readW s a.toNat l * readW s b.toNat l) ∧
  (∀ d a b g s, Runs (.imulD d a b g) s →
    doneW (.imulD d a b g) s g.toNat d.toNat 2 (pairHalves fun l => readD s a.toNat l * readD s b.toNat l)) ∧
  (∀ d a b g s, Runs (.imulh d a b g) s →
    doneW (.imulh d a b g) s g.toNat d.toNat 1 fun _ l =>
      ((readW s a.toNat l).signExtend 64 * (readW s b.toNat l).signExtend 64).extractLsb' 32 32) ∧
  (∀ d a b g s, Runs (.imulhU d a b g) s →
    doneW (.imulhU d a b g) s g.toNat d.toNat 1 fun _ l =>
      ((readW s a.toNat l).setWidth 64 * (readW s b.toNat l).setWidth 64).extractLsb' 32 32) ∧
  (∀ d a b g s, Runs (.imad d a b g) s →
    doneW (.imad d a b g) s g.toNat d.toNat 1 fun _ l =>
      readW s a.toNat l * readW s b.toNat l + readW s d.toNat l) ∧
  (∀ d a b g s, Runs (.imin d a b g) s →
    doneW (.imin d a b g) s g.toNat d.toNat 1 fun _ l =>
      BitVec.ofInt 32 (min (readW s a.toNat l).toInt (readW s b.toNat l).toInt)) ∧
  (∀ d a b g s, Runs (.iminU d a b g) s →
    doneW (.iminU d a b g) s g.toNat d.toNat 1 fun _ l =>
      BitVec.ofNat 32 (min (readW s a.toNat l).toNat (readW s b.toNat l).toNat)) ∧
  (∀ d a b g s, Runs (.imax d a b g) s →
    doneW (.imax d a b g) s g.toNat d.toNat 1 fun _ l =>
      BitVec.ofInt 32 (max (readW s a.toNat l).toInt (readW s b.toNat l).toInt)) ∧
  (∀ d a b g s, Runs (.imaxU d a b g) s →
    doneW (.imaxU d a b g) s g.toNat d.toNat 1 fun _ l =>
      BitVec.ofNat 32 (max (readW s a.toNat l).toNat (readW s b.toNat l).toNat)) ∧
  (∀ d a g s, Runs (.iabs d a g) s →
    doneW (.iabs d a g) s g.toNat d.toNat 1 fun _ l =>
      if (readW s a.toNat l).getLsbD 31 then BitVec.ofNat 32 (2 ^ 32 - (readW s a.toNat l).toNat) else readW s a.toNat l)) ∧
  ((∀ d a b g, decodeWord (0x01#8 ++ d ++ a ++ b ++ g) = .ok (.iadd d a b g) ∧ decodeWord (0x02#8 ++ d ++ a ++ b ++ g) = .ok (.iaddD d a b g) ∧
    decodeWord (0x03#8 ++ d ++ a ++ b ++ g) = .ok (.isub d a b g) ∧ decodeWord (0x04#8 ++ d ++ a ++ b ++ g) = .ok (.isubD d a b g) ∧
    decodeWord (0x0E#8 ++ d ++ a ++ 0#7 ++ g) = .ok (.iabs d a g)) ∧
  (∀ d a b g s, s.iss.live = true → isAssured s = false → (lfind s.iss.wk s.warps).isSome = true → mayTrap s → s.iss.side = .lead →
    honoured (curPfx s) s.iss.hasPfx (.iaddD d a b g) = true → d.toNat % 2 = 1 ∨ a.toNat % 2 = 1 ∨ b.toNat % 2 = 1 →
    trapsAt (.iaddD d a b g) s 0x03 0 ∧ trapsAt (.isubD d a b g) s 0x03 0))

/-- R417, R422, R423: the shifts, the extension and the selection: counts at or beyond the width give zero, or the sign. -/
def Obligations.ShiftsAndSelection : Prop :=
  (∀ d a b g s, Runs (.ishl d a b g) s →
    doneW (.ishl d a b g) s g.toNat d.toNat 1 fun _ l => readW s a.toNat l <<< (readW s b.toNat l).toNat) ∧
  (∀ d a b g s, Runs (.ishlD d a b g) s →
    doneW (.ishlD d a b g) s g.toNat d.toNat 2 (pairHalves fun l => readD s a.toNat l <<< (readW s b.toNat l).toNat)) ∧
  (∀ d a b g s, Runs (.ishr d a b g) s →
    doneW (.ishr d a b g) s g.toNat d.toNat 1 fun _ l => readW s a.toNat l >>> (readW s b.toNat l).toNat) ∧
  (∀ d a b g s, Runs (.ishrS d a b g) s →
    doneW (.ishrS d a b g) s g.toNat d.toNat 1 fun _ l =>
      (readW s a.toNat l).sshiftRight (min (readW s b.toNat l).toNat 31)) ∧
  (∀ d a b g s, Runs (.ishrD d a b g) s →
    doneW (.ishrD d a b g) s g.toNat d.toNat 2 (pairHalves fun l => readD s a.toNat l >>> (readW s b.toNat l).toNat)) ∧
  (∀ d a b g s, Runs (.ishrDs d a b g) s →
    doneW (.ishrDs d a b g) s g.toNat d.toNat 2
      (pairHalves fun l => (readD s a.toNat l).sshiftRight (min (readW s b.toNat l).toNat 63))) ∧
  (∀ d a g n s, Runs (.iext d a 0 g n) s →
    doneW (.iext d a 0 g n) s 0 d.toNat 1 fun _ l =>
      if g = 1 then ((readW s a.toNat l).setWidth (n.toNat + 1)).signExtend 32
      else ((readW s a.toNat l).setWidth (n.toNat + 1)).setWidth 32) ∧
  (∀ d a g n s, Runs (.iext d a 1 g n) s →
    doneW (.iext d a 1 g n) s 0 d.toNat 2 (pairHalves fun l =>
      if g = 1 then ((readW s a.toNat l).setWidth (n.toNat + 1)).signExtend 64
      else ((readW s a.toNat l).setWidth (n.toNat + 1)).setWidth 64)) ∧
  (∀ d a b k s, Runs (.isel d a b k) s →
    doneW (.isel d a b k) s 0 d.toNat 1 fun _ l =>
      if readP s k.toNat l then readW s a.toNat l else readW s b.toNat l)

/-- R416, R472, R473, R476: what the compares and the predicate instructions write. -/
def Obligations.ComparesAndPredicates : Prop :=
  (∀ c p a b g s, Runs (.icmp c p a b g) s →
    doneP (.icmp c p a b g) s g.toNat p.toNat fun l => condOf c.toNat (readW s a.toNat l) (readW s b.toNat l)) ∧
  (∀ c p a b g s, Runs (.icmpD c p a b g) s →
    doneP (.icmpD c p a b g) s g.toNat p.toNat fun l => condOf c.toNat (readD s a.toNat l) (readD s b.toNat l)) ∧
  (∀ p a b c s, Runs (.qcmp p a b c) s →
    doneP (.qcmp p a b c) s 0 p.toNat fun _ => condOf c.toNat (readQ s a.toNat) (readQ s b.toNat)) ∧
  (∀ c d a b g s, Runs (.plop c d a b g) s →
    doneP (.plop c d a b g) s g.toNat d.toNat fun l =>
      let x := readP s a.toNat l
      let y := readP s b.toNat l
      [x && y, x || y, x != y, x && !y, x || !y, !(x && y), !(x || y), x == y].getD c.toNat false) ∧
  (∀ d g s, Runs (.ptow d g) s →
    ∃ v : Nat → Word, (∀ l i, (v l).getLsbD i = (decide (i < 16) && readP s i l)) ∧
      doneW (.ptow d g) s g.toNat d.toNat 1 fun _ l => v l) ∧
  (∀ a g s, Runs (.wtop a g) s →
    ∃ t, exec (.wtop a g) s = .next t ∧
      (∀ r l, l < 32 → readP t r l =
        if 1 ≤ r ∧ r ≤ 15 ∧ s.iss.lanes.getLsbD l then
          laneValue s g.toNat l false (readP s r l) ((readW s a.toNat l).getLsbD r)
        else readP s r l) ∧
      restOfP (regsOf t) = restOfP (regsOf s) ∧ noNewBad s t ∧ movedOn s t ∧ keepsWarp s t ∧ keepsDevice s t)

/-- R373, R387, R388, R395, R465: the logic, field and move instructions. -/
def Obligations.LogicAndMoves : Prop :=
  (∀ d a b g s, Runs (.and d a b g) s →
    doneW (.and d a b g) s g.toNat d.toNat 1 fun _ l => readW s a.toNat l &&& readW s b.toNat l) ∧
  (∀ d a b g s, Runs (.or d a b g) s →
    doneW (.or d a b g) s g.toNat d.toNat 1 fun _ l => readW s a.toNat l ||| readW s b.toNat l) ∧
  (∀ d a b g s, Runs (.xor d a b g) s →
    doneW (.xor d a b g) s g.toNat d.toNat 1 fun _ l => readW s a.toNat l ^^^ readW s b.toNat l) ∧
  (∀ d a b g s, Runs (.andn d a b g) s →
    doneW (.andn d a b g) s g.toNat d.toNat 1 fun _ l => readW s a.toNat l &&& ~~~(readW s b.toNat l)) ∧
  (∀ d a g s, Runs (.mov d a g) s → doneW (.mov d a g) s g.toNat d.toNat 1 fun _ l => readW s a.toNat l) ∧
  (∀ d a g s, Runs (.movD d a g) s → doneW (.movD d a g) s g.toNat d.toNat 2 (pairHalves fun l => readD s a.toNat l)) ∧
  (∀ d i s, Runs (.movi d i) s → doneW (.movi d i) s 0 d.toNat 1 fun _ _ => i.signExtend 32) ∧
  (∀ d i s, Runs (.movhi d i) s →
    doneW (.movhi d i) s 0 d.toNat 1 fun _ l => (i.setWidth 32 <<< 16) ||| (readW s d.toNat l &&& 0xFFFF))

/-- R387, R388, R395, R397: the bit-field instructions, POPC, CLZ, BREV and BYTEP. R386, R390, R391, R393: bit deposit and
extract, the GF(2) matrix product, and the bit permutation with its slots. -/
def Obligations.BitInstructions : Prop :=
  ((∀ d a g s, Runs (.popc d a g) s →
    doneW (.popc d a g) s g.toNat d.toNat 1 fun _ l => BitVec.ofNat 32 (rankBelow (readW s a.toNat l) 32)) ∧
  (∀ d a g s, Runs (.clz d a g) s →
    doneW (.clz d a g) s g.toNat d.toNat 1 fun _ l =>
      if readW s a.toNat l = 0 then 32 else BitVec.ofNat 32 (31 - Nat.log2 (readW s a.toNat l).toNat)) ∧
  (∀ d a g s, Runs (.brev d a g) s →
    ∃ v : Nat → Word, (∀ l i, i < 32 → (v l).getLsbD i = (readW s a.toNat l).getLsbD (31 - i)) ∧
      doneW (.brev d a g) s g.toNat d.toNat 1 fun _ l => v l) ∧
  (∀ d a n p s, Runs (.bfe d a n p) s →
    doneW (.bfe d a n p) s 0 d.toNat 1 fun _ l =>
      (((readW s a.toNat l).setWidth 64 >>> p.toNat).setWidth (n.toNat + 1)).setWidth 32) ∧
  (∀ d a n p s, Runs (.bfeS d a n p) s →
    doneW (.bfeS d a n p) s 0 d.toNat 1 fun _ l =>
      (((readW s a.toNat l).signExtend 64 >>> p.toNat).setWidth (n.toNat + 1)).signExtend 32) ∧
  (∀ d a n p s, Runs (.bfi d a n p) s →
    doneW (.bfi d a n p) s 0 d.toNat 1 fun _ l =>
      let m : Word := BitVec.ofNat 32 (2 ^ (n.toNat + 1) - 1) <<< p.toNat
      (readW s d.toNat l &&& ~~~m) ||| ((readW s a.toNat l <<< p.toNat) &&& m)) ∧
  (∀ d a b g s, Runs (.bytep d a b g) s →
    ∃ v : Nat → Word, (∀ l i, i < 4 → (v l).extractLsb' (8 * i) 8 =
        let pool := readW s b.toNat l ++ readW s a.toNat l
        let n := ((readW s d.toNat l).extractLsb' (4 * i) 4).toNat
        let y : Byte := pool.extractLsb' (8 * (n % 8)) 8
        if n < 8 then y else if y.getLsbD 7 then 0xFF else 0) ∧
      doneW (.bytep d a b g) s g.toNat d.toNat 1 fun _ l => v l)) ∧
  ((∀ d a b g s, Runs (.bdep d a b g) s →
    ∃ v : Nat → Word, (∀ l i, i < 32 → (v l).getLsbD i =
        ((readW s b.toNat l).getLsbD i && (readW s a.toNat l).getLsbD (rankBelow (readW s b.toNat l) i))) ∧
      doneW (.bdep d a b g) s g.toNat d.toNat 1 fun _ l => v l) ∧
  (∀ d a b g s, Runs (.bext d a b g) s →
    ∃ v : Nat → Word, (∀ l i, i < 32 → (readW s b.toNat l).getLsbD i = true →
        (v l).getLsbD (rankBelow (readW s b.toNat l) i) = (readW s a.toNat l).getLsbD i) ∧
      (∀ l k, rankBelow (readW s b.toNat l) 32 ≤ k → (v l).getLsbD k = false) ∧
      doneW (.bext d a b g) s g.toNat d.toNat 1 fun _ l => v l) ∧
  (∀ d a b g s, Runs (.bmm8 d a b g) s →
    ∃ v : Nat → BitVec 64, (∀ l r c, r < 8 → c < 8 → (v l).getLsbD (8 * r + c) =
        ((List.range 8).map fun k => (readD s a.toNat l).getLsbD (8 * r + k) && (readD s b.toNat l).getLsbD (8 * k + c)).foldl xor false) ∧
      doneW (.bmm8 d a b g) s g.toNat d.toNat 2 (pairHalves v)) ∧
  (∀ d a k g s, Runs (.bperm d a k g) s →
    ∃ v : Nat → BitVec 64, (∀ l i, i < 64 → (v l).getLsbD i =
        (readD s a.toNat l).getLsbD ((lfind (64 * k.toNat + i) (regsOf s).perm).getD i)) ∧
      doneW (.bperm d a k g) s g.toNat d.toNat 2 (pairHalves v)) ∧
  (∀ a k s, Runs (.bpset a k) s → active s 0 ≠ 0 →
    ∃ t, exec (.bpset a k) s = .next t ∧ movedOn s t ∧ keepsWarp s t ∧ keepsDevice s t ∧
      { regsOf t with perm := [], marks := [] } = { regsOf s with perm := [], marks := [] } ∧
      (∀ i, i < 64 → (lfind (64 * k.toNat + i) (regsOf t).perm).getD i =
        ((List.range 12).foldl (fun n j => n + (readQ s (a.toNat + j)).toNat * 2 ^ (32 * j)) 0) / 2 ^ (6 * i) % 64) ∧
      (∀ j, j / 64 ≠ k.toNat → lfind j (regsOf t).perm = lfind j (regsOf s).perm)) ∧
  (∀ a k s, Runs (.bpset a k) s → active s 0 = 0 → ∃ t, exec (.bpset a k) s = .next t ∧ doneIdle s t))

/-- R475, R477, R478: the uniform instructions and the moves between lane and uniform registers; VTOQ of a register that is
not uniform moves the lowest active lane's value and sets NU, and traps with cause 0x0E before that where NU is enabled. -/
def Obligations.UniformInstructions : Prop :=
  (∀ d a b i s, Runs (.qadd d a b i) s →
    doneQ (.qadd d a b i) s 0 d.toNat (readQ s a.toNat + if i = 0 then readQ s b.toNat else i.setWidth 32)) ∧
  (∀ d a b i s, Runs (.qsub d a b i) s →
    doneQ (.qsub d a b i) s 0 d.toNat (readQ s a.toNat - if i = 0 then readQ s b.toNat else i.setWidth 32)) ∧
  (∀ d a b i s, Runs (.qmul d a b i) s →
    doneQ (.qmul d a b i) s 0 d.toNat (readQ s a.toNat * if i = 0 then readQ s b.toNat else i.setWidth 32)) ∧
  (∀ d a b f s, f.toNat < 5 → Runs (.qlop d a b f) s →
    doneQ (.qlop d a b f) s 0 d.toNat
      (let x := readQ s a.toNat
       let y := readQ s b.toNat
       [x &&& y, x ||| y, x ^^^ y, x &&& ~~~y, ~~~x].getD f.toNat 0)) ∧
  (∀ d a b k s, k.toNat < 3 → Runs (.qshf d a b k) s →
    doneQ (.qshf d a b k) s 0 d.toNat
      (let x := readQ s a.toNat
       let c := (readQ s b.toNat).toNat
       [x <<< c, x >>> c, x.sshiftRight (min c 31)].getD k.toNat 0)) ∧
  (∀ d i s, Runs (.qmovi d i) s → doneQ (.qmovi d i) s 0 d.toNat (i.signExtend 32)) ∧
  (∀ d i s, Runs (.qmovhi d i) s →
    doneQ (.qmovhi d i) s 0 d.toNat ((i.setWidth 32 <<< 16) ||| (readQ s d.toNat &&& 0xFFFF))) ∧
  (∀ d a g s, Runs (.qtov d a g) s → doneW (.qtov d a g) s g.toNat d.toNat 1 fun _ _ => readQ s a.toNat) ∧
  (∀ d a g s, Runs (.vtoq d a g) s →
    (∀ l, l < 32 → laneActive s g.toNat l = true → isHelper s l = false →
      readW s a.toNat l = readW s a.toNat (lowestLane (active s g.toNat))) →
    doneQ (.vtoq d a g) s g.toNat d.toNat (readW s a.toNat (lowestLane (active s g.toNat)))) ∧
  (∀ d a g s, Runs (.vtoq d a g) s →
    let v := readW s a.toNat (lowestLane (active s g.toNat))
    let differs := fun l => laneActive s g.toNat l = true ∧ isHelper s l = false ∧ readW s a.toNat l ≠ v
    ∀ l, l < 32 → differs l → (∀ k, k < l → ¬ differs k) →
    ((curBlk s).trapen.getLsbD 5 = false → ∃ t, exec (.vtoq d a g) s = .next t ∧ setsQ s t g.toNat d.toNat v ∧ movedOn s t ∧
      keepsWarp s t ∧ addsFlags s t fun k => k == 5) ∧
    ((curBlk s).trapen.getLsbD 5 = true → mayTrap s → ∀ h ∈ handlerOf s s.iss.bid,
      ∃ t, exec (.vtoq d a g) s = .next t ∧ (curWarp t).r = (curWarp s).r ∧ (curWarp t).inHandler = true ∧
        (curWarp t).tcause = 0x0E ∧ (curWarp t).tpc = s.iss.pc &&& 0xFFFFFFFC ∧ (curWarp t).taddr = BitVec.ofNat 32 (0x20 + 256 * l) ∧
        movedTo h s t ∧ addsFlags s t fun k => k == 5))

/-- R479, R488, R489, R504: the cross-lane instructions read every source before they write. -/
def Obligations.CrossLane : Prop :=
  (∀ d a b g s, Runs (.shflLane d a b g) s →
    doneW (.shflLane d a b g) s g.toNat d.toNat 1 fun _ l => readW s a.toNat ((readW s b.toNat l).toNat % 32)) ∧
  (∀ d a b g s, Runs (.shflFlip d a b g) s →
    doneW (.shflFlip d a b g) s g.toNat d.toNat 1 fun _ l => readW s a.toNat (l ^^^ (readW s b.toNat l).toNat % 32)) ∧
  (∀ d a b g s, Runs (.shflLower d a b g) s →
    doneW (.shflLower d a b g) s g.toNat d.toNat 1 fun _ l =>
      readW s a.toNat (if (readW s b.toNat l).toNat ≤ l then l - (readW s b.toNat l).toNat else l)) ∧
  (∀ d a b g s, Runs (.shflHigher d a b g) s →
    doneW (.shflHigher d a b g) s g.toNat d.toNat 1 fun _ l =>
      readW s a.toNat (if l + (readW s b.toNat l).toNat ≤ 31 then l + (readW s b.toNat l).toNat else l)) ∧
  (∀ d a m s, m.toNat < 7 → Runs (.quadx d a m) s →
    doneW (.quadx d a m) s 0 d.toNat 1 fun _ l =>
      readW s a.toNat (4 * (l / 4) + [l % 4 ^^^ 1, l % 4 ^^^ 2, l % 4 ^^^ 3, 0, 1, 2, 3].getD m.toNat 0)) ∧
  (∀ d a b g s, Runs (.shwr d a b g) s →
    ∃ t, exec (.shwr d a b g) s = .next t ∧ movedOn s t ∧ keepsWarp s t ∧ keepsMemory s t ∧
      restOfState { t with iss := s.iss } = restOfState s ∧ (∀ k, k ≠ s.iss.wk → warpOf t k = warpOf s k) ∧
      restOfW (regsOf t) = restOfW (regsOf s) ∧ noNewBad s t ∧
      (∀ r l, l < 32 → r ≠ d.toNat → readW t r l = readW s r l) ∧
      ∀ k, k < 32 → readW t d.toNat k =
        match ((lanesOf (active s g.toNat)).filter fun l => (readW s b.toNat l).toNat % 32 == k).getLast? with
        | some l => if (laneOf (curWarp s) k).isSome then readW s a.toNat l else
            (if s.iss.lanes.getLsbD k then laneValue s g.toNat k 0 (readW s d.toNat k) (readW s d.toNat k) else readW s d.toNat k)
        | none => if s.iss.lanes.getLsbD k then laneValue s g.toNat k 0 (readW s d.toNat k) (readW s d.toNat k)
          else readW s d.toNat k)

/-- R92, R93, R94, R95, R424, R440, R450: the packed sums, products, quotients, minima and maxima: each slot computed by
itself, the flags of all slots of all active lanes joined. -/
def Obligations.PackedArithmetic : Prop :=
  (∀ d a b g s, Runs (.ladd d a b g) s →
    let res := fun l => slotwise fL32 fun i =>
      logAdd fL32 (curPfx s).sat (slotVal fL32 i (readW s a.toNat l)) (slotVal fL32 i (readW s b.toNat l))
    noTrap s g.toNat (fun l => (res l).2) → doneF (.ladd d a b g) s g.toNat d.toNat res) ∧
  (∀ d a b g s, Runs (.laddL16 d a b g) s →
    let res := fun l => slotwise fL16 fun i =>
      logAdd fL16 (curPfx s).sat (slotVal fL16 i (readW s a.toNat l)) (slotVal fL16 i (readW s b.toNat l))
    noTrap s g.toNat (fun l => (res l).2) → doneF (.laddL16 d a b g) s g.toNat d.toNat res) ∧
  (∀ d a b g s, Runs (.laddL8 d a b g) s →
    let res := fun l => slotwise fL8 fun i =>
      logAdd fL8 (curPfx s).sat (slotVal fL8 i (readW s a.toNat l)) (slotVal fL8 i (readW s b.toNat l))
    noTrap s g.toNat (fun l => (res l).2) → doneF (.laddL8 d a b g) s g.toNat d.toNat res) ∧
  (∀ d a b g s, Runs (.lsub d a b g) s →
    let res := fun l => slotwise fL32 fun i =>
      logSub fL32 (curPfx s).sat (slotVal fL32 i (readW s a.toNat l)) (slotVal fL32 i (readW s b.toNat l))
    noTrap s g.toNat (fun l => (res l).2) → doneF (.lsub d a b g) s g.toNat d.toNat res) ∧
  (∀ d a b g s, Runs (.lsubL16 d a b g) s →
    let res := fun l => slotwise fL16 fun i =>
      logSub fL16 (curPfx s).sat (slotVal fL16 i (readW s a.toNat l)) (slotVal fL16 i (readW s b.toNat l))
    noTrap s g.toNat (fun l => (res l).2) → doneF (.lsubL16 d a b g) s g.toNat d.toNat res) ∧
  (∀ d a b g s, Runs (.lsubL8 d a b g) s →
    let res := fun l => slotwise fL8 fun i =>
      logSub fL8 (curPfx s).sat (slotVal fL8 i (readW s a.toNat l)) (slotVal fL8 i (readW s b.toNat l))
    noTrap s g.toNat (fun l => (res l).2) → doneF (.lsubL8 d a b g) s g.toNat d.toNat res) ∧
  (∀ d a b g s, Runs (.lmul d a b g) s →
    let res := fun l => slotwise fL32 fun i =>
      logMul fL32 (curPfx s).sat (slotVal fL32 i (readW s a.toNat l)) (slotVal fL32 i (readW s b.toNat l))
    noTrap s g.toNat (fun l => (res l).2) → doneF (.lmul d a b g) s g.toNat d.toNat res) ∧
  (∀ d a b g s, Runs (.lmulL16 d a b g) s →
    let res := fun l => slotwise fL16 fun i =>
      logMul fL16 (curPfx s).sat (slotVal fL16 i (readW s a.toNat l)) (slotVal fL16 i (readW s b.toNat l))
    noTrap s g.toNat (fun l => (res l).2) → doneF (.lmulL16 d a b g) s g.toNat d.toNat res) ∧
  (∀ d a b g s, Runs (.lmulL8 d a b g) s →
    let res := fun l => slotwise fL8 fun i =>
      logMul fL8 (curPfx s).sat (slotVal fL8 i (readW s a.toNat l)) (slotVal fL8 i (readW s b.toNat l))
    noTrap s g.toNat (fun l => (res l).2) → doneF (.lmulL8 d a b g) s g.toNat d.toNat res) ∧
  (∀ d a b g s, Runs (.ldiv d a b g) s →
    let res := fun l => slotwise fL32 fun i =>
      logDiv fL32 (curPfx s).sat (slotVal fL32 i (readW s a.toNat l)) (slotVal fL32 i (readW s b.toNat l))
    noTrap s g.toNat (fun l => (res l).2) → doneF (.ldiv d a b g) s g.toNat d.toNat res) ∧
  (∀ d a b g s, Runs (.ldivL16 d a b g) s →
    let res := fun l => slotwise fL16 fun i =>
      logDiv fL16 (curPfx s).sat (slotVal fL16 i (readW s a.toNat l)) (slotVal fL16 i (readW s b.toNat l))
    noTrap s g.toNat (fun l => (res l).2) → doneF (.ldivL16 d a b g) s g.toNat d.toNat res) ∧
  (∀ d a b g s, Runs (.ldivL8 d a b g) s →
    let res := fun l => slotwise fL8 fun i =>
      logDiv fL8 (curPfx s).sat (slotVal fL8 i (readW s a.toNat l)) (slotVal fL8 i (readW s b.toNat l))
    noTrap s g.toNat (fun l => (res l).2) → doneF (.ldivL8 d a b g) s g.toNat d.toNat res) ∧
  (∀ d a b g s, Runs (.lmin d a b g) s →
    doneF (.lmin d a b g) s g.toNat d.toNat fun l => slotwise fL32 fun i =>
      (logMinMax fL32 false (slotVal fL32 i (readW s a.toNat l)) (slotVal fL32 i (readW s b.toNat l)), 0)) ∧
  (∀ d a b g s, Runs (.lminL16 d a b g) s →
    doneF (.lminL16 d a b g) s g.toNat d.toNat fun l => slotwise fL16 fun i =>
      (logMinMax fL16 false (slotVal fL16 i (readW s a.toNat l)) (slotVal fL16 i (readW s b.toNat l)), 0)) ∧
  (∀ d a b g s, Runs (.lminL8 d a b g) s →
    doneF (.lminL8 d a b g) s g.toNat d.toNat fun l => slotwise fL8 fun i =>
      (logMinMax fL8 false (slotVal fL8 i (readW s a.toNat l)) (slotVal fL8 i (readW s b.toNat l)), 0)) ∧
  (∀ d a b g s, Runs (.lmax d a b g) s →
    doneF (.lmax d a b g) s g.toNat d.toNat fun l => slotwise fL32 fun i =>
      (logMinMax fL32 true (slotVal fL32 i (readW s a.toNat l)) (slotVal fL32 i (readW s b.toNat l)), 0)) ∧
  (∀ d a b g s, Runs (.lmaxL16 d a b g) s →
    doneF (.lmaxL16 d a b g) s g.toNat d.toNat fun l => slotwise fL16 fun i =>
      (logMinMax fL16 true (slotVal fL16 i (readW s a.toNat l)) (slotVal fL16 i (readW s b.toNat l)), 0)) ∧
  (∀ d a b g s, Runs (.lmaxL8 d a b g) s →
    doneF (.lmaxL8 d a b g) s g.toNat d.toNat fun l => slotwise fL8 fun i =>
      (logMinMax fL8 true (slotVal fL8 i (readW s a.toNat l)) (slotVal fL8 i (readW s b.toNat l)), 0))

/-- R428, R443, R447, R448, R453, R454, R456: multiply and add, the dot product, scaling, roots, reciprocals, powers,
logarithms and the trigonometric functions. -/
def Obligations.LogFunctions : Prop :=
  (∀ d a b g s, Runs (.lmad d a b g) s →
    let c := if s.iss.hasPfx then (curPfx s).op4.toNat else d.toNat
    let res := fun l => slotwise fL32 fun i =>
      logMad fL32 (curPfx s).sat (slotVal fL32 i (readW s a.toNat l)) (slotVal fL32 i (readW s b.toNat l))
        (slotVal fL32 i (readW s c l))
    noTrap s g.toNat (fun l => (res l).2) → doneF (.lmad d a b g) s g.toNat d.toNat res) ∧
  (∀ d a b g s, Runs (.lmadL16 d a b g) s →
    let c := if s.iss.hasPfx then (curPfx s).op4.toNat else d.toNat
    let res := fun l => slotwise fL16 fun i =>
      logMad fL16 (curPfx s).sat (slotVal fL16 i (readW s a.toNat l)) (slotVal fL16 i (readW s b.toNat l))
        (slotVal fL16 i (readW s c l))
    noTrap s g.toNat (fun l => (res l).2) → doneF (.lmadL16 d a b g) s g.toNat d.toNat res) ∧
  (∀ d a b g s, Runs (.lmadL8 d a b g) s →
    let c := if s.iss.hasPfx then (curPfx s).op4.toNat else d.toNat
    let res := fun l => slotwise fL8 fun i =>
      logMad fL8 (curPfx s).sat (slotVal fL8 i (readW s a.toNat l)) (slotVal fL8 i (readW s b.toNat l))
        (slotVal fL8 i (readW s c l))
    noTrap s g.toNat (fun l => (res l).2) → doneF (.lmadL8 d a b g) s g.toNat d.toNat res) ∧
  (∀ d a b g s, Runs (.ldot4 d a b g) s →
    let res := fun l => dot4 (curPfx s).sat (readW s d.toNat l) (readW s a.toNat l) (readW s b.toNat l)
    noTrap s g.toNat (fun l => (res l).2) → doneF (.ldot4 d a b g) s g.toNat d.toNat res) ∧
  (∀ d a n p s, Runs (.lscale d a n p) s →
    let res := fun l => slotwise (fmtOf p.toNat) fun i =>
      logScale (fmtOf p.toNat) (curPfx s).sat n.toInt (slotVal (fmtOf p.toNat) i (readW s a.toNat l))
    noTrap s 0 (fun l => (res l).2) → doneF (.lscale d a n p) s 0 d.toNat res) ∧
  (∀ d a p g s, Runs (.lsqrt d a p g) s →
    let res := fun l => slotwise (fmtOf p.toNat) fun i => logSqrt (slotVal (fmtOf p.toNat) i (readW s a.toNat l))
    noTrap s g.toNat (fun l => (res l).2) → doneF (.lsqrt d a p g) s g.toNat d.toNat res) ∧
  (∀ d a p g s, Runs (.lrcp d a p g) s →
    let res := fun l => slotwise (fmtOf p.toNat) fun i => logRcp (fmtOf p.toNat) (curPfx s).sat (slotVal (fmtOf p.toNat) i (readW s a.toNat l))
    noTrap s g.toNat (fun l => (res l).2) → doneF (.lrcp d a p g) s g.toNat d.toNat res) ∧
  (∀ d a p g s, Runs (.lexp2 d a p g) s →
    let res := fun l => slotwise (fmtOf p.toNat) fun i => logExp2 (fmtOf p.toNat) (curPfx s).sat (slotVal (fmtOf p.toNat) i (readW s a.toNat l))
    noTrap s g.toNat (fun l => (res l).2) → doneF (.lexp2 d a p g) s g.toNat d.toNat res) ∧
  (∀ d a p g s, Runs (.llog2 d a p g) s →
    let res := fun l => slotwise (fmtOf p.toNat) fun i => logLog2 (fmtOf p.toNat) (slotVal (fmtOf p.toNat) i (readW s a.toNat l))
    noTrap s g.toNat (fun l => (res l).2) → doneF (.llog2 d a p g) s g.toNat d.toNat res) ∧
  (∀ d a p g s, Runs (.lsin d a p g) s →
    let res := fun l => slotwise (fmtOf p.toNat) fun i => logSin (fmtOf p.toNat) false (slotVal (fmtOf p.toNat) i (readW s a.toNat l))
    noTrap s g.toNat (fun l => (res l).2) → doneF (.lsin d a p g) s g.toNat d.toNat res) ∧
  (∀ d a p g s, Runs (.lcos d a p g) s →
    let res := fun l => slotwise (fmtOf p.toNat) fun i => logSin (fmtOf p.toNat) true (slotVal (fmtOf p.toNat) i (readW s a.toNat l))
    noTrap s g.toNat (fun l => (res l).2) → doneF (.lcos d a p g) s g.toNat d.toNat res) ∧
  (∀ d a p g s, Runs (.ltanh d a p g) s →
    let res := fun l => slotwise (fmtOf p.toNat) fun i => logTanh (fmtOf p.toNat) (slotVal (fmtOf p.toNat) i (readW s a.toNat l))
    noTrap s g.toNat (fun l => (res l).2) → doneF (.ltanh d a p g) s g.toNat d.toNat res)

/-- R426, R427, R452, R455: comparison, sign, class and widening of logarithmic values; none raises a flag. -/
def Obligations.LogCompares : Prop :=
  (∀ c p a b g s, Runs (.lcmp c p a b g) s →
    doneP (.lcmp c p a b g) s g.toNat p.toNat fun l => (List.range (32 / (fL32).n)).all fun i =>
      logCmp fL32 c.toNat (slotVal fL32 i (readW s a.toNat l)) (slotVal fL32 i (readW s b.toNat l))) ∧
  (∀ c p a b g s, Runs (.lcmpL16 c p a b g) s →
    doneP (.lcmpL16 c p a b g) s g.toNat p.toNat fun l => (List.range (32 / (fL16).n)).all fun i =>
      logCmp fL16 c.toNat (slotVal fL16 i (readW s a.toNat l)) (slotVal fL16 i (readW s b.toNat l))) ∧
  (∀ c p a b g s, Runs (.lcmpL8 c p a b g) s →
    doneP (.lcmpL8 c p a b g) s g.toNat p.toNat fun l => (List.range (32 / (fL8).n)).all fun i =>
      logCmp fL8 c.toNat (slotVal fL8 i (readW s a.toNat l)) (slotVal fL8 i (readW s b.toNat l))) ∧
  (∀ d a f p g s, Runs (.lsgn d a f p g) s →
    ∃ v : Nat → Word, (∀ l i, i < 32 / (fmtOf p.toNat).n →
        slotCode (fmtOf p.toNat).n i (v l) =
          (let c := slotCode (fmtOf p.toNat).n i (readW s a.toNat l)
           let h := 2 ^ ((fmtOf p.toNat).n - 1)
           match f.toNat with
           | 0 => (c + h) % 2 ^ (fmtOf p.toNat).n
           | 1 => c % h
           | _ => c % h + slotCode (fmtOf p.toNat).n i (readW s (curPfx s).op4.toNat l) / h * h)) ∧
      doneW (.lsgn d a f p g) s g.toNat d.toNat 1 fun _ l => v l) ∧
  (∀ d a p g s, Runs (.lclass d a p g) s →
    ∃ v : Nat → Word, (∀ l i, i < 4 → (v l).toNat / 2 ^ (8 * i) % 256 =
        if i < 32 / (fmtOf p.toNat).n then 2 ^ logClass (slotVal (fmtOf p.toNat) i (readW s a.toNat l)) else 0) ∧
      doneW (.lclass d a p g) s g.toNat d.toNat 1 fun _ l => v l) ∧
  (∀ d a q f t g s, f.toNat < 4 → t.toNat < f.toNat → Runs (.lwiden d a q f t g) s →
    ∃ v : Nat → Word, (∀ l i, i < 32 / (fmtOf t.toNat).n →
        slotCode (fmtOf t.toNat).n i (v l) = lcode (fmtOf t.toNat) (lwidenBy ((fmtOf t.toNat).f - (fmtOf f.toNat).f)
          (slotVal (fmtOf f.toNat) (32 / (fmtOf t.toNat).n * q.toNat + i) (readW s a.toNat l)))) ∧
      doneW (.lwiden d a q f t g) s g.toNat d.toNat 1 fun _ l => v l)

/-- R69, R70: every code of a logarithmic format is the code of the value it holds. -/
def Obligations.LogCodesRoundTrip : Prop :=
  ∀ F ∈ [fL32, fL16, fL8, fL6], ∀ w, w < 2 ^ F.n → lcode F (lval F w) = w

/-- R95: a logarithmic sum does not depend on the order of its operands, the sum of a value and its negation is +0, and an L8
sum never sets CX. -/
def Obligations.LogSumFacts : Prop :=
  (∀ F sat x y, logAdd F sat x y = logAdd F sat y x) ∧
  (∀ F sat s e, logAdd F sat (.fin s e) (.fin (!s) e) = (.zero false, 0)) ∧
  (∀ F sat s, logAdd F sat (.zero s) (.zero (!s)) = (.zero false, 0)) ∧
  (∀ sat x y, (logAdd fL8 sat x y).2.testBit 4 = false)

/-- R90, R91, R93, R94: products, quotients, roots, reciprocals and scalings of finite values are exact on E, a root to the
nearest even, with overflow and underflow at the ends of the range; what zeros, infinities and NaNs give. R428, R443, R447,
R448, R456 (with R90, R91, R95, R103): a multiply-add is exact before its one sum: with a zero addend it is the product, with
the product's negation +0, with the product itself its double; what zeros, infinities and NaNs give. A dot product whose
products are zeros keeps its accumulator, and one with a single product gives it exactly. Powers and logarithms of two are
exact where the result is; sine and cosine at whole, half and quarter turns, and their symmetry; the hyperbolic tangent is
odd, raises no flag and is 1 from 16 on. -/
def Obligations.LogProductFacts : Prop :=
  ((∀ F sat s t e f, F.eMin ≤ e + f → e + f ≤ F.eMax →
    logMul F sat (.fin s e) (.fin t f) = (.fin (s ^^ t) (e + f), 0)) ∧
  (∀ F sat s t e f, F.eMax < e + f →
    logMul F sat (.fin s e) (.fin t f) = (if sat then .fin (s ^^ t) F.eMax else .inf (s ^^ t), flOV)) ∧
  (∀ F sat s t e f, e + f < F.eMin →
    logMul F sat (.fin s e) (.fin t f) = (.zero (s ^^ t), flUF)) ∧
  (∀ F sat s t e f, F.eMin ≤ e - f → e - f ≤ F.eMax →
    logDiv F sat (.fin s e) (.fin t f) = (.fin (s ^^ t) (e - f), 0)) ∧
  (∀ F sat s t, logMul F sat (.zero s) (.inf t) = (.nan false 1, flIV) ∧
    logMul F sat (.inf s) (.zero t) = (.nan false 1, flIV) ∧
    logMul F sat (.zero s) (.zero t) = (.zero (s ^^ t), 0) ∧
    logMul F sat (.inf s) (.inf t) = (.inf (s ^^ t), 0) ∧
    logDiv F sat (.zero s) (.zero t) = (.nan false 1, flIV) ∧
    logDiv F sat (.inf s) (.inf t) = (.nan false 1, flIV) ∧
    (∀ e, logDiv F sat (.fin s e) (.zero t) = (.inf (s ^^ t), flDZ)) ∧
    (∀ e, logDiv F sat (.fin s e) (.inf t) = (.zero (s ^^ t), 0))) ∧
  (∀ F sat s t e, logMul F sat (.fin s e) (.zero t) = (.zero (s ^^ t), 0) ∧ logMul F sat (.zero s) (.fin t e) = (.zero (s ^^ t), 0) ∧
    logMul F sat (.fin s e) (.inf t) = (.inf (s ^^ t), 0) ∧ logMul F sat (.inf s) (.fin t e) = (.inf (s ^^ t), 0) ∧
    logDiv F sat (.inf s) (.fin t e) = (.inf (s ^^ t), 0) ∧ logDiv F sat (.inf s) (.zero t) = (.inf (s ^^ t), 0) ∧
    logDiv F sat (.zero s) (.fin t e) = (.zero (s ^^ t), 0) ∧ logDiv F sat (.zero s) (.inf t) = (.zero (s ^^ t), 0)) ∧
  (∀ F sat s t e f, F.eMax < e - f →
    logDiv F sat (.fin s e) (.fin t f) = (if sat then .fin (s ^^ t) F.eMax else .inf (s ^^ t), flOV)) ∧
  (∀ F sat s t e f, e - f < F.eMin → logDiv F sat (.fin s e) (.fin t f) = (.zero (s ^^ t), flUF)) ∧
  (∀ F sat s p v, (∀ t q, v ≠ .nan t q) → logMul F sat (.nan s p) v = (.nan s p, 0) ∧ logMul F sat v (.nan s p) = (.nan s p, 0) ∧
    logDiv F sat (.nan s p) v = (.nan s p, 0) ∧ logDiv F sat v (.nan s p) = (.nan s p, 0)) ∧
  (∀ F sat s p t q, let v := (if q < p then LV.nan s p else if p < q then .nan t q else .nan (s && t) p, 0)
    logMul F sat (.nan s p) (.nan t q) = v ∧ logDiv F sat (.nan s p) (.nan t q) = v) ∧
  (∀ F sat s, logRcp F sat (.zero s) = (.inf s, flDZ) ∧ logRcp F sat (.inf s) = (.zero s, 0)) ∧
  (∀ F ∈ [fL32, fL16, fL8, fL6], ∀ sat s e, F.eMin ≤ e → e ≤ F.eMax → logRcp F sat (.fin s e) =
    if e = F.eMin then (if sat then .fin s F.eMax else .inf s, flOV) else (.fin s (-e), 0)) ∧
  (∀ F ∈ [fL32, fL16, fL8, fL6], ∀ sat s e, (e < F.eMin → logRcp F sat (.fin s e) = (if sat then .fin s F.eMax else .inf s, flOV)) ∧
    (-F.eMin < e → logRcp F sat (.fin s e) = (.zero s, flUF))) ∧
  (∀ e, logSqrt (.fin false (2 * e)) = (.fin false e, 0) ∧ logSqrt (.fin true e) = (.nan false 1, flIV) ∧
    logSqrt (.fin false (2 * e + 1)) = (.fin false (if e % 2 = 0 then e else e + 1), 0)) ∧
  (∀ F ∈ [fL32, fL16, fL8, fL6], ∀ e, F.eMin ≤ e → e ≤ F.eMax → ∃ r, logSqrt (.fin false e) = (.fin false r, 0) ∧ F.eMin ≤ r ∧ r ≤ F.eMax) ∧
  (∀ s p, logSqrt (.zero s) = (.zero s, 0) ∧ logSqrt (.inf false) = (.inf false, 0) ∧ logSqrt (.inf true) = (.nan false 1, flIV) ∧
    logSqrt (.nan s p) = (.nan s p, 0)) ∧
  (∀ F sat n s e, let r := e + n * 2 ^ F.f
    (F.eMin ≤ r → r ≤ F.eMax → logScale F sat n (.fin s e) = (.fin s r, 0)) ∧
    (F.eMax < r → logScale F sat n (.fin s e) = (if sat then .fin s F.eMax else .inf s, flOV)) ∧
    (r ≤ F.eMax → r < F.eMin → logScale F sat n (.fin s e) = (.zero s, flUF))) ∧
  (∀ F sat n s p, logScale F sat n (.zero s) = (.zero s, 0) ∧ logScale F sat n (.inf s) = (.inf s, 0) ∧
    logScale F sat n (.nan s p) = (.nan s p, 0))) ∧
  ((∀ F sat s t u e f, logMad F sat (.fin s e) (.fin t f) (.zero u) = logMul F sat (.fin s e) (.fin t f) ∧
    logMad F sat (.fin s e) (.fin t f) (.fin (!(s ^^ t)) (e + f)) = (.zero false, 0)) ∧
  (∀ F ∈ [fL32, fL16, fL8], ∀ sat s t e f, F.eMin ≤ e + f + 2 ^ F.f → e + f + 2 ^ F.f ≤ F.eMax →
    logMad F sat (.fin s e) (.fin t f) (.fin (s ^^ t) (e + f)) = (.fin (s ^^ t) (e + f + 2 ^ F.f), 0)) ∧
  (∀ F sat s t v, (∀ u q, v ≠ .nan u q) → logMad F sat (.zero s) (.inf t) v = (.nan false 1, flIV) ∧
    logMad F sat (.inf s) (.zero t) v = (.nan false 1, flIV)) ∧
  (∀ F sat s t u e f, logMad F sat (.inf s) (.fin t e) (.fin u f) = (.inf (s ^^ t), 0) ∧
    logMad F sat (.inf s) (.fin t e) (.inf (!(s ^^ t))) = (.nan false 1, flIV) ∧
    logMad F sat (.fin s e) (.fin t f) (.inf u) = (.inf u, 0)) ∧
  (∀ F sat s p t u e f, logMad F sat (.nan s p) (.fin t e) (.fin u f) = (.nan s p, 0) ∧
    logMad F sat (.fin t e) (.nan s p) (.fin u f) = (.nan s p, 0) ∧ logMad F sat (.fin t e) (.fin u f) (.nan s p) = (.nan s p, 0)) ∧
  (∀ sat acc a b, (∀ i, i < 4 → (∃ s, slotVal fL8 i a = .zero s) ∧ ((∃ s, slotVal fL8 i b = .zero s) ∨ ∃ s e, slotVal fL8 i b = .fin s e)) →
    (∃ s e, lval fL32 acc.toNat = .fin s e) → dot4 sat acc a b = (acc, 0)) ∧
  (∀ sat acc a b s t u e f, lval fL32 acc.toNat = .zero u → slotVal fL8 0 a = .fin s e → slotVal fL8 0 b = .fin t f →
    (∀ i, 0 < i → i < 4 → (∃ s, slotVal fL8 i a = .zero s) ∧ ((∃ s, slotVal fL8 i b = .zero s) ∨ ∃ s e, slotVal fL8 i b = .fin s e)) →
    dot4 sat acc a b = (BitVec.ofNat 32 (lcode fL32 (.fin (s ^^ t) ((e + f) * 2 ^ 19))), 0)) ∧
  (∀ sat acc a b i s t, i < 4 → slotVal fL8 i a = .zero s → slotVal fL8 i b = .inf t → Nat.land (dot4 sat acc a b).2 flIV ≠ 0) ∧
  (∀ F sat s p, logExp2 F sat (.zero s) = (.fin false 0, 0) ∧ logExp2 F sat (.inf false) = (.inf false, 0) ∧
    logExp2 F sat (.inf true) = (.zero false, 0) ∧ logExp2 F sat (.nan s p) = (.nan s p, 0) ∧
    ∀ e, (logExp2 F sat (.fin s e)).1.sign = false) ∧
  (∀ F ∈ [fL32, fL16, fL8], ∀ sat s, ∀ k : Int, 0 ≤ k + F.f → logExp2 F sat (.fin s (k * 2 ^ F.f)) =
    rangeFit F sat false (if s then -(2 ^ (k + F.f).toNat) else 2 ^ (k + F.f).toNat)) ∧
  (∀ F s p e, logLog2 F (.zero s) = (.inf true, flDZ) ∧ logLog2 F (.inf false) = (.inf false, 0) ∧ logLog2 F (.inf true) = (.nan false 1, flIV) ∧
    logLog2 F (.fin true e) = (.nan false 1, flIV) ∧ logLog2 F (.nan s p) = (.nan s p, 0) ∧ logLog2 F (.fin false 0) = (.zero false, 0)) ∧
  (∀ F ∈ [fL32, fL16, fL8], ∀ (s : Bool) (j : Nat), logLog2 F (.fin false (if s then -(2 ^ j) else 2 ^ j)) =
    rangeFit F false s (((j : Int) - F.f) * 2 ^ F.f)) ∧
  (∀ F cos s p, logSin F cos (.inf s) = (.nan false 1, flIV) ∧ logSin F cos (.nan s p) = (.nan s p, 0) ∧
    logSin F cos (.zero s) = (if cos then .fin false 0 else .zero s, 0)) ∧
  (∀ F ∈ [fL32, fL16, fL8], ∀ (s : Bool) (k : Nat),
    logSin F false (.fin s (k * 2 ^ F.f)) = (.zero false, 0) ∧ logSin F true (.fin s (k * 2 ^ F.f)) = (.fin false 0, 0) ∧
    logSin F false (.fin s (-(2 ^ F.f))) = (.zero false, 0) ∧ logSin F true (.fin s (-(2 ^ F.f))) = (.fin true 0, 0) ∧
    logSin F false (.fin s (-(2 * 2 ^ F.f))) = (.fin s 0, 0) ∧ logSin F true (.fin s (-(2 * 2 ^ F.f))) = (.zero false, 0)) ∧
  (∀ F s e, logSin F true (.fin s e) = logSin F true (.fin (!s) e) ∧
    ∀ t x n, logSin F false (.fin s e) = (.fin t x, n) → logSin F false (.fin (!s) e) = (.fin (!t) x, n)) ∧
  (∀ F s p e, logTanh F (.zero s) = (.zero s, 0) ∧ logTanh F (.inf s) = (.fin s 0, 0) ∧ logTanh F (.nan s p) = (.nan s p, 0) ∧
    (logTanh F (.fin s e)).2 = 0 ∧ (logTanh F (.fin s e)).1.sign = s ∧
    ∀ x, (logTanh F (.fin s e)).1 = .fin s x → (logTanh F (.fin (!s) e)).1 = .fin (!s) x) ∧
  (∀ F ∈ [fL32, fL16, fL8], ∀ s e, 4 * 2 ^ F.f ≤ e → logTanh F (.fin s e) = (.fin s 0, 0)))

/-- R451, R452, R106, R107, R108: LNARROW narrows each source slot, with the draws, residues and flags of its slots. R434,
R431, R106, R107, R108: LCVI, LCVX, LCVF and LCVE convert each slot, with the draws, residues and flags of its slots. -/
def Obligations.Conversions : Prop :=
  (∀ d a q f t g s, Runs (.lnarrow d a q f t g) s →
    doneConv (.lnarrow d a q f t g) s g.toNat d.toNat
      (fun l => (List.range (32 / (fmtOf f.toNat).n)).foldl (fun c i =>
        let v := slotVal (fmtOf f.toNat) i (readW s a.toNat l)
        convSlot (curPfx s).rnd.toNat v.isFin (residueOf s l (32 / (fmtOf f.toNat).n * q.toNat + i))
          (fun dr r => narrowSlot (fmtOf f.toNat) (fmtOf t.toNat) (curPfx s).sat (curPfx s).rnd.toNat dr r v) c)
        { rng := readRng s l })
      (fun l c => packCodes (fmtOf t.toNat).n ((List.range (32 / (fmtOf t.toNat).n)).map fun i =>
        if 32 / (fmtOf f.toNat).n * q.toNat ≤ i ∧ i < 32 / (fmtOf f.toNat).n * q.toNat + 32 / (fmtOf f.toNat).n then
          c.codes.getD (i - 32 / (fmtOf f.toNat).n * q.toNat) 0
        else slotCode (fmtOf t.toNat).n i (readW s d.toNat l)))) ∧
  ((∀ d a u p g s, Runs (.lcvi d a u p g) s →
    doneConv (.lcvi d a u p g) s g.toNat d.toNat
      (fun l => (List.range (32 / (fmtOf p.toNat).n)).foldl (fun c i =>
        let w := slotCode (fmtOf p.toNat).n i (readW s a.toNat l)
        let n : Int := if u = 0 ∧ 2 ^ ((fmtOf p.toNat).n - 1) ≤ w then (w : Int) - 2 ^ (fmtOf p.toNat).n else w
        convSlot (curPfx s).rnd.toNat (n != 0) (residueOf s l i) (fun dr r =>
          let o := logOfInt (fmtOf p.toNat) (curPfx s).sat (curPfx s).rnd.toNat dr r n
          ((lcode (fmtOf p.toNat) o.1.1, o.1.2), o.2)) c) { rng := readRng s l })
      (fun _ c => packCodes (fmtOf p.toNat).n c.codes)) ∧
  (∀ d a u p g s, Runs (.lcvx d a u p g) s →
    doneConv (.lcvx d a u p g) s g.toNat d.toNat
      (fun l => (List.range (32 / (fmtOf p.toNat).n)).foldl (fun c i =>
        let v := slotVal (fmtOf p.toNat) i (readW s a.toNat l)
        convSlot (curPfx s).rnd.toNat v.isFin none (fun dr _ =>
          let o := intOfLog (fmtOf p.toNat) (u == 1) (curPfx s).rnd.toNat dr v
          (((o.1 % 2 ^ (fmtOf p.toNat).n).toNat, o.2), none)) c) { rng := readRng s l })
      (fun _ c => packCodes (fmtOf p.toNat).n c.codes)) ∧
  (∀ d a f p g s, Runs (.lcvf d a f p g) s →
    doneConv (.lcvf d a f p g) s g.toNat d.toNat
      (fun l => (List.range (32 / max (extOf f.toNat).width (fmtOf p.toNat).n)).foldl (fun c i =>
        let w := slotCode (extOf f.toNat).width i (readW s a.toNat l)
        convSlot (curPfx s).rnd.toNat (xval (extOf f.toNat) w).isFin (residueOf s l i) (fun dr r =>
          let o := xImport (extOf f.toNat) (fmtOf p.toNat) (curPfx s).sat (curPfx s).rnd.toNat dr r w
          ((lcode (fmtOf p.toNat) o.1.1, o.1.2), o.2)) c) { rng := readRng s l })
      (fun _ c => packCodes (fmtOf p.toNat).n ((List.range (32 / (fmtOf p.toNat).n)).map fun i =>
        c.codes.getD i (lcode (fmtOf p.toNat) (.zero false))))) ∧
  (∀ d a f p g s, Runs (.lcve d a f p g) s →
    doneConv (.lcve d a f p g) s g.toNat d.toNat
      (fun l => (List.range (32 / max (extOf f.toNat).width (fmtOf p.toNat).n)).foldl (fun c i =>
        let v := slotVal (fmtOf p.toNat) i (readW s a.toNat l)
        convSlot (curPfx s).rnd.toNat v.isFin none
          (fun dr _ => (xExport (extOf f.toNat) (fmtOf p.toNat) (curPfx s).sat (curPfx s).rnd.toNat dr v, none)) c)
        { rng := readRng s l })
      (fun _ c => packCodes (extOf f.toNat).width c.codes)))

/-- R106: a conversion that rounds by draws takes one draw of the lane's generator for each finite, non-zero input slot; one
that does not leaves the generator as it was. R480, R481: RAND draws once for the bits form and once for each slot of the
unit form, and seeds the generator. -/
def Obligations.RandomNumbers : Prop :=
  ((∀ d a f p g s, Runs (.lcve d a f p g) s →
    let slots := 32 / max (extOf f.toNat).width (fmtOf p.toNat).n
    let live := fun l => ((List.range slots).filter fun i => (slotVal (fmtOf p.toNat) i (readW s a.toNat l)).isFin).length
    (curBlk s).trapen = 0 →
    ∃ t, exec (.lcve d a f p g) s = .next t ∧ ∀ l, l < 32 →
      readRng t l =
        if laneActive s g.toNat l ∧ (curPfx s).rnd = 5 then (List.range (live l)).foldl (fun x _ => (rngDraw x).1) (readRng s l)
        else readRng s l)) ∧
  ((∀ x, rngDraw x =
    let t := x * 0x5851F42D4C957F2D#64 + 0x14057B7EF767814F#64
    (t, (((t.extractLsb' 32 32 ^^^ t.extractLsb' 0 32).rotateRight (t.toNat / 2 ^ 59)).toNat))) ∧
  (∀ d a p g s, Runs (.rand d a 0 p g) s →
    ∃ t, exec (.rand d a 0 p g) s = .next t ∧
      (∀ r l, l < 32 → readW t r l =
        if r = d.toNat ∧ s.iss.lanes.getLsbD l then
          laneValue s g.toNat l 0 (readW s r l) (BitVec.ofNat 32 (rngDraw (readRng s l)).2) else readW s r l) ∧
      (∀ l, l < 32 → readRng t l = if laneActive s g.toNat l then (rngDraw (readRng s l)).1 else readRng s l) ∧
      restOfConv (regsOf t) = restOfConv (regsOf s) ∧ (regsOf t).e = (regsOf s).e ∧ noNewBad s t ∧
      movedOn s t ∧ keepsWarp s t ∧ keepsDevice s t) ∧
  (∀ d a p g s, Runs (.rand d a 1 p g) s →
    let k := 32 / (fmtOf p.toNat).n
    let rng := fun (l i : Nat) => (List.range i).foldl (fun x _ => (rngDraw x).1) (readRng s l)
    ∃ t, exec (.rand d a 1 p g) s = .next t ∧
      (∀ r l, l < 32 → readW t r l =
        if r = d.toNat ∧ s.iss.lanes.getLsbD l then
          laneValue s g.toNat l 0 (readW s r l) (packCodes (fmtOf p.toNat).n
            ((List.range k).map fun i => lcode (fmtOf p.toNat) (randUnit (fmtOf p.toNat) (rngDraw (rng l i)).2)))
        else readW s r l) ∧
      (∀ l, l < 32 → readRng t l = if laneActive s g.toNat l then rng l k else readRng s l) ∧
      restOfConv (regsOf t) = restOfConv (regsOf s) ∧ (regsOf t).e = (regsOf s).e ∧ noNewBad s t ∧
      movedOn s t ∧ keepsWarp s t ∧ keepsDevice s t) ∧
  (∀ d a p g s, Runs (.rand d a 2 p g) s →
    ∃ t, exec (.rand d a 2 p g) s = .next t ∧ (∀ r l, readW t r l = readW s r l) ∧
      (∀ l, l < 32 → readRng t l = if laneActive s g.toNat l then readD s a.toNat l else readRng s l) ∧
      restOfConv (regsOf t) = restOfConv (regsOf s) ∧ (regsOf t).e = (regsOf s).e ∧ noNewBad s t ∧
      movedOn s t ∧ keepsWarp s t ∧ keepsDevice s t))

/-- R111, for LADD, LMUL.l8, LDIV.l16 and LDOT4: an instruction that raises an enabled flag in an active lane takes cause
0x0C before any other effect: no register changes, the flags it raised are set, sr.taddr holds the flags and the lowest such
lane. -/
def Obligations.ArithmeticTrap : Prop :=
  ∀ d a b g s, ∀ e ∈
    ([(.ladd d a b g, fun l => slotwise fL32 fun k =>
        logAdd fL32 (curPfx s).sat (slotVal fL32 k (readW s a.toNat l)) (slotVal fL32 k (readW s b.toNat l))),
      (.lmulL8 d a b g, fun l => slotwise fL8 fun k =>
        logMul fL8 (curPfx s).sat (slotVal fL8 k (readW s a.toNat l)) (slotVal fL8 k (readW s b.toNat l))),
      (.ldivL16 d a b g, fun l => slotwise fL16 fun k =>
        logDiv fL16 (curPfx s).sat (slotVal fL16 k (readW s a.toNat l)) (slotVal fL16 k (readW s b.toNat l))),
      (.ldot4 d a b g, fun l => dot4 (curPfx s).sat (readW s d.toNat l) (readW s a.toNat l) (readW s b.toNat l))] :
      List (Instr × (Nat → Word × Nat))),
    Runs e.1 s → (curWarp s).bid = s.iss.bid → (curWarp s).inHandler = false → ∀ h ∈ handlerOf s s.iss.bid,
    ∀ l0, l0 < 32 → (laneActive s g.toNat l0 = true ∧ isHelper s l0 = false ∧
      Nat.land (e.2 l0).2 ((curBlk s).trapen.toNat % 32) ≠ 0) →
    (∀ l, l < l0 → laneActive s g.toNat l = true → isHelper s l = false →
      Nat.land (e.2 l).2 ((curBlk s).trapen.toNat % 32) = 0) →
    ∃ t, exec e.1 s = .next t ∧ (curWarp t).r = (curWarp s).r ∧ (curWarp t).inHandler = true ∧
      (curWarp t).tcause = 0x0C ∧ (curWarp t).tpc = s.iss.pc &&& 0xFFFFFFFC ∧
      (∀ k, k < 8 → (curWarp t).taddr.getLsbD k = raised s g.toNat (fun l => (e.2 l).2) k) ∧
      (curWarp t).taddr.toNat / 256 = l0 ∧ movedTo h s t ∧
      (∀ k, k < 32 → (curBlk t).flagsNow.getLsbD k =
        ((curBlk s).flagsNow.getLsbD k || (decide (k < 8) && raised s g.toNat (fun l => (e.2 l).2) k))) ∧
      keepsMemory s t

/-- R347 (with R394, R396, R398, R485): BRA, CALL, BRX and RET set the program counters of the active lanes; the bundle's
other lanes go to the header that follows the clause; CALL alone writes sr.link, and nothing else changes. RET, EXIT, TRET,
NOP, YIELD and TRIGGER decode where off21 is 0 and only there. -/
def Obligations.Branches : Prop :=
  ((∀ o g s, Runs (.bra o g) s →
    ∃ t, exec (.bra o g) s = .next t ∧
      places s t (fun l x => if laneActive s g.toNat l then atHeader (s.iss.hnext + 4 * o.signExtend 32) x else atHeader s.iss.hnext x) ∧
      (curWarp t).r = (curWarp s).r ∧ keepsWarp s t ∧ keepsDevice s t) ∧
  (∀ o g s, Runs (.call o g) s →
    ∃ t, exec (.call o g) s = .next t ∧
      places s t (fun l x => if laneActive s g.toNat l then atHeader (s.iss.hnext + 4 * o.signExtend 32) x else atHeader s.iss.hnext x) ∧
      (∀ l, l < 32 → lget 0 l (curWarp t).r.link = if laneActive s g.toNat l then s.iss.hnext else lget 0 l (curWarp s).r.link) ∧
      restOfLink (curWarp t).r = restOfLink (curWarp s).r ∧ keepsWarp s t ∧ keepsDevice s t) ∧
  (∀ a g s, Runs (.brx a g) s → (∀ l, l < 32 → laneActive s g.toNat l = true → (readW s a.toNat l).toNat % 4 = 0) →
    ∃ t, exec (.brx a g) s = .next t ∧
      places s t (fun l x => if laneActive s g.toNat l then atHeader (readW s a.toNat l) x else atHeader s.iss.hnext x) ∧
      (curWarp t).r = (curWarp s).r ∧ keepsWarp s t ∧ keepsDevice s t) ∧
  (∀ a g s l0, Runs (.brx a g) s → mayTrap s → l0 < 32 → laneActive s g.toNat l0 = true → (readW s a.toNat l0).toNat % 4 ≠ 0 →
    (∀ l, l < l0 → laneActive s g.toNat l = true → (readW s a.toNat l).toNat % 4 = 0) →
    trapsAt (.brx a g) s 0x05 (readW s a.toNat l0).toNat) ∧
  (∀ g s, Runs (.ret g) s →
    ∃ t, exec (.ret g) s = .next t ∧
      places s t (fun l x => if laneActive s g.toNat l then atHeader (lget 0 l (curWarp s).r.link) x else atHeader s.iss.hnext x) ∧
      (curWarp t).r = (curWarp s).r ∧ keepsWarp s t ∧ keepsDevice s t)) ∧
  ((∀ (o : BitVec 21) (g : BitVec 3), decodeWord (0xE0#8 ++ o ++ g) = .ok (.bra o g) ∧ decodeWord (0xE2#8 ++ o ++ g) = .ok (.call o g) ∧
    ∀ op ∈ [0xE3#8, 0xE4#8, 0xE6#8, 0xE8#8, 0xE9#8, 0xF0#8], ((decodeWord (op ++ o ++ g)).isOk = true ↔ o = 0)))

/-- R304, R305: taking an exception, in the four cases: the trapping lanes go into the handler, the warp's other lanes stand
where they stood; without a handler the context ends; inside the handler an asynchronous cause is deferred with its first
address, and a synchronous one ends the context. -/
def Obligations.TakingAnException : Prop :=
  ∀ s ls cause async tpc addr cl, (lfind s.iss.wk s.warps).isSome = true → cause < 256 → (curBlk s).cls ≠ 2 →
    (curWarp s).bid = s.iss.bid →
    let t := takeTrap s.iss.wk ls cause async tpc addr cl s
    ((curWarp s).inHandler = false → ∀ h ∈ handlerOf s s.iss.bid, entersHandler s t ls cause async tpc addr h ∧ othersStand s t ls ∧
      (curWarp t).trapClause = cl) ∧
    ((curWarp s).inHandler = false → handlerOf s s.iss.bid = none →
      (ctxOf t (curBlk s).ctx).failed = true ∧ ∀ e ∈ t.blocks, e.2.ctx ≠ (curBlk s).ctx) ∧
    ((curWarp s).inHandler = true → async = true →
      (∀ c, lfind c (curWarp t).deferred =
        if c = cause ∧ (lfind cause (curWarp s).deferred).isNone then some addr else lfind c (curWarp s).deferred) ∧
      restOfDeferred (curWarp t) = restOfDeferred (curWarp s) ∧ keepsMemory s t) ∧
    ((curWarp s).inHandler = true → async = false →
      (ctxOf t (curBlk s).ctx).failed = true ∧ ∀ e ∈ t.blocks, e.2.ctx ≠ (curBlk s).ctx)

/-- R389, R500: TRAP and BKPT take causes 0x11 and 0x12 in their active lanes, with sr.tpc at the following word and their
tag in sr.taddr; the bundle's other lanes go on. With no active lane they only move the bundle on. -/
def Obligations.SoftwareTraps : Prop :=
  (∀ c s, Runs (.trap c) s → (curWarp s).bid = s.iss.bid → (curWarp s).inHandler = false → active s 0 ≠ 0 →
    ∀ h ∈ handlerOf s s.iss.bid,
    ∃ t, exec (.trap c) s = .next t ∧ entersHandler s t (active s 0) 0x11 false s.iss.hnext c.toNat h ∧
      ∀ l, (active s 0).getLsbD l = false →
        standing t l = if s.iss.lanes.getLsbD l then (standing s l).map fun x => onward s x.2.2.2 else standing s l) ∧
  (∀ c s, Runs (.bkpt c) s → (curWarp s).bid = s.iss.bid → (curWarp s).inHandler = false → active s 0 ≠ 0 →
    ∀ h ∈ handlerOf s s.iss.bid,
    ∃ t, exec (.bkpt c) s = .next t ∧ entersHandler s t (active s 0) 0x12 false s.iss.next c.toNat h ∧
      ∀ l, (active s 0).getLsbD l = false →
        standing t l = if s.iss.lanes.getLsbD l then (standing s l).map fun x => onward s x.2.2.2 else standing s l) ∧
  (∀ c s, Runs (.trap c) s → active s 0 = 0 →
    ∃ t, exec (.trap c) s = .next t ∧ places s t (fun _ x => onward s x) ∧ (curWarp t).r = (curWarp s).r ∧ keepsWarp s t ∧
      keepsDevice s t) ∧
  (∀ c s, Runs (.bkpt c) s → active s 0 = 0 →
    ∃ t, exec (.bkpt c) s = .next t ∧ places s t (fun _ x => onward s x) ∧ (curWarp t).r = (curWarp s).r ∧ keepsWarp s t ∧
      keepsDevice s t)

/-- R304, R305, R501, R502: TRET returns the active lanes to sr.tpc, or to the prefix of a pair whose instruction word sr.tpc
names, where no counter may stand (R340; the model's choice, log 21), and ends the handler once no lane of the trapping
bundle is left in it; with a deferred cause it enters the handler again for the lowest one, sr.tpc kept; outside a handler it
is an illegal instruction. -/
def Obligations.TrapReturn : Prop :=
  (∀ g s, Runs (.tret g) s → (curWarp s).inHandler = true → (curWarp s).deferred = [] → active s g.toNat ≠ 0 →
    let ret := if (resumeClause (curWarp s)).isSome ∧ (curWarp s).trapPairs.contains (curWarp s).tpc.toNat = true then
      (curWarp s).tpc - 4#32 else (curWarp s).tpc
    ∃ t, exec (.tret g) s = .next t ∧
      (∀ l, (standing t l).map (fun x => (x.1, x.2.2)) =
        if s.iss.lanes.getLsbD l then
          (standing s l).map fun x => (if laneActive s g.toNat l then ret else s.iss.hnext, Hold.none, x.2.2.2)
        else (standing s l).map fun x => (x.1, x.2.2)) ∧
      (curWarp t).trapLanes = (curWarp s).trapLanes &&& ~~~(active s g.toNat) ∧
      (curWarp t).inHandler = decide ((curWarp s).trapLanes &&& ~~~(active s g.toNat) ≠ 0) ∧
      { restOfWarp (curWarp t) with inHandler := false, trapLanes := 0, groups := 0 } =
        { restOfWarp (curWarp s) with inHandler := false, trapLanes := 0, groups := 0 } ∧
      (curWarp t).r = (curWarp s).r ∧ keepsDevice s t) ∧
  (∀ g s, Runs (.tret g) s → (curWarp s).inHandler = true → active s g.toNat = 0 →
    ∃ t, exec (.tret g) s = .next t ∧ places s t (fun _ x => atHeader s.iss.hnext x) ∧
      (curWarp t).r = (curWarp s).r ∧ keepsWarp s t ∧ keepsDevice s t) ∧
  (∀ g s, Runs (.tret g) s → (curWarp s).inHandler = true → active s g.toNat ≠ 0 →
    ∀ h ∈ handlerOf s s.iss.bid, ∀ e ∈ (curWarp s).deferred.head?, e.1 < 256 →
    ∃ t, exec (.tret g) s = .next t ∧ (curWarp t).tcause = BitVec.ofNat 32 (e.1 + 256) ∧
      (curWarp t).tpc = (curWarp s).tpc &&& 0xFFFFFFFC ∧ (curWarp t).taddr.toNat = e.2 % 2 ^ 32 ∧
      (curWarp t).taddrhi.toNat = e.2 / 2 ^ 32 % 2 ^ 32 ∧ (curWarp t).deferred = (curWarp s).deferred.tail ∧
      (curWarp t).inHandler = true ∧
      (curWarp t).trapLanes = active s g.toNat ∧
      places s t (fun l x => if laneActive s g.toNat l then atHeader h x else atHeader s.iss.hnext x) ∧
      (curWarp t).r = (curWarp s).r ∧ keepsDevice s t) ∧
  (∀ g s, Runs (.tret g) s → (curWarp s).bid = s.iss.bid → (curWarp s).inHandler = false → ∀ h ∈ handlerOf s s.iss.bid,
    ∃ t, exec (.tret g) s = .next t ∧ entersHandler s t s.iss.lanes 0x01 false s.iss.pc 0 h ∧
      othersStand s t s.iss.lanes)

/-- R469 (with R350): NOP only advances the bundle; YIELD also marks that the warp has yielded, with at least one active
lane, and the quarter's choice then does not keep the warp; their words. BAR, BARDROP, PBAR, RGSIG, RGWAIT, TRIGGER, MSET,
MWAIT, WAITC and SWRITE of sr.tcause with no active lane only advance the bundle. -/
def Obligations.NopAndYield : Prop :=
  ((∀ g s, Runs (.nop g) s → ∃ t, exec (.nop g) s = .next t ∧ places s t (fun _ x => onward s x) ∧
    (curWarp t).r = (curWarp s).r ∧ keepsWarp s t ∧ keepsDevice s t) ∧
  (∀ g s, Runs (.yield g) s → ∃ t, exec (.yield g) s = .next t ∧ places s t (fun _ x => onward s x) ∧
    (curWarp t).r = (curWarp s).r ∧ keepsDevice s t ∧
    (curWarp t).yielded = ((curWarp s).yielded || decide (active s g.toNat ≠ 0)) ∧
    restOfYield (curWarp t) = restOfYield (curWarp s))) ∧
  ((∀ g : BitVec 3, decodeWord (0xE8#8 ++ 0#21 ++ g) = .ok (.nop g) ∧ decodeWord (0xE9#8 ++ 0#21 ++ g) = .ok (.yield g)) ∧
  (∀ s slot ready wk, lfind slot s.lastWarp = some wk → yieldedOf s wk = true →
    (∀ e ∈ ready, passOf s e.1 < 256) → pickWarp s slot ready = ready.head?)) ∧
  ((∀ (s : State) (b : BitVec 4) (b2 : BitVec 2) (i : BitVec 1) (a : BitVec 6) (r k : BitVec 3) (p : BitVec 1) (m c n q : BitVec 6) (q7 : BitVec 7) (g : BitVec 3), ∀ e ∈ ([.bar b, .pbar i b2, .bardrop i b, .rgsig i a r k, .rgwait p i a r k, .trigger g, .mset m q, .mwait m,
      .waitc c n, .swrite q7 0x30] : List Instr), Runs e s → active s 0 = 0 → active s g.toNat = 0 →
    ∃ t, exec e s = .next t ∧ places s t (fun _ x => onward s x) ∧ (curWarp t).r = (curWarp s).r ∧ keepsWarp s t ∧ keepsDevice s t))

/-- R382, R383, R384, R471, R192: BAR and PBAR hold their active lanes, let the others pass and return the warp to the
participating set, once the release may go on; before that the bundle is held at issue. R385, R471: BARDROP and PBAR.drop
take the warp out of the participating sets that they name, with at least one active lane, and hold no lane. R202, R503:
TRIGGER triggers the block once, as its release may go on, with at least one active lane; the grid counts the blocks that
have been triggered (log 38); a later one has no effect. -/
def Obligations.Barriers : Prop :=
  ((∀ b s, Runs (.bar b) s → active s 0 ≠ 0 → mayRelease s →
    ∃ t, exec (.bar b) s = .next t ∧
      places s t (fun l x => if laneActive s 0 l then heldHere s (.bar b.toNat) x else onward s x) ∧
      (curWarp t).r = (curWarp s).r ∧ keepsWarp s t ∧ changesBlk s t (fun x => { x with bars := (curBlk t).bars }) ∧
      ((curWarp s).num < 32 → lget {} b.toNat (curBlk t).bars = { lget {} b.toNat (curBlk s).bars with
        dropped := (lget {} b.toNat (curBlk s).bars).dropped &&& ~~~(1#32 <<< (curWarp s).num) }) ∧
      ∀ c, c ≠ b.toNat → lget {} c (curBlk t).bars = lget {} c (curBlk s).bars) ∧
  (∀ b s, Runs (.pbar 0 b) s → active s 0 ≠ 0 → mayRelease s →
    ∃ t, exec (.pbar 0 b) s = .next t ∧
      places s t (fun l x => if laneActive s 0 l then heldHere s (.pbar b.toNat) x else onward s x) ∧
      (curWarp t).r = (curWarp s).r ∧ keepsWarp s t ∧ changesBlk s t (fun x => { x with pbars := (curBlk t).pbars }) ∧
      ((curWarp s).num < 32 → lget {} b.toNat (curBlk t).pbars = { lget {} b.toNat (curBlk s).pbars with
        dropped := (lget {} b.toNat (curBlk s).pbars).dropped &&& ~~~(1#32 <<< (curWarp s).num) }) ∧
      ∀ c, c ≠ b.toNat → lget {} c (curBlk t).pbars = lget {} c (curBlk s).pbars) ∧
  (∀ b s, Runs (.bar b) s → active s 0 ≠ 0 → ¬ mayRelease s → heldAt (.bar b) s) ∧
  (∀ b s, Runs (.pbar 0 b) s → active s 0 ≠ 0 → ¬ mayRelease s → heldAt (.pbar 0 b) s) ∧
  (∀ b s, Runs (.bar b) s → active s 0 = 0 → idles (.bar b) s) ∧
  (∀ b s, Runs (.pbar 0 b) s → active s 0 = 0 → idles (.pbar 0 b) s)) ∧
  ((∀ b s, Runs (.bardrop 0 b) s → (curWarp s).num < 32 →
    ∃ t, exec (.bardrop 0 b) s = .next t ∧ places s t (fun _ x => onward s x) ∧ (curWarp t).r = (curWarp s).r ∧
      keepsWarp s t ∧ changesBlk s t (fun x => { x with bars := (curBlk t).bars }) ∧
      ∀ c, lget {} c (curBlk t).bars =
        if c = b.toNat ∧ active s 0 ≠ 0 then dropsWarp (curWarp s).num (lget {} c (curBlk s).bars) else lget {} c (curBlk s).bars) ∧
  (∀ b s, Runs (.bardrop 1 b) s → (curWarp s).num < 32 →
    ∃ t, exec (.bardrop 1 b) s = .next t ∧ places s t (fun _ x => onward s x) ∧ (curWarp t).r = (curWarp s).r ∧
      keepsWarp s t ∧ changesBlk s t (fun x => { x with bars := (curBlk t).bars }) ∧
      ∀ c, lget {} c (curBlk t).bars =
        if c < 16 ∧ active s 0 ≠ 0 then dropsWarp (curWarp s).num (lget {} c (curBlk s).bars) else lget {} c (curBlk s).bars) ∧
  (∀ b s, Runs (.pbar 1 b) s → (curWarp s).num < 32 →
    ∃ t, exec (.pbar 1 b) s = .next t ∧ places s t (fun _ x => onward s x) ∧ (curWarp t).r = (curWarp s).r ∧
      keepsWarp s t ∧ changesBlk s t (fun x => { x with pbars := (curBlk t).pbars }) ∧
      ∀ c, lget {} c (curBlk t).pbars =
        if c = b.toNat ∧ active s 0 ≠ 0 then dropsWarp (curWarp s).num (lget {} c (curBlk s).pbars) else lget {} c (curBlk s).pbars)) ∧
  ((∀ g s, Runs (.trigger g) s → active s g.toNat ≠ 0 → mayRelease s →
    ∃ t, exec (.trigger g) s = .next t ∧ places s t (fun _ x => onward s x) ∧ (curWarp t).r = (curWarp s).r ∧
      keepsWarp s t ∧ keepsMemory s t ∧ curBlk t = { curBlk s with triggered := true } ∧
      (∀ b, b ≠ s.iss.bid → blkOf t b = blkOf s b) ∧ (∀ k, k ≠ s.iss.wk → warpOf t k = warpOf s k) ∧
      { restOfDevice t with grids := [] } = { restOfDevice s with grids := [] } ∧
      ∀ n, lfind n t.grids = (lfind n s.grids).map fun x =>
        if n = (curBlk s).gid ∧ (curBlk s).triggered = false then { x with triggers := x.triggers + 1 } else x) ∧
  (∀ g s, Runs (.trigger g) s → active s g.toNat ≠ 0 → (curBlk s).triggered = false → ¬ mayRelease s → heldAt (.trigger g) s) ∧
  (∀ g s, Runs (.trigger g) s → (curBlk s).triggered = true → idles (.trigger g) s) ∧
  (∀ g s, Runs (.trigger g) s → active s g.toNat = 0 → idles (.trigger g) s))

/-- R52, R54, R505: WAITC passes where the counter, as it stood at the end of the last cycle, is at most n, holds its active
lanes where it is above, and takes the trap of a set error bit first, clearing it. R56, R57, R486, R487: RGSIG flips the
phase of the slot it names, a release; RGWAIT passes where the phase at the end of the last cycle is the awaited one, and
else holds its active lanes. -/
def Obligations.CountersAndRings : Prop :=
  ((∀ c n s, Runs (.waitc c n) s → active s 0 = 0 ∨
      (lfind c.toNat (curWarp s).cerr = none ∧ lget 0 c.toNat (curWarp s).cntSeen ≤ n.toNat ∧ c.toNat ∉ (curWarp s).joined) →
    ∃ t, exec (.waitc c n) s = .next t ∧ places s t (fun _ x => onward s x) ∧ (curWarp t).r = (curWarp s).r ∧
      keepsWarp s t ∧ keepsDevice s t) ∧
  (∀ c n s, Runs (.waitc c n) s → active s 0 ≠ 0 → (curWarp s).bid = s.iss.bid →
      lfind c.toNat (curWarp s).cerr = none → lget 0 c.toNat (curWarp s).cntSeen ≤ n.toNat → c.toNat ∈ (curWarp s).joined →
    ∃ t, exec (.waitc c n) s = .next t ∧ places s t (fun _ x => onward s x) ∧ (curWarp t).r = (curWarp s).r ∧
      changesWarp s t (fun w => { w with joined := w.joined.filter fun x => x != c.toNat }) ∧ keepsMemory s t ∧
      (∀ k, k ≠ s.iss.wk → warpOf t k = warpOf s k) ∧ { restOfState t with l1 := [] } = { restOfState s with l1 := [] } ∧
      ∀ e, e ∈ t.l1 ↔ e ∈ s.l1 ∧ e.1 / 2 ^ 80 ≠ (curBlk s).core) ∧
  (∀ c n s, Runs (.waitc c n) s → active s 0 ≠ 0 → lfind c.toNat (curWarp s).cerr = none →
      n.toNat < lget 0 c.toNat (curWarp s).cntSeen →
    ∃ t, exec (.waitc c n) s = .next t ∧
      places s t (fun l x => if laneActive s 0 l then heldHere s (.waitc c.toNat n.toNat) x else onward s x) ∧
      (curWarp t).r = (curWarp s).r ∧ keepsWarp s t ∧ keepsDevice s t) ∧
  (∀ c n s, Runs (.waitc c n) s → (curWarp s).bid = s.iss.bid → active s 0 ≠ 0 → (curWarp s).inHandler = false →
    ∀ h ∈ handlerOf s s.iss.bid, ∀ e ∈ lfind c.toNat (curWarp s).cerr, e.1 < 256 →
    ∃ t, exec (.waitc c n) s = .next t ∧ entersHandler s t s.iss.lanes e.1 false s.iss.pc e.2 h ∧ othersStand s t s.iss.lanes ∧
      lfind c.toNat (curWarp t).cerr = none)) ∧
  ((∀ i a r k s, Runs (.rgsig i a r k) s → active s 0 ≠ 0 → mayRelease s →
    ∃ t, exec (.rgsig i a r k) s = .next t ∧ places s t (fun _ x => onward s x) ∧ (curWarp t).r = (curWarp s).r ∧
      keepsWarp s t ∧ changesBlk s t (fun x => { x with rings := (curBlk t).rings }) ∧
      (let n := if i = 1 then (readQ s a.toNat).toNat % 64 else 8 * r.toNat + k.toNat
       ∀ m, lget false m (curBlk t).rings = (lget false m (curBlk s).rings ^^ decide (m = n)))) ∧
  (∀ i a r k s, Runs (.rgsig i a r k) s → active s 0 ≠ 0 → ¬ mayRelease s →
    heldAt (.rgsig i a r k) s) ∧
  (∀ p i a r k s, Runs (.rgwait p i a r k) s → active s 0 ≠ 0 →
    let n := if i = 1 then (readQ s a.toNat).toNat % 64 else 8 * r.toNat + k.toNat
    ∃ t, exec (.rgwait p i a r k) s = .next t ∧ (curWarp t).r = (curWarp s).r ∧ keepsWarp s t ∧ keepsDevice s t ∧
      places s t fun l x => if lget false n (curBlk s).ringsSeen ≠ decide (p = 1) ∧ laneActive s 0 l then
        heldHere s (.rgwait n (decide (p = 1))) x else onward s x) ∧
  (∀ i a r k s, Runs (.rgsig i a r k) s → active s 0 = 0 → idles (.rgsig i a r k) s) ∧
  (∀ p i a r k s, Runs (.rgwait p i a r k) s → active s 0 = 0 → idles (.rgwait p i a r k) s))

/-- R29, R360, R490: the values that SREAD gives. A read of sr.flags is held while an earlier operation of the warp may still
raise a flag. R360, R490: SWRITE writes sr.link in each active lane, and every other permitted register once, from the lowest
active lane. -/
def Obligations.SpecialRegisters : Prop :=
  ((∀ d s, ∀ e ∈
      ([(0x000, fun l => l), (0x001, fun l => l % 4), (0x002, fun _ => (curWarp s).num), (0x003, fun _ => (curWarp s).role),
        (0x004, fun _ => (curBlk s).x), (0x005, fun _ => (curBlk s).y), (0x006, fun _ => (curBlk s).z),
        (0x007, fun _ => (curBlk s).pod), (0x008, fun _ => (curBlk s).gid),
        (0x009, fun l => if isHelper s l then 1 else 0), (0x021, fun _ => (curBlk s).trapen.toNat),
        (0x022, fun _ => (ctxOf s (curBlk s).ctx).ebud), (0x023, fun _ => (curBlk s).cls),
        (0x024, fun _ => (curGrid s).depth * 4096 + (curGrid s).fork),
        (0x030, fun _ => (curWarp s).tcause.toNat), (0x031, fun _ => (curWarp s).tpc.toNat),
        (0x032, fun _ => (curWarp s).taddr.toNat), (0x033, fun l => (lget 0 l (curWarp s).r.link).toNat),
        (0x035, fun _ => (curWarp s).taddrhi.toNat)] : List (BitVec 10 × (Nat → Nat))),
    Runs (.sread d e.1) s → doneW (.sread d e.1) s 0 d.toNat 1 fun _ l => BitVec.ofNat 32 (e.2 l)) ∧
  (∀ d s, Runs (.sread d 0x020) s → flagsOpen s s.iss.wk = false →
    doneW (.sread d 0x020) s 0 d.toNat 1 fun _ _ => (curBlk s).flags ||| (curWarp s).raised) ∧
  (∀ d s, Runs (.sread d 0x020) s → flagsOpen s s.iss.wk = true → active s 0 ≠ 0 → heldAt (.sread d 0x020) s) ∧
  (∀ d s, Runs (.sread d 0x020) s → active s 0 = 0 → doneW (.sread d 0x020) s 0 d.toNat 1 fun _ _ => 0) ∧
  (∀ d s, ∀ e ∈
      ([(0x010, BitVec.ofNat 64 s.clock), (0x012, BitVec.ofNat 64 (s.clock * 5 / 6)), (0x034, (curWarp s).mnan)] :
        List (BitVec 10 × BitVec 64)),
    Runs (.sread d e.1) s → doneW (.sread d e.1) s 0 d.toNat 2 (pairHalves fun _ => e.2))) ∧
  ((∀ a s, Runs (.swrite a 0x033) s →
    ∃ t, exec (.swrite a 0x033) s = .next t ∧ places s t (fun _ x => onward s x) ∧
      (∀ l, l < 32 → lget 0 l (curWarp t).r.link =
        if laneActive s 0 l then readW s a.toNat l &&& 0xFFFFFFFC else lget 0 l (curWarp s).r.link) ∧
      restOfLink (curWarp t).r = restOfLink (curWarp s).r ∧ keepsWarp s t ∧ keepsDevice s t) ∧
  (∀ a s, active s 0 ≠ 0 →
    let v := readW s a.toNat (lowestLane (active s 0))
    (Runs (.swrite a 0x020) s → ∃ t, exec (.swrite a 0x020) s = .next t ∧ places s t (fun _ x => onward s x) ∧
      changesBlk s t (fun b => { b with flags := v &&& 0xFF }) ∧ (curWarp t).r = (curWarp s).r ∧ keepsWarp s t) ∧
    (Runs (.swrite a 0x021) s → ∃ t, exec (.swrite a 0x021) s = .next t ∧ places s t (fun _ x => onward s x) ∧
      changesBlk s t (fun b => { b with trapen := v &&& 0xFF }) ∧ (curWarp t).r = (curWarp s).r ∧ keepsWarp s t) ∧
    (Runs (.swrite a 0x030) s → ∃ t, exec (.swrite a 0x030) s = .next t ∧ places s t (fun _ x => onward s x) ∧
      changesWarp s t (fun w => { w with tcause := v }) ∧ (curWarp t).r = (curWarp s).r ∧ keepsDevice s t) ∧
    (Runs (.swrite a 0x031) s → ∃ t, exec (.swrite a 0x031) s = .next t ∧ places s t (fun _ x => onward s x) ∧
      changesWarp s t (fun w => { w with tpc := v &&& 0xFFFFFFFC }) ∧ (curWarp t).r = (curWarp s).r ∧
      keepsDevice s t) ∧
    (Runs (.swrite a 0x032) s → ∃ t, exec (.swrite a 0x032) s = .next t ∧ places s t (fun _ x => onward s x) ∧
      changesWarp s t (fun w => { w with taddr := v }) ∧ (curWarp t).r = (curWarp s).r ∧ keepsDevice s t) ∧
    (Runs (.swrite a 0x035) s → ∃ t, exec (.swrite a 0x035) s = .next t ∧ places s t (fun _ x => onward s x) ∧
      changesWarp s t (fun w => { w with taddrhi := v }) ∧ (curWarp t).r = (curWarp s).r ∧ keepsDevice s t) ∧
    (Runs (.swrite a 0x034) s → ∃ t, exec (.swrite a 0x034) s = .next t ∧ places s t (fun _ x => onward s x) ∧
      changesWarp s t (fun w => { w with mnan := readD s a.toNat (lowestLane (active s 0)) &&& 0x1FFFFFFFFF }) ∧
      (curWarp t).r = (curWarp s).r ∧ keepsDevice s t)) ∧
  (∀ a n s, Runs (.swrite a n) s → active s 0 = 0 → idles (.swrite a n) s))

/-- R504: VOTE over the active lanes: the set of lanes whose source predicate holds, in its four modes. -/
def Obligations.Votes : Prop :=
  ∀ m p i a q g s, Runs (.vote m p i a q g) s →
    let v := laneSet ((lanesOf (active s g.toNat)).filter fun l => readP s a.toNat l != decide (i = 1))
    (m = 0 → doneQ (.vote m p i a q g) s g.toNat q.toNat v) ∧
    (m = 1 → doneP (.vote m p i a q g) s g.toNat p.toNat fun _ => v == active s g.toNat) ∧
    (m = 2 → doneP (.vote m p i a q g) s g.toNat p.toNat fun _ => v != 0) ∧
    (m = 3 → doneP (.vote m p i a q g) s g.toNat p.toNat fun _ => v == active s g.toNat || v == 0)

/-- R43 (with R44, R406, R408, R461): the mask instructions: joining, leaving, waiting, reading and setting, where bits of
lanes that are not launched are ignored. EXIT: active lanes leave every mask and are never ready again, the bundle's other
lanes go to the header after the clause; in a handler whose bundle has then no lane left, the warp leaves the handler. -/
def Obligations.MasksAndExit : Prop :=
  ((∀ m s, Runs (.mjoin m) s →
    ∃ t, exec (.mjoin m) s = .next t ∧ places s t (fun _ x => onward s x) ∧ restOfMaskRegs (curWarp t).r = restOfMaskRegs (curWarp s).r ∧ keepsDevice s t ∧
      (∀ k, maskOf (curWarp t) k = if k = m.toNat then maskOf (curWarp s) k ||| active s 0 else maskOf (curWarp s) k) ∧
      keepsWarp s t) ∧
  (∀ m s, Runs (.mleave m) s →
    ∃ t, exec (.mleave m) s = .next t ∧ places s t (fun _ x => onward s x) ∧ restOfMaskRegs (curWarp t).r = restOfMaskRegs (curWarp s).r ∧ keepsDevice s t ∧
      (∀ k, maskOf (curWarp t) k = if k = m.toNat then maskOf (curWarp s) k &&& ~~~(active s 0) else maskOf (curWarp s) k) ∧
      keepsWarp s t) ∧
  (∀ m s, Runs (.mwait m) s →
    ∃ t, exec (.mwait m) s = .next t ∧ (curWarp t).r = (curWarp s).r ∧ keepsWarp s t ∧ keepsDevice s t ∧
      places s t fun l x => if laneActive s 0 l && (maskOf (curWarp s) m.toNat).getLsbD l then heldHere s (.mwait m.toNat) x
        else onward s x) ∧
  (∀ d m s, Runs (.mread d m) s → doneQ (.mread d m) s 0 d.toNat (maskOf (curWarp s) m.toNat)) ∧
  (∀ m b s, Runs (.mset m b) s → active s 0 ≠ 0 →
    ∃ t, exec (.mset m b) s = .next t ∧ places s t (fun _ x => onward s x) ∧ restOfMaskRegs (curWarp t).r = restOfMaskRegs (curWarp s).r ∧ keepsDevice s t ∧
      (∀ k l, l < 32 → k ≠ m.toNat → (maskOf (curWarp t) k).getLsbD l = (maskOf (curWarp s) k).getLsbD l) ∧
      (∀ l, l < 32 → keysRise (curWarp s).lanes = true → (maskOf (curWarp t) m.toNat).getLsbD l =
        ((readQ s b.toNat).getLsbD l && match lfind l (curWarp s).lanes with | some x => !x.exited | none => false)) ∧
      keepsWarp s t) ∧
  (∀ m b s, Runs (.mset m b) s → active s 0 = 0 → idles (.mset m b) s)) ∧
  (∀ g s, Runs (.exit g) s →
    ∃ t, exec (.exit g) s = .next t ∧
      (∀ k, maskOf (curWarp t) k = maskOf (curWarp s) k &&& ~~~(active s g.toNat)) ∧
      restOfMaskRegs (curWarp t).r = restOfMaskRegs (curWarp s).r ∧ keepsDevice s t ∧
      ((curWarp s).inHandler = false ∨ (curWarp s).deferred = [] →
        places s t fun l x => if laneActive s g.toNat l then (s.iss.pc, none, .none, true) else onward s x) ∧
      ((curWarp s).inHandler = false → keepsWarp s t) ∧
      ((curWarp s).inHandler = true → (curWarp s).deferred = [] →
        (curWarp t).trapLanes = (curWarp s).trapLanes &&& ~~~(active s g.toNat) ∧
        (curWarp t).inHandler = decide ((curWarp s).trapLanes &&& ~~~(active s g.toNat) ≠ 0))) ∧
  ((∀ s w l x, x.exited = true → mayIssue s w l x = false))

/-- R60, R158, R159, R171, R350, R436, R438, R439: LD and LDA. With every access allowed and mapped, the load is outstanding
and the bundle goes on; while an acquire of the warp is under way the load is held; with no active lane nothing happens.
R350, R445, R446: LDQ makes one access for the warp, from q registers. -/
def Obligations.LoadIssue : Prop :=
  ((∀ d o k w h s, Runs (.ld d o k w h) s → mayAccess s false → ordinaryAccs s k.toNat o.toNat (bytesOfWidth w.toNat) ≠ [] →
    accessible s k.toNat .read 0 (ordinaryAccs s k.toNat o.toNat (bytesOfWidth w.toNat)) →
    ∃ t, exec (.ld d o k w h) s = .next t ∧
      loadOut s t k.toNat .read 0 d.toNat (regsOfWidth w.toNat) (ordinaryAccs s k.toNat o.toNat (bytesOfWidth w.toNat)) fun p =>
        p.rmw = none ∧ p.acquire = false ∧ p.uniform = false ∧ p.size = bytesOfWidth w.toNat) ∧
  (∀ d o k w c s, Runs (.lda d o k w c) s → mayAccess s false → ordinaryAccs s k.toNat o.toNat (bytesOfWidth w.toNat) ≠ [] →
    accessible s k.toNat .read 0 (ordinaryAccs s k.toNat o.toNat (bytesOfWidth w.toNat)) →
    ∃ t, exec (.lda d o k w c) s = .next t ∧
      loadOut s t k.toNat .read 0 d.toNat (regsOfWidth w.toNat) (ordinaryAccs s k.toNat o.toNat (bytesOfWidth w.toNat)) fun p =>
        p.rmw = none ∧ p.acquire = true ∧ p.scope = c.toNat ∧ p.uniform = false ∧ p.size = bytesOfWidth w.toNat) ∧
  (∀ d o k w h s, Runs (.ld d o k w h) s → mayAccess s false → onlyHelpers s →
    ∃ t, exec (.ld d o k w h) s = .next t ∧ movedOn s t ∧ (undamaged s → keepsMemory s t) ∧ t.blocks = s.blocks) ∧
  (∀ d o k w c s, Runs (.lda d o k w c) s → mayAccess s false → onlyHelpers s →
    ∃ t, exec (.lda d o k w c) s = .next t ∧ movedOn s t ∧ (undamaged s → keepsMemory s t) ∧ t.blocks = s.blocks) ∧
  (∀ d o k w h s, Runs (.ld d o k w h) s → active s 0 = 0 → doneW (.ld d o k w h) s 0 d.toNat (regsOfWidth w.toNat) fun _ _ => 0) ∧
  (∀ d o k w c s, Runs (.lda d o k w c) s → active s 0 = 0 → doneW (.lda d o k w c) s 0 d.toNat (regsOfWidth w.toNat) fun _ _ => 0) ∧
  (∀ d o k w h s, Runs (.ld d o k w h) s → active s 0 ≠ 0 → (curWarp s).acquiring = true → heldAt (.ld d o k w h) s) ∧
  (∀ d o k w c s, Runs (.lda d o k w c) s → active s 0 ≠ 0 → (curWarp s).acquiring = true → heldAt (.lda d o k w c) s)) ∧
  ((∀ d o k w h s, Runs (.ldq d o k w h) s → mayAccess s false → active s 0 &&& ~~~(helpers s (active s 0)) ≠ 0 →
    let v := (readQ s o.toNat).toNat + if k = 15 then (readQ s (o.toNat + 1)).toNat * 2 ^ 32 else 0
    let a : Acc := {
      lane := lowestLane (active s 0 &&& ~~~(helpers s (active s 0))), off := v, size := bytesOfWidth w.toNat
      va := if k = 15 then v % 2 ^ 56 else (segOf s k.toNat).base + v }
    accessible s k.toNat .read 0 [a] →
    ∃ t, exec (.ldq d o k w h) s = .next t ∧ movedOn s t ∧ (curWarp t).r = (curWarp s).r ∧ (undamaged s → keepsMemory s t) ∧
      (∀ k, k ≠ s.iss.wk → warpOf t k = warpOf s k) ∧ t.blocks = s.blocks ∧
      changesWarp s t (fun w => { w with loads := (curWarp t).loads }) ∧
      (curWarp t).loads.length = (curWarp s).loads.length + 1 ∧
      ∀ p ∈ (curWarp t).loads.getLast?, p.uniform = true ∧ p.dst = d.toNat ∧ p.nreg = regsOfWidth w.toNat ∧ p.rmw = none ∧
        p.acquire = false ∧ carried (placed s k.toNat .read 0 [a]) (fun b => b ∈ p.accs ∧ b.done = false ∧ b.wait = 0) a) ∧
  (∀ d o k w h s, Runs (.ldq d o k w h) s → mayAccess s false → onlyHelpers s →
    ∃ t, exec (.ldq d o k w h) s = .next t ∧ movedOn s t ∧ (undamaged s → keepsMemory s t) ∧ t.blocks = s.blocks) ∧
  (∀ d o k w h s, Runs (.ldq d o k w h) s → active s 0 = 0 → idles (.ldq d o k w h) s) ∧
  (∀ d o k w h s, Runs (.ldq d o k w h) s → active s 0 ≠ 0 → (curWarp s).acquiring = true → heldAt (.ldq d o k w h) s))

/-- R350, R491, R492, R493: ST and STR. With every access allowed and mapped, each lane's bytes are in flight to their
sector; an STR waits as R192 gives. -/
def Obligations.StoreIssue : Prop :=
  (∀ d o k w h s, Runs (.st d o k w h) s → mayAccess s false → active s 0 ≠ 0 → (∀ e ∈ s.side, e.wk ≠ s.iss.wk) →
    accessible s k.toNat .write 1 (ordinaryData s k.toNat o.toNat d.toNat (bytesOfWidth w.toNat)) →
    ∃ t, exec (.st d o k w h) s = .next t ∧
      storeOut s t k.toNat .write 1 (ordinaryData s k.toNat o.toNat d.toNat (bytesOfWidth w.toNat)) fun p => p.rmw = none ∧ p.release = false) ∧
  (∀ d o k w c s, Runs (.str d o k w c) s → mayAccess s true → active s 0 ≠ 0 → (∀ e ∈ s.side, e.wk ≠ s.iss.wk) →
    accessible s k.toNat .write 1 (ordinaryData s k.toNat o.toNat d.toNat (bytesOfWidth w.toNat)) →
    ∃ t, exec (.str d o k w c) s = .next t ∧
      storeOut s t k.toNat .write 1 (ordinaryData s k.toNat o.toNat d.toNat (bytesOfWidth w.toNat)) fun p =>
        p.rmw = none ∧ p.release = true ∧ p.scope = c.toNat) ∧
  (∀ d o k w h s, Runs (.st d o k w h) s → active s 0 = 0 → idles (.st d o k w h) s) ∧
  (∀ d o k w c s, Runs (.str d o k w c) s → active s 0 = 0 → idles (.str d o k w c) s) ∧
  (∀ d o k w h s, Runs (.st d o k w h) s → active s 0 ≠ 0 → ¬ mayAccess s false → heldAt (.st d o k w h) s) ∧
  (∀ d o k w c s, Runs (.str d o k w c) s → active s 0 ≠ 0 → ¬ mayAccess s true → heldAt (.str d o k w c) s)

/-- R350, R374, R375, R377, R378: each ATOM, with every access allowed and mapped, is outstanding with its operation, its
operands and its order, the second operand of cas and addb from the register or pair after the first (R375); it is held while
an acquire is under way or its release must wait; with no active lane nothing happens. R137, R376: what the thirteen
read-modify-write operations leave, on n bits: wrapping sums, signed and unsigned bounds, exchange, compare and exchange, the
wrapping counter and the bounded sum. -/
def Obligations.AtomicIssue : Prop :=
  ((∀ d o k w r c s, Runs (.atomAdd d o k w r c) s → mayAccess s (r == 2 || r == 3) → ordinaryData s k.toNat o.toNat d.toNat (4 * (w.toNat + 1)) ≠ [] →
    accessible s k.toNat .readWrite 2 (ordinaryData s k.toNat o.toNat d.toNat (4 * (w.toNat + 1))) →
    ∃ t, exec (.atomAdd d o k w r c) s = .next t ∧ loadOut s t k.toNat .readWrite 2 d.toNat (w.toNat + 1) (ordinaryData s k.toNat o.toNat d.toNat (4 * (w.toNat + 1))) fun p =>
      p.rmw = some .add ∧ p.acquire = (r == 1 || r == 3) ∧ p.release = (r == 2 || r == 3) ∧ p.scope = c.toNat) ∧
  (∀ d o k w r c s, Runs (.atomMin d o k w r c) s → mayAccess s (r == 2 || r == 3) → ordinaryData s k.toNat o.toNat d.toNat (4 * (w.toNat + 1)) ≠ [] →
    accessible s k.toNat .readWrite 2 (ordinaryData s k.toNat o.toNat d.toNat (4 * (w.toNat + 1))) →
    ∃ t, exec (.atomMin d o k w r c) s = .next t ∧ loadOut s t k.toNat .readWrite 2 d.toNat (w.toNat + 1) (ordinaryData s k.toNat o.toNat d.toNat (4 * (w.toNat + 1))) fun p =>
      p.rmw = some .min ∧ p.acquire = (r == 1 || r == 3) ∧ p.release = (r == 2 || r == 3) ∧ p.scope = c.toNat) ∧
  (∀ d o k w r c s, Runs (.atomMinu d o k w r c) s → mayAccess s (r == 2 || r == 3) → ordinaryData s k.toNat o.toNat d.toNat (4 * (w.toNat + 1)) ≠ [] →
    accessible s k.toNat .readWrite 2 (ordinaryData s k.toNat o.toNat d.toNat (4 * (w.toNat + 1))) →
    ∃ t, exec (.atomMinu d o k w r c) s = .next t ∧ loadOut s t k.toNat .readWrite 2 d.toNat (w.toNat + 1) (ordinaryData s k.toNat o.toNat d.toNat (4 * (w.toNat + 1))) fun p =>
      p.rmw = some .minu ∧ p.acquire = (r == 1 || r == 3) ∧ p.release = (r == 2 || r == 3) ∧ p.scope = c.toNat) ∧
  (∀ d o k w r c s, Runs (.atomMax d o k w r c) s → mayAccess s (r == 2 || r == 3) → ordinaryData s k.toNat o.toNat d.toNat (4 * (w.toNat + 1)) ≠ [] →
    accessible s k.toNat .readWrite 2 (ordinaryData s k.toNat o.toNat d.toNat (4 * (w.toNat + 1))) →
    ∃ t, exec (.atomMax d o k w r c) s = .next t ∧ loadOut s t k.toNat .readWrite 2 d.toNat (w.toNat + 1) (ordinaryData s k.toNat o.toNat d.toNat (4 * (w.toNat + 1))) fun p =>
      p.rmw = some .max ∧ p.acquire = (r == 1 || r == 3) ∧ p.release = (r == 2 || r == 3) ∧ p.scope = c.toNat) ∧
  (∀ d o k w r c s, Runs (.atomMaxu d o k w r c) s → mayAccess s (r == 2 || r == 3) → ordinaryData s k.toNat o.toNat d.toNat (4 * (w.toNat + 1)) ≠ [] →
    accessible s k.toNat .readWrite 2 (ordinaryData s k.toNat o.toNat d.toNat (4 * (w.toNat + 1))) →
    ∃ t, exec (.atomMaxu d o k w r c) s = .next t ∧ loadOut s t k.toNat .readWrite 2 d.toNat (w.toNat + 1) (ordinaryData s k.toNat o.toNat d.toNat (4 * (w.toNat + 1))) fun p =>
      p.rmw = some .maxu ∧ p.acquire = (r == 1 || r == 3) ∧ p.release = (r == 2 || r == 3) ∧ p.scope = c.toNat) ∧
  (∀ d o k w r c s, Runs (.atomAnd d o k w r c) s → mayAccess s (r == 2 || r == 3) → ordinaryData s k.toNat o.toNat d.toNat (4 * (w.toNat + 1)) ≠ [] →
    accessible s k.toNat .readWrite 2 (ordinaryData s k.toNat o.toNat d.toNat (4 * (w.toNat + 1))) →
    ∃ t, exec (.atomAnd d o k w r c) s = .next t ∧ loadOut s t k.toNat .readWrite 2 d.toNat (w.toNat + 1) (ordinaryData s k.toNat o.toNat d.toNat (4 * (w.toNat + 1))) fun p =>
      p.rmw = some .and ∧ p.acquire = (r == 1 || r == 3) ∧ p.release = (r == 2 || r == 3) ∧ p.scope = c.toNat) ∧
  (∀ d o k w r c s, Runs (.atomOr d o k w r c) s → mayAccess s (r == 2 || r == 3) → ordinaryData s k.toNat o.toNat d.toNat (4 * (w.toNat + 1)) ≠ [] →
    accessible s k.toNat .readWrite 2 (ordinaryData s k.toNat o.toNat d.toNat (4 * (w.toNat + 1))) →
    ∃ t, exec (.atomOr d o k w r c) s = .next t ∧ loadOut s t k.toNat .readWrite 2 d.toNat (w.toNat + 1) (ordinaryData s k.toNat o.toNat d.toNat (4 * (w.toNat + 1))) fun p =>
      p.rmw = some .or ∧ p.acquire = (r == 1 || r == 3) ∧ p.release = (r == 2 || r == 3) ∧ p.scope = c.toNat) ∧
  (∀ d o k w r c s, Runs (.atomXor d o k w r c) s → mayAccess s (r == 2 || r == 3) → ordinaryData s k.toNat o.toNat d.toNat (4 * (w.toNat + 1)) ≠ [] →
    accessible s k.toNat .readWrite 2 (ordinaryData s k.toNat o.toNat d.toNat (4 * (w.toNat + 1))) →
    ∃ t, exec (.atomXor d o k w r c) s = .next t ∧ loadOut s t k.toNat .readWrite 2 d.toNat (w.toNat + 1) (ordinaryData s k.toNat o.toNat d.toNat (4 * (w.toNat + 1))) fun p =>
      p.rmw = some .xor ∧ p.acquire = (r == 1 || r == 3) ∧ p.release = (r == 2 || r == 3) ∧ p.scope = c.toNat) ∧
  (∀ d o k w r c s, Runs (.atomExch d o k w r c) s → mayAccess s (r == 2 || r == 3) → ordinaryData s k.toNat o.toNat d.toNat (4 * (w.toNat + 1)) ≠ [] →
    accessible s k.toNat .readWrite 2 (ordinaryData s k.toNat o.toNat d.toNat (4 * (w.toNat + 1))) →
    ∃ t, exec (.atomExch d o k w r c) s = .next t ∧ loadOut s t k.toNat .readWrite 2 d.toNat (w.toNat + 1) (ordinaryData s k.toNat o.toNat d.toNat (4 * (w.toNat + 1))) fun p =>
      p.rmw = some .exch ∧ p.acquire = (r == 1 || r == 3) ∧ p.release = (r == 2 || r == 3) ∧ p.scope = c.toNat) ∧
  (∀ d o k w r c s, Runs (.atomCas d o k w r c) s → mayAccess s (r == 2 || r == 3) → ordinaryData s k.toNat o.toNat d.toNat (4 * (w.toNat + 1)) ≠ [] →
    accessible s k.toNat .readWrite 2 (ordinaryData s k.toNat o.toNat d.toNat (4 * (w.toNat + 1))) →
    ∃ t, exec (.atomCas d o k w r c) s = .next t ∧ loadOut s t k.toNat .readWrite 2 d.toNat (w.toNat + 1) (ordinaryData s k.toNat o.toNat d.toNat (4 * (w.toNat + 1))) fun p =>
      p.rmw = some .cas ∧ p.acquire = (r == 1 || r == 3) ∧ p.release = (r == 2 || r == 3) ∧ p.scope = c.toNat ∧
      ∀ l, l < 32 → laneActive s 0 l = true → lget 0 l p.cmp =
        if w = 0 then (readW s (d.toNat + 1) l).toNat
        else (readW s (d.toNat + 2) l).toNat + (readW s (d.toNat + 3) l).toNat * 2 ^ 32) ∧
  (∀ d o k r c s, Runs (.atomIncw d o k r c) s → mayAccess s (r == 2 || r == 3) → ordinaryData s k.toNat o.toNat d.toNat 4 ≠ [] →
    accessible s k.toNat .readWrite 2 (ordinaryData s k.toNat o.toNat d.toNat 4) →
    ∃ t, exec (.atomIncw d o k r c) s = .next t ∧ loadOut s t k.toNat .readWrite 2 d.toNat 1 (ordinaryData s k.toNat o.toNat d.toNat 4) fun p =>
      p.rmw = some .incw ∧ p.acquire = (r == 1 || r == 3) ∧ p.release = (r == 2 || r == 3) ∧ p.scope = c.toNat) ∧
  (∀ d o k r c s, Runs (.atomAddb d o k r c) s → mayAccess s (r == 2 || r == 3) → ordinaryData s k.toNat o.toNat d.toNat 4 ≠ [] →
    accessible s k.toNat .readWrite 2 (ordinaryData s k.toNat o.toNat d.toNat 4) →
    ∃ t, exec (.atomAddb d o k r c) s = .next t ∧ loadOut s t k.toNat .readWrite 2 d.toNat 1 (ordinaryData s k.toNat o.toNat d.toNat 4) fun p =>
      p.rmw = some .addb ∧ p.acquire = (r == 1 || r == 3) ∧ p.release = (r == 2 || r == 3) ∧ p.scope = c.toNat ∧
      ∀ l, l < 32 → laneActive s 0 l = true → lget 0 l p.cmp = (readW s (d.toNat + 1) l).toNat) ∧
  (∀ d o k r c s, Runs (.atomLadd d o k r c) s → mayAccess s (r == 2 || r == 3) → ordinaryData s k.toNat o.toNat d.toNat 4 ≠ [] →
    accessible s k.toNat .readWrite 2 (ordinaryData s k.toNat o.toNat d.toNat 4) →
    ∃ t, exec (.atomLadd d o k r c) s = .next t ∧ loadOut s t k.toNat .readWrite 2 d.toNat 1 (ordinaryData s k.toNat o.toNat d.toNat 4) fun p =>
      p.rmw = some .ladd ∧ p.acquire = (r == 1 || r == 3) ∧ p.release = (r == 2 || r == 3) ∧ p.scope = c.toNat) ∧
  (∀ d o k w r c s, Runs (.atomAdd d o k w r c) s → mayAccess s (r == 2 || r == 3) → onlyHelpers s →
    ∃ t, exec (.atomAdd d o k w r c) s = .next t ∧ movedOn s t ∧ (undamaged s → keepsMemory s t) ∧ t.blocks = s.blocks) ∧
  (∀ d o k w r c s, Runs (.atomMin d o k w r c) s → mayAccess s (r == 2 || r == 3) → onlyHelpers s →
    ∃ t, exec (.atomMin d o k w r c) s = .next t ∧ movedOn s t ∧ (undamaged s → keepsMemory s t) ∧ t.blocks = s.blocks) ∧
  (∀ d o k w r c s, Runs (.atomMinu d o k w r c) s → mayAccess s (r == 2 || r == 3) → onlyHelpers s →
    ∃ t, exec (.atomMinu d o k w r c) s = .next t ∧ movedOn s t ∧ (undamaged s → keepsMemory s t) ∧ t.blocks = s.blocks) ∧
  (∀ d o k w r c s, Runs (.atomMax d o k w r c) s → mayAccess s (r == 2 || r == 3) → onlyHelpers s →
    ∃ t, exec (.atomMax d o k w r c) s = .next t ∧ movedOn s t ∧ (undamaged s → keepsMemory s t) ∧ t.blocks = s.blocks) ∧
  (∀ d o k w r c s, Runs (.atomMaxu d o k w r c) s → mayAccess s (r == 2 || r == 3) → onlyHelpers s →
    ∃ t, exec (.atomMaxu d o k w r c) s = .next t ∧ movedOn s t ∧ (undamaged s → keepsMemory s t) ∧ t.blocks = s.blocks) ∧
  (∀ d o k w r c s, Runs (.atomAnd d o k w r c) s → mayAccess s (r == 2 || r == 3) → onlyHelpers s →
    ∃ t, exec (.atomAnd d o k w r c) s = .next t ∧ movedOn s t ∧ (undamaged s → keepsMemory s t) ∧ t.blocks = s.blocks) ∧
  (∀ d o k w r c s, Runs (.atomOr d o k w r c) s → mayAccess s (r == 2 || r == 3) → onlyHelpers s →
    ∃ t, exec (.atomOr d o k w r c) s = .next t ∧ movedOn s t ∧ (undamaged s → keepsMemory s t) ∧ t.blocks = s.blocks) ∧
  (∀ d o k w r c s, Runs (.atomXor d o k w r c) s → mayAccess s (r == 2 || r == 3) → onlyHelpers s →
    ∃ t, exec (.atomXor d o k w r c) s = .next t ∧ movedOn s t ∧ (undamaged s → keepsMemory s t) ∧ t.blocks = s.blocks) ∧
  (∀ d o k w r c s, Runs (.atomExch d o k w r c) s → mayAccess s (r == 2 || r == 3) → onlyHelpers s →
    ∃ t, exec (.atomExch d o k w r c) s = .next t ∧ movedOn s t ∧ (undamaged s → keepsMemory s t) ∧ t.blocks = s.blocks) ∧
  (∀ d o k w r c s, Runs (.atomCas d o k w r c) s → mayAccess s (r == 2 || r == 3) → onlyHelpers s →
    ∃ t, exec (.atomCas d o k w r c) s = .next t ∧ movedOn s t ∧ (undamaged s → keepsMemory s t) ∧ t.blocks = s.blocks) ∧
  (∀ d o k r c s, Runs (.atomIncw d o k r c) s → mayAccess s (r == 2 || r == 3) → onlyHelpers s →
    ∃ t, exec (.atomIncw d o k r c) s = .next t ∧ movedOn s t ∧ (undamaged s → keepsMemory s t) ∧ t.blocks = s.blocks) ∧
  (∀ d o k r c s, Runs (.atomAddb d o k r c) s → mayAccess s (r == 2 || r == 3) → onlyHelpers s →
    ∃ t, exec (.atomAddb d o k r c) s = .next t ∧ movedOn s t ∧ (undamaged s → keepsMemory s t) ∧ t.blocks = s.blocks) ∧
  (∀ d o k r c s, Runs (.atomLadd d o k r c) s → mayAccess s (r == 2 || r == 3) → onlyHelpers s →
    ∃ t, exec (.atomLadd d o k r c) s = .next t ∧ movedOn s t ∧ (undamaged s → keepsMemory s t) ∧ t.blocks = s.blocks) ∧
  (∀ d o k w r c s, Runs (.atomAdd d o k w r c) s → active s 0 = 0 → doneW (.atomAdd d o k w r c) s 0 d.toNat (w.toNat + 1) fun _ _ => 0) ∧
  (∀ d o k w r c s, Runs (.atomMin d o k w r c) s → active s 0 = 0 → doneW (.atomMin d o k w r c) s 0 d.toNat (w.toNat + 1) fun _ _ => 0) ∧
  (∀ d o k w r c s, Runs (.atomMinu d o k w r c) s → active s 0 = 0 → doneW (.atomMinu d o k w r c) s 0 d.toNat (w.toNat + 1) fun _ _ => 0) ∧
  (∀ d o k w r c s, Runs (.atomMax d o k w r c) s → active s 0 = 0 → doneW (.atomMax d o k w r c) s 0 d.toNat (w.toNat + 1) fun _ _ => 0) ∧
  (∀ d o k w r c s, Runs (.atomMaxu d o k w r c) s → active s 0 = 0 → doneW (.atomMaxu d o k w r c) s 0 d.toNat (w.toNat + 1) fun _ _ => 0) ∧
  (∀ d o k w r c s, Runs (.atomAnd d o k w r c) s → active s 0 = 0 → doneW (.atomAnd d o k w r c) s 0 d.toNat (w.toNat + 1) fun _ _ => 0) ∧
  (∀ d o k w r c s, Runs (.atomOr d o k w r c) s → active s 0 = 0 → doneW (.atomOr d o k w r c) s 0 d.toNat (w.toNat + 1) fun _ _ => 0) ∧
  (∀ d o k w r c s, Runs (.atomXor d o k w r c) s → active s 0 = 0 → doneW (.atomXor d o k w r c) s 0 d.toNat (w.toNat + 1) fun _ _ => 0) ∧
  (∀ d o k w r c s, Runs (.atomExch d o k w r c) s → active s 0 = 0 → doneW (.atomExch d o k w r c) s 0 d.toNat (w.toNat + 1) fun _ _ => 0) ∧
  (∀ d o k w r c s, Runs (.atomCas d o k w r c) s → active s 0 = 0 → doneW (.atomCas d o k w r c) s 0 d.toNat (w.toNat + 1) fun _ _ => 0) ∧
  (∀ d o k r c s, Runs (.atomIncw d o k r c) s → active s 0 = 0 → doneW (.atomIncw d o k r c) s 0 d.toNat 1 fun _ _ => 0) ∧
  (∀ d o k r c s, Runs (.atomAddb d o k r c) s → active s 0 = 0 → doneW (.atomAddb d o k r c) s 0 d.toNat 1 fun _ _ => 0) ∧
  (∀ d o k r c s, Runs (.atomLadd d o k r c) s → active s 0 = 0 → doneW (.atomLadd d o k r c) s 0 d.toNat 1 fun _ _ => 0) ∧
  (∀ d o k w r c s, Runs (.atomAdd d o k w r c) s → active s 0 ≠ 0 → ¬ mayAccess s (r == 2 || r == 3) → heldAt (.atomAdd d o k w r c) s) ∧
  (∀ d o k w r c s, Runs (.atomMin d o k w r c) s → active s 0 ≠ 0 → ¬ mayAccess s (r == 2 || r == 3) → heldAt (.atomMin d o k w r c) s) ∧
  (∀ d o k w r c s, Runs (.atomMinu d o k w r c) s → active s 0 ≠ 0 → ¬ mayAccess s (r == 2 || r == 3) → heldAt (.atomMinu d o k w r c) s) ∧
  (∀ d o k w r c s, Runs (.atomMax d o k w r c) s → active s 0 ≠ 0 → ¬ mayAccess s (r == 2 || r == 3) → heldAt (.atomMax d o k w r c) s) ∧
  (∀ d o k w r c s, Runs (.atomMaxu d o k w r c) s → active s 0 ≠ 0 → ¬ mayAccess s (r == 2 || r == 3) → heldAt (.atomMaxu d o k w r c) s) ∧
  (∀ d o k w r c s, Runs (.atomAnd d o k w r c) s → active s 0 ≠ 0 → ¬ mayAccess s (r == 2 || r == 3) → heldAt (.atomAnd d o k w r c) s) ∧
  (∀ d o k w r c s, Runs (.atomOr d o k w r c) s → active s 0 ≠ 0 → ¬ mayAccess s (r == 2 || r == 3) → heldAt (.atomOr d o k w r c) s) ∧
  (∀ d o k w r c s, Runs (.atomXor d o k w r c) s → active s 0 ≠ 0 → ¬ mayAccess s (r == 2 || r == 3) → heldAt (.atomXor d o k w r c) s) ∧
  (∀ d o k w r c s, Runs (.atomExch d o k w r c) s → active s 0 ≠ 0 → ¬ mayAccess s (r == 2 || r == 3) → heldAt (.atomExch d o k w r c) s) ∧
  (∀ d o k w r c s, Runs (.atomCas d o k w r c) s → active s 0 ≠ 0 → ¬ mayAccess s (r == 2 || r == 3) → heldAt (.atomCas d o k w r c) s) ∧
  (∀ d o k r c s, Runs (.atomIncw d o k r c) s → active s 0 ≠ 0 → ¬ mayAccess s (r == 2 || r == 3) → heldAt (.atomIncw d o k r c) s) ∧
  (∀ d o k r c s, Runs (.atomAddb d o k r c) s → active s 0 ≠ 0 → ¬ mayAccess s (r == 2 || r == 3) → heldAt (.atomAddb d o k r c) s) ∧
  (∀ d o k r c s, Runs (.atomLadd d o k r c) s → active s 0 ≠ 0 → ¬ mayAccess s (r == 2 || r == 3) → heldAt (.atomLadd d o k r c) s)) ∧
  (∀ n old v c, n = 32 ∨ n = 64 → old < 2 ^ n → v < 2 ^ n → c < 2 ^ n →
    (rmwNew .add n old v c).1 = (old + v) % 2 ^ n ∧
    (rmwNew .min n old v c).1 = (BitVec.ofInt n (min (BitVec.ofNat n old).toInt (BitVec.ofNat n v).toInt)).toNat ∧
    (rmwNew .max n old v c).1 = (BitVec.ofInt n (max (BitVec.ofNat n old).toInt (BitVec.ofNat n v).toInt)).toNat ∧
    (rmwNew .minu n old v c).1 = min old v ∧ (rmwNew .maxu n old v c).1 = max old v ∧
    (rmwNew .and n old v c).1 = (BitVec.ofNat n old &&& BitVec.ofNat n v).toNat ∧
    (rmwNew .or n old v c).1 = (BitVec.ofNat n old ||| BitVec.ofNat n v).toNat ∧
    (rmwNew .xor n old v c).1 = (BitVec.ofNat n old ^^^ BitVec.ofNat n v).toNat ∧
    (rmwNew .exch n old v c).1 = v ∧ (rmwNew .cas n old v c).1 = (if old = c then v else old) ∧
    (rmwNew .incw n old v c).1 = (if v ≤ old then 0 else old + 1) ∧
    (rmwNew .addb n old v c).1 = (if c ≤ old then old else min (old + v) c) ∧
    rmwNew .ladd n old v c =
      (lcode fL32 (logAdd fL32 false (lval fL32 old) (lval fL32 v)).1, (logAdd fL32 false (lval fL32 old) (lval fL32 v)).2))

/-- R350, R482, R483, R484: each RED, with every access allowed and mapped, is in flight with its operation, its operands and
its order; it is held while an acquire is under way or its release must wait; with no active lane nothing happens. -/
def Obligations.ReductionIssue : Prop :=
  (∀ d o k w r c s, Runs (.redAdd d o k w r c) s → mayAccess s (r == 1) → active s 0 ≠ 0 → (∀ e ∈ s.side, e.wk ≠ s.iss.wk) →
    accessible s k.toNat .readWrite 2 (ordinaryData s k.toNat o.toNat d.toNat (4 * (w.toNat + 1))) →
    ∃ t, exec (.redAdd d o k w r c) s = .next t ∧ storeOut s t k.toNat .readWrite 2 (ordinaryData s k.toNat o.toNat d.toNat (4 * (w.toNat + 1))) fun p =>
      p.rmw = some .add ∧ p.release = (r == 1) ∧ p.scope = c.toNat) ∧
  (∀ d o k w r c s, Runs (.redMin d o k w r c) s → mayAccess s (r == 1) → active s 0 ≠ 0 → (∀ e ∈ s.side, e.wk ≠ s.iss.wk) →
    accessible s k.toNat .readWrite 2 (ordinaryData s k.toNat o.toNat d.toNat (4 * (w.toNat + 1))) →
    ∃ t, exec (.redMin d o k w r c) s = .next t ∧ storeOut s t k.toNat .readWrite 2 (ordinaryData s k.toNat o.toNat d.toNat (4 * (w.toNat + 1))) fun p =>
      p.rmw = some .min ∧ p.release = (r == 1) ∧ p.scope = c.toNat) ∧
  (∀ d o k w r c s, Runs (.redMinu d o k w r c) s → mayAccess s (r == 1) → active s 0 ≠ 0 → (∀ e ∈ s.side, e.wk ≠ s.iss.wk) →
    accessible s k.toNat .readWrite 2 (ordinaryData s k.toNat o.toNat d.toNat (4 * (w.toNat + 1))) →
    ∃ t, exec (.redMinu d o k w r c) s = .next t ∧ storeOut s t k.toNat .readWrite 2 (ordinaryData s k.toNat o.toNat d.toNat (4 * (w.toNat + 1))) fun p =>
      p.rmw = some .minu ∧ p.release = (r == 1) ∧ p.scope = c.toNat) ∧
  (∀ d o k w r c s, Runs (.redMax d o k w r c) s → mayAccess s (r == 1) → active s 0 ≠ 0 → (∀ e ∈ s.side, e.wk ≠ s.iss.wk) →
    accessible s k.toNat .readWrite 2 (ordinaryData s k.toNat o.toNat d.toNat (4 * (w.toNat + 1))) →
    ∃ t, exec (.redMax d o k w r c) s = .next t ∧ storeOut s t k.toNat .readWrite 2 (ordinaryData s k.toNat o.toNat d.toNat (4 * (w.toNat + 1))) fun p =>
      p.rmw = some .max ∧ p.release = (r == 1) ∧ p.scope = c.toNat) ∧
  (∀ d o k w r c s, Runs (.redMaxu d o k w r c) s → mayAccess s (r == 1) → active s 0 ≠ 0 → (∀ e ∈ s.side, e.wk ≠ s.iss.wk) →
    accessible s k.toNat .readWrite 2 (ordinaryData s k.toNat o.toNat d.toNat (4 * (w.toNat + 1))) →
    ∃ t, exec (.redMaxu d o k w r c) s = .next t ∧ storeOut s t k.toNat .readWrite 2 (ordinaryData s k.toNat o.toNat d.toNat (4 * (w.toNat + 1))) fun p =>
      p.rmw = some .maxu ∧ p.release = (r == 1) ∧ p.scope = c.toNat) ∧
  (∀ d o k w r c s, Runs (.redAnd d o k w r c) s → mayAccess s (r == 1) → active s 0 ≠ 0 → (∀ e ∈ s.side, e.wk ≠ s.iss.wk) →
    accessible s k.toNat .readWrite 2 (ordinaryData s k.toNat o.toNat d.toNat (4 * (w.toNat + 1))) →
    ∃ t, exec (.redAnd d o k w r c) s = .next t ∧ storeOut s t k.toNat .readWrite 2 (ordinaryData s k.toNat o.toNat d.toNat (4 * (w.toNat + 1))) fun p =>
      p.rmw = some .and ∧ p.release = (r == 1) ∧ p.scope = c.toNat) ∧
  (∀ d o k w r c s, Runs (.redOr d o k w r c) s → mayAccess s (r == 1) → active s 0 ≠ 0 → (∀ e ∈ s.side, e.wk ≠ s.iss.wk) →
    accessible s k.toNat .readWrite 2 (ordinaryData s k.toNat o.toNat d.toNat (4 * (w.toNat + 1))) →
    ∃ t, exec (.redOr d o k w r c) s = .next t ∧ storeOut s t k.toNat .readWrite 2 (ordinaryData s k.toNat o.toNat d.toNat (4 * (w.toNat + 1))) fun p =>
      p.rmw = some .or ∧ p.release = (r == 1) ∧ p.scope = c.toNat) ∧
  (∀ d o k w r c s, Runs (.redXor d o k w r c) s → mayAccess s (r == 1) → active s 0 ≠ 0 → (∀ e ∈ s.side, e.wk ≠ s.iss.wk) →
    accessible s k.toNat .readWrite 2 (ordinaryData s k.toNat o.toNat d.toNat (4 * (w.toNat + 1))) →
    ∃ t, exec (.redXor d o k w r c) s = .next t ∧ storeOut s t k.toNat .readWrite 2 (ordinaryData s k.toNat o.toNat d.toNat (4 * (w.toNat + 1))) fun p =>
      p.rmw = some .xor ∧ p.release = (r == 1) ∧ p.scope = c.toNat) ∧
  (∀ d o k r c s, Runs (.redLadd d o k r c) s → mayAccess s (r == 1) → active s 0 ≠ 0 → (∀ e ∈ s.side, e.wk ≠ s.iss.wk) →
    accessible s k.toNat .readWrite 2 (ordinaryData s k.toNat o.toNat d.toNat 4) →
    ∃ t, exec (.redLadd d o k r c) s = .next t ∧ storeOut s t k.toNat .readWrite 2 (ordinaryData s k.toNat o.toNat d.toNat 4) fun p =>
      p.rmw = some .ladd ∧ p.release = (r == 1) ∧ p.scope = c.toNat) ∧
  (∀ d o k w r c s, Runs (.redAdd d o k w r c) s → active s 0 = 0 → idles (.redAdd d o k w r c) s) ∧
  (∀ d o k w r c s, Runs (.redMin d o k w r c) s → active s 0 = 0 → idles (.redMin d o k w r c) s) ∧
  (∀ d o k w r c s, Runs (.redMinu d o k w r c) s → active s 0 = 0 → idles (.redMinu d o k w r c) s) ∧
  (∀ d o k w r c s, Runs (.redMax d o k w r c) s → active s 0 = 0 → idles (.redMax d o k w r c) s) ∧
  (∀ d o k w r c s, Runs (.redMaxu d o k w r c) s → active s 0 = 0 → idles (.redMaxu d o k w r c) s) ∧
  (∀ d o k w r c s, Runs (.redAnd d o k w r c) s → active s 0 = 0 → idles (.redAnd d o k w r c) s) ∧
  (∀ d o k w r c s, Runs (.redOr d o k w r c) s → active s 0 = 0 → idles (.redOr d o k w r c) s) ∧
  (∀ d o k w r c s, Runs (.redXor d o k w r c) s → active s 0 = 0 → idles (.redXor d o k w r c) s) ∧
  (∀ d o k r c s, Runs (.redLadd d o k r c) s → active s 0 = 0 → idles (.redLadd d o k r c) s) ∧
  (∀ d o k w r c s, Runs (.redAdd d o k w r c) s → active s 0 ≠ 0 → ¬ mayAccess s (r == 1) → heldAt (.redAdd d o k w r c) s) ∧
  (∀ d o k w r c s, Runs (.redMin d o k w r c) s → active s 0 ≠ 0 → ¬ mayAccess s (r == 1) → heldAt (.redMin d o k w r c) s) ∧
  (∀ d o k w r c s, Runs (.redMinu d o k w r c) s → active s 0 ≠ 0 → ¬ mayAccess s (r == 1) → heldAt (.redMinu d o k w r c) s) ∧
  (∀ d o k w r c s, Runs (.redMax d o k w r c) s → active s 0 ≠ 0 → ¬ mayAccess s (r == 1) → heldAt (.redMax d o k w r c) s) ∧
  (∀ d o k w r c s, Runs (.redMaxu d o k w r c) s → active s 0 ≠ 0 → ¬ mayAccess s (r == 1) → heldAt (.redMaxu d o k w r c) s) ∧
  (∀ d o k w r c s, Runs (.redAnd d o k w r c) s → active s 0 ≠ 0 → ¬ mayAccess s (r == 1) → heldAt (.redAnd d o k w r c) s) ∧
  (∀ d o k w r c s, Runs (.redOr d o k w r c) s → active s 0 ≠ 0 → ¬ mayAccess s (r == 1) → heldAt (.redOr d o k w r c) s) ∧
  (∀ d o k w r c s, Runs (.redXor d o k w r c) s → active s 0 ≠ 0 → ¬ mayAccess s (r == 1) → heldAt (.redXor d o k w r c) s) ∧
  (∀ d o k r c s, Runs (.redLadd d o k r c) s → active s 0 ≠ 0 → ¬ mayAccess s (r == 1) → heldAt (.redLadd d o k r c) s)

/-- R159: the checks of every global access, of every width, in their order: alignment (cause 0x05), segment bounds (0x06),
permission (0x08), range locks (0x09), translation (0x07 or 0x08) and the reliability class (0x13), each where the earlier
ones pass; the trap is precise, and sr.taddr holds the address, or for the bounds the offset, of the lowest lane that fails. -/
def Obligations.AccessChecks : Prop :=
  ∀ d o dq oq k w h c x y r s, ∀ e ∈ globals s d o dq oq k w h c x y r,
    Runs e.ins s → mayTrap s → mayAccess s e.release → ∀ a ∈ e.accs,
    let g := segOf s k.toNat
    let before := fun (ok : Acc → Prop) => ∀ b ∈ e.accs, b.lane < a.lane → ok b
    let aligned := fun (b : Acc) => b.va % b.size = 0
    let inside := fun (b : Acc) => g.valid = true ∧ b.va < 2 ^ 56 ∧
      (if k = 15 then b.off < 2 ^ 56 else b.off + b.size - 1 ≤ g.limit)
    let allowed := (e.want = .write ∨ g.r = true) ∧ (e.want = .read ∨ g.w = true)
    let free := fun (b : Acc) => ∀ l ∈ s.locks, ¬ (l.bid = s.iss.bid ∧ l.space = 5 ∧ b.va < l.hi ∧ l.lo < b.va + b.size)
    let rs := (reachAll (curBlk s).core (curBlk s).ctx (revOf s s.iss.bid) g e.want e.kind e.accs s).2
    let refused := fun (b : Acc) => ∃ v, (b, Reach.refused v) ∈ rs
    let first := (∀ b ∈ e.accs, aligned b) ∧ (∀ b ∈ e.accs, inside b) ∧ allowed ∧ ∀ b ∈ e.accs, free b
    (¬ aligned a → before aligned → trapsAt e.ins s 0x05 a.va) ∧
    ((∀ b ∈ e.accs, aligned b) → ¬ inside a → before inside → trapsAt e.ins s 0x06 a.off) ∧
    ((∀ b ∈ e.accs, aligned b) → (∀ b ∈ e.accs, inside b) → ¬ allowed → before (fun _ => False) → trapsAt e.ins s 0x08 a.va) ∧
    ((∀ b ∈ e.accs, aligned b) → (∀ b ∈ e.accs, inside b) → allowed → ¬ free a → before free → trapsAt e.ins s 0x09 a.va) ∧
    (first → (handlerOf s s.iss.bid).isSome = true → (∀ v, (a, Reach.refused v) ∈ rs → before (fun b => ¬ refused b) →
      (v = 0x07 ∨ v = 0x08) ∧ turnedAway e.ins s v a.va)) ∧
    (first → (handlerOf s s.iss.bid).isSome = true → (∀ b, ¬ refused b) → (a, Reach.weak) ∈ rs →
      before (fun b => (b, Reach.weak) ∉ rs) → turnedAway e.ins s 0x13 a.va)

/-- R171: the lanes of a load whose page is absent are held at the load, a fault stands for each of them, and the bundle's
other lanes go on. R173: the accesses of a store whose page is absent go to the side log, one entry to each page, and the
bundle goes on. -/
def Obligations.AbsentPages : Prop :=
  (∀ d o k w h s, Runs (.ld d o k w h) s → mayAccess s false → 0 < s.nextId → (∀ f ∈ s.faults, 0 < f.key) →
    let accs := ordinaryAccs s k.toNat o.toNat (bytesOfWidth w.toNat)
    let rs := (reachAll (curBlk s).core (curBlk s).ctx (revOf s s.iss.bid) (segOf s k.toNat) .read 0 accs s).2
    let waits := fun l => rs.any fun e => e.1.lane == l && match e.2 with | .wait _ _ => true | _ => false
    firstCheck s k.toNat .read accs = none → firstRefusal rs = none → (∃ l, l < 32 ∧ waits l = true) →
    ∃ t, exec (.ld d o k w h) s = .next t ∧
      (∀ p ∈ (curWarp t).loads.getLast?,
        places s t (fun l x => if waits l then heldHere s (.load p.id) x else onward s x) ∧
        ∀ l, l < 32 → waits l = true → ∃ a ∈ p.accs, a.lane = l ∧ a.done = false ∧ t.faults.any (fun f => f.key == a.wait) = true) ∧
      (∀ r l, l < 32 → laneActive s 0 l = true → readW t r l = readW s r l)) ∧
  (∀ d o k w h s, Runs (.st d o k w h) s → mayAccess s false → active s 0 ≠ 0 → s.side = [] →
    let accs := ordinaryData s k.toNat o.toNat d.toNat (bytesOfWidth w.toNat)
    let rs := (reachAll (curBlk s).core (curBlk s).ctx (revOf s s.iss.bid) (segOf s k.toNat) .write 1 accs s).2
    firstCheck s k.toNat .write accs = none → firstRefusal rs = none →
    ∃ t, exec (.st d o k w h) s = .next t ∧ movedOn s t ∧ (curWarp t).r = (curWarp s).r ∧
      (curWarp t).rsc = (curWarp s).rsc + (sectorsOf accs).length ∧
      (∀ e ∈ rs, isAt e.2 = false → ∃ x ∈ t.side, x.wk = s.iss.wk ∧ x.vpn = e.1.va / 4096 ∧ e.1 ∈ x.accs ∧
        t.faults.any (fun f => f.key == x.waits) = true) ∧
      (t.side.map fun x => x.vpn).Nodup)

/-- R141, R143, R441, R442, R494: LDL and STL act on the local stores at issue: LDL loads bytes, lower byte first; STL writes
lane by lane, so that the highest lane's byte remains; both trap on alignment (cause 0x05), bounds (0x06) and locks (0x09),
in that order, sr.taddr the address of the lowest lane that fails. -/
def Obligations.LocalStores : Prop :=
  (∀ d o k w x s, Runs (.ldl d o k w x) s → (curWarp s).acquiring = false → noStl s → (curBlk s).bad = [] →
    localCheck s k.toNat ((lanesOf (active s 0 &&& ~~~(helpers s (active s 0)))).map
      (localAccess s o.toNat (bytesOfWidth w.toNat) x.toNat)) = none →
    doneW (.ldl d o k w x) s 0 d.toNat (regsOfWidth w.toNat) fun q l =>
      let a := (readW s o.toNat l).toNat + x.toNat * bytesOfWidth w.toNat
      let n := bytesOfWidth w.toNat
      let v := leNat (storeBytes (curBlk s) k.toNat (a + 4 * q) (min n 4))
      if isHelper s l = true ∧ (a % n ≠ 0 ∨ (curBlk s).alloc.getD k.toNat 0 < a + n) then 0
      else if w = 1 then (BitVec.ofNat 8 v).signExtend 32 else if w = 3 then (BitVec.ofNat 16 v).signExtend 32 else BitVec.ofNat 32 v) ∧
  (∀ d o k w x s, Runs (.stl d o k w x) s → (curWarp s).acquiring = false → active s 0 ≠ 0 →
    let n := bytesOfWidth w.toNat
    let accs := (lanesOf (active s 0 &&& ~~~(helpers s (active s 0)))).map (localAccess s o.toNat n x.toNat)
    localCheck s k.toNat accs = none →
    ∃ t, exec (.stl d o k w x) s = .next t ∧ movedOn s t ∧ (curWarp t).r = (curWarp s).r ∧ keepsWarp s t ∧
      changesStores s t ∧
      ∀ sp a, sp < 5 → a < 2 ^ 20 → lget 0 (storeKey sp a) (curBlk t).ls =
        match (accs.filter fun c => sp == k.toNat && decide (c.va ≤ a) && decide (a < c.va + n)).getLast? with
        | some c => (dataBytes s d.toNat n c.lane).getD (a - c.va) 0
        | none => lget 0 (storeKey sp a) (curBlk s).ls) ∧
  (∀ d o k w x s, ∀ i ∈ [Instr.ldl d o k w x, .stl d o k w x], Runs i s → (curWarp s).acquiring = false → noStl s → mayTrap s →
    let n := bytesOfWidth w.toNat
    let accs := (lanesOf (active s 0 &&& ~~~(helpers s (active s 0)))).map (localAccess s o.toNat n x.toNat)
    let aligned := fun (b : Acc) => b.va % n = 0
    let inside := fun (b : Acc) => b.va + n ≤ (curBlk s).alloc.getD k.toNat 0
    let free := fun (b : Acc) => ∀ l ∈ s.locks, ¬ (l.bid = s.iss.bid ∧ l.space = k.toNat ∧ b.va < l.hi ∧ l.lo < b.va + n)
    ∀ a ∈ accs,
    let before := fun (ok : Acc → Prop) => ∀ b ∈ accs, b.lane < a.lane → ok b
    (¬ aligned a → before aligned → trapsAt i s 0x05 a.va) ∧
    ((∀ b ∈ accs, aligned b) → ¬ inside a → before inside → trapsAt i s 0x06 a.va) ∧
    ((∀ b ∈ accs, aligned b) → (∀ b ∈ accs, inside b) → ¬ free a → before free → trapsAt i s 0x09 a.va)) ∧
  (∀ d o k w x s, Runs (.ldl d o k w x) s → active s 0 = 0 → doneW (.ldl d o k w x) s 0 d.toNat (regsOfWidth w.toNat) fun _ _ => 0) ∧
  (∀ d o k w x s, Runs (.stl d o k w x) s → active s 0 = 0 → idles (.stl d o k w x) s)

/-- R192, R193, R350, R409, R410: a fence waits for the warp's earlier accesses, and one of pod scope or wider invalidates
the first-level cache. R192, R200, R350, R399, R400, R418: CCTL changes no byte that a program reads, and its write-back is
in flight like a store and counts once; its invalidation takes the first-level lines of its lanes, and no other line, away;
its prefetches bring the lines into the second-level cache, and pf1 into the first level as well, with the core's own stores
in flight over them; it checks bounds and permission alone; IFENCE empties the core's instruction cache and what the warp has
fetched. -/
def Obligations.FencesAndCaches : Prop :=
  ((∀ c s, Runs (.fenceAcqrel c) s → active s 0 ≠ 0 → mayRelease s →
    ∃ t, exec (.fenceAcqrel c) s = .next t ∧ places s t (fun _ x => onward s x) ∧ (curWarp t).r = (curWarp s).r ∧ keepsWarp s t ∧
      keepsMemory s t ∧ (∀ k, k ≠ s.iss.wk → warpOf t k = warpOf s k) ∧
      { restOfState t with l1 := [] } = { restOfState s with l1 := [] } ∧
      ∀ e, e ∈ t.l1 ↔ e ∈ s.l1 ∧ ¬ (2 ≤ c.toNat ∧ e.1 / 2 ^ 80 = (curBlk s).core)) ∧
  (∀ c s, Runs (.fenceAcqrel c) s → active s 0 ≠ 0 → ¬ mayRelease s → heldAt (.fenceAcqrel c) s) ∧
  (∀ c s, Runs (.fenceAcqrel c) s → active s 0 = 0 → idles (.fenceAcqrel c) s) ∧
  (∀ c s, Runs (.fenceSc c) s → active s 0 ≠ 0 → mayRelease s →
    ∃ t, exec (.fenceSc c) s = .next t ∧ places s t (fun _ x => onward s x) ∧ (curWarp t).r = (curWarp s).r ∧ keepsWarp s t ∧
      keepsMemory s t ∧ (∀ k, k ≠ s.iss.wk → warpOf t k = warpOf s k) ∧
      { restOfState t with l1 := [] } = { restOfState s with l1 := [] } ∧
      ∀ e, e ∈ t.l1 ↔ e ∈ s.l1 ∧ ¬ (2 ≤ c.toNat ∧ e.1 / 2 ^ 80 = (curBlk s).core)) ∧
  (∀ c s, Runs (.fenceSc c) s → active s 0 ≠ 0 → ¬ mayRelease s → heldAt (.fenceSc c) s) ∧
  (∀ c s, Runs (.fenceSc c) s → active s 0 = 0 → idles (.fenceSc c) s)) ∧
  ((∀ o k p s, Runs (.cctl o k p) s → active s 0 ≠ 0 → (curWarp s).acquiring = false →
    (p ≠ 1 → ordinaryAccs s k.toNat o.toNat 1 ≠ [] → (segOf s k.toNat).r = true) →
    (p ≠ 1 → ∀ a ∈ ordinaryAccs s k.toNat o.toNat 1, offSegment (segOf s k.toNat) k.toNat a = false) →
    ∃ t, exec (.cctl o k p) s = .next t ∧ places s t (fun _ x => onward s x) ∧ (curWarp t).r = (curWarp s).r ∧
      (undamaged s → keepsMemory s t) ∧ (∀ k, k ≠ s.iss.wk → warpOf t k = warpOf s k) ∧ t.blocks = s.blocks ∧
      changesWarp s t (fun w => { w with rsc := w.rsc + if t.stores.length = s.stores.length then 0 else 1 }) ∧
      (∀ e ∈ s.stores, e ∈ t.stores) ∧ (∀ e ∈ t.stores, e ∈ s.stores ∨ (e.wb = true ∧ e.wk = s.iss.wk)) ∧
      (p.toNat < 4 → t.stores = s.stores) ∧
      (p = 1 → ordinaryAccs s k.toNat o.toNat 1 ≠ [] → ∀ e ∈ t.l1, e.1 / 2 ^ 80 ≠ (curBlk s).core)) ∧
  (∀ o k p s, Runs (.cctl o k p) s → active s 0 ≠ 0 → (curWarp s).acquiring = false → undamaged s →
    (ordinaryAccs s k.toNat o.toNat 1 ≠ [] → (segOf s k.toNat).r = true) →
    (∀ a ∈ ordinaryAccs s k.toNat o.toNat 1, offSegment (segOf s k.toNat) k.toNat a = false) →
    let core := (curBlk s).core
    let line := fun n => ∃ a ∈ ordinaryAccs s k.toNat o.toNat 1, (cctlLine s a).2 = some n
    ∃ t, exec (.cctl o k p) s = .next t ∧
      (p = 0 → ∀ e, e ∈ t.l1 ↔ e ∈ s.l1 ∧ ¬ (e.1 / 2 ^ 80 = core ∧ ∃ n, line n ∧ e.1 % 2 ^ 80 / 4 = n / 128)) ∧
      (p = 2 → t.l1 = s.l1 ∧ ∀ n, line n → isLocal (n + 96) = true → ∀ i, i < 4 → (lfind (n / 32 + i) t.l2).isSome = true) ∧
      (p = 3 → ∀ n, line n → isLocal (n + 96) = true → ∀ i, i < 4 → (lfind (n / 32 + i) t.l2).isSome = true ∧
        (poisoned s (n / 32 + i) = false → lfind (l1Key core (n / 32 + i)) t.l1 =
          some (overStores s core (n / 32 + i) (readBytes s (n + 32 * i) 32))))) ∧
  (∀ o k p s, Runs (.cctl o k p) s → mayTrap s → (curWarp s).acquiring = false → p ≠ 1 →
    ∀ a ∈ ordinaryAccs s k.toNat o.toNat 1, let accs := ordinaryAccs s k.toNat o.toNat 1
    (offSegment (segOf s k.toNat) k.toNat a = true →
      (∀ b ∈ accs, b.lane < a.lane → offSegment (segOf s k.toNat) k.toNat b = false) → trapsAt (.cctl o k p) s 0x06 a.off) ∧
    ((∀ b ∈ accs, offSegment (segOf s k.toNat) k.toNat b = false) → (segOf s k.toNat).r = false →
      (∀ b ∈ accs, a.lane ≤ b.lane) → trapsAt (.cctl o k p) s 0x08 a.va)) ∧
  (∀ o k p s, Runs (.cctl o k p) s → active s 0 ≠ 0 → (curWarp s).acquiring = true → heldAt (.cctl o k p) s) ∧
  (∀ o k p s, Runs (.cctl o k p) s → active s 0 = 0 → idles (.cctl o k p) s) ∧
  (∀ s, Runs .ifence s → active s 0 ≠ 0 →
    ∃ t, exec .ifence s = .next t ∧ places s t (fun _ x => onward s x) ∧ (curWarp t).r = (curWarp s).r ∧ keepsMemory s t ∧
      changesWarp s t (fun w => { w with fetched := [] }) ∧ (∀ k, k ≠ s.iss.wk → warpOf t k = warpOf s k) ∧
      { restOfState t with icache := [] } = { restOfState s with icache := [] } ∧
      ∀ e, e ∈ t.icache ↔ e ∈ s.icache ∧ e.1 / 2 ^ 56 / 64 ≠ (curBlk s).core) ∧
  (∀ s, Runs .ifence s → active s 0 = 0 → idles .ifence s))

/-- R60, R160, R171, R437: a sector of a plain load returns: each access to it takes the bytes that its block reads there;
where none is left, the load is complete and its destinations take the words, lower word first. R60, R437, R446: the
registers that a completed load writes: each lane's words, lower word first; narrow data by its sign; a uniform load writes q
registers. -/
def Obligations.LoadCompletion : Prop :=
  (∀ s wk ld sec, ∀ o ∈ loadOf s wk ld, followLoad s wk o = o → loadReady s wk o sec = true → o.rmw = none → undamaged s →
    (lfind wk s.warps).isSome = true → (linkState s (32 * sec)).unreachable = false → poisoned s sec = false →
    (o.acquire = true ∨ lfind (l1Key (blkOf s (warpOf s wk).bid).core sec) s.l1 = none) →
    (∀ a ∈ o.accs, a.part = 0) → o.exposed = 0 → (blkOf s (warpOf s wk).bid).badLines = [] →
    ((blkOf s (warpOf s wk).bid).cls ≠ 2 ∨ isLocal (32 * sec) = true) →
    let hit := fun (a : Acc) => !a.done && paSector a == some sec
    let fill := fun (a : Acc) =>
      if hit a then { a with data := blockBytes s (warpOf s wk).bid (a.pa.getD 0) a.size, done := true } else a
    ∃ t, exec (.loadSectorReturn wk ld sec) s = .next t ∧ keepsMemory s t ∧ (o.acquire = false → t.blocks = s.blocks) ∧
      (∀ k, k ≠ wk → warpOf t k = warpOf s k) ∧
      (if (o.accs.map fill).all (fun a => a.done) then
        (warpOf t wk).r = loadRegs { o with accs := o.accs.map fill } (warpOf s wk).r ∧
          ∀ p ∈ (warpOf t wk).loads, p.id ≠ ld
      else (warpOf t wk).r = (warpOf s wk).r ∧ ∀ p ∈ loadOf t wk ld, p.accs = o.accs.map fill)) ∧
  ((∀ (o : LoadOp) (a : Acc) r q l, l < 32 → a.lane < 32 → o.uniform = false → o.accs = [a] → a.part = 0 → a.size = o.size → 4 ≤ o.size →
    lget 0 (laneKey q l) (loadRegs o r).w =
      if l = a.lane ∧ o.dst ≤ q ∧ q < o.dst + o.size / 4 then BitVec.ofNat 32 (leNat a.data / 2 ^ (32 * (q - o.dst)))
      else lget 0 (laneKey q l) r.w) ∧
  (∀ (o : LoadOp) (a : Acc) r q l, l < 32 → a.lane < 32 → o.uniform = false → o.accs = [a] → a.part = 0 → (o.size = 1 ∨ o.size = 2) →
    leNat a.data < 2 ^ (8 * o.size) →
    lget 0 (laneKey q l) (loadRegs o r).w =
      if l = a.lane ∧ q = o.dst then
        (if o.signed then (BitVec.ofNat (8 * o.size) (leNat a.data)).signExtend 32 else BitVec.ofNat 32 (leNat a.data))
      else lget 0 (laneKey q l) r.w) ∧
  (∀ (o : LoadOp) (a : Acc) r q, o.uniform = true → o.accs = [a] → a.part = 0 → a.size = o.size → 4 ≤ o.size →
    lget 0 q (loadRegs o r).q =
      if o.dst ≤ q ∧ q < o.dst + o.size / 4 then BitVec.ofNat 32 (leNat a.data / 2 ^ (32 * (q - o.dst))) else lget 0 q r.q))

/-- R176, R187: an atomic of one lane, performed at its sector: it returns the old value, memory takes the new one, and every
other byte is as it was. R160, R181, R182, R192: a store is performed at its sector and acknowledged: its bytes are written,
the highest lane's remaining; every other byte is as it was, and the release store count falls by its sectors. R176, R482: a
reduction of one lane at its sector. -/
def Obligations.PerformedAtHome : Prop :=
  (∀ s wk ld sec, ∀ o ∈ loadOf s wk ld, ∀ op ∈ o.rmw, followLoad s wk o = o → loadReady s wk o sec = true → undamaged s →
    (lfind wk s.warps).isSome = true → (linkState s (32 * sec)).unreachable = false → poisoned s sec = false →
    (blkOf s (warpOf s wk).bid).cls ≠ 2 → (blkOf s (warpOf s wk).bid).badLines = [] → o.exposed = 0 →
    lfind sec s.resvs = none →
    (∀ x ∈ lfind (o.accs.headD { lane := 0, off := 0, va := 0, size := 1 }).lane (warpOf s wk).lanes, x.helper = false) →
    o.accs.length = 1 → ∀ a ∈ o.accs, ∀ p ∈ a.pa, p % 32 + a.size ≤ 32 → (a.size = 4 ∨ a.size = 8) →
    let old := leNat (blockBytes s (warpOf s wk).bid p a.size)
    let new := leBytes a.size (rmwNew op (8 * a.size) old (leNat a.data) (lget 0 a.lane o.cmp)).1
    ∃ t, exec (.loadSectorReturn wk ld sec) s = .next t ∧
      (∀ k, readByte t k = if p ≤ k ∧ k < p + a.size then new.getD (k - p) 0 else readByte s k) ∧
      (warpOf t wk).r = loadRegs { o with accs := [{ a with data := leBytes a.size old, done := true }] } (warpOf s wk).r ∧
      (warpOf t wk).rsc = (warpOf s wk).rsc - 1 ∧ ∀ p ∈ (warpOf t wk).loads, p.id ≠ ld) ∧
  (∀ s id, ∀ o ∈ s.stores.find? (fun t => t.id == id), o.wb = false → o.rmw = none → o.vpn = 0 → storeReady s o = true → undamaged s →
    (blkOf s o.bid).cls ≠ 2 → (lfind o.wk s.warps).isSome = true → o.exposed = 0 →
    (∀ u ∈ s.stores, u.id ≠ id → sameCount o u = false) →
    let sec := (o.accs.head?.bind paSector).getD 0
    (∀ r ∈ lfind sec s.resvs, r = o.bid) → (linkState s (32 * sec)).unreachable = false → (∀ a ∈ o.accs, ∃ p ∈ a.pa, p / 32 = sec ∧ p % 32 + a.size ≤ 32) →
    ∃ t, exec (.storeAck id) s = .next t ∧
      (∀ k, readByte t k =
        match (o.accs.filter fun a => decide (a.pa.getD 0 ≤ k) && decide (k < a.pa.getD 0 + a.size)).getLast? with
        | some a => a.data.getD (k - a.pa.getD 0) 0
        | none => readByte s k) ∧
      (∀ p ∈ t.stores, p.id ≠ id) ∧ (warpOf t o.wk).rsc = (warpOf s o.wk).rsc - (sectorsOf o.accs).length ∧
      (warpOf t o.wk).r = (warpOf s o.wk).r ∧ t.blocks = s.blocks ∧ ∀ k, k ≠ o.wk → warpOf t k = warpOf s k) ∧
  (∀ s id, ∀ o ∈ s.stores.find? (fun t => t.id == id), ∀ op ∈ o.rmw, o.wb = false → o.vpn = 0 → storeReady s o = true → undamaged s →
    (blkOf s o.bid).cls ≠ 2 → (blkOf s o.bid).badLines = [] → (lfind o.wk s.warps).isSome = true → o.exposed = 0 → o.accs.length = 1 → ∀ a ∈ o.accs, ∀ p ∈ a.pa,
    p % 32 + a.size ≤ 32 → (a.size = 4 ∨ a.size = 8) → (linkState s (32 * (p / 32))).unreachable = false →
    poisoned s (p / 32) = false → lfind (p / 32) s.resvs = none →
    let new := leBytes a.size (rmwNew op (8 * a.size) (leNat (blockBytes s o.bid p a.size)) (leNat a.data) 0).1
    ∃ t, exec (.storeAck id) s = .next t ∧
      (∀ k, readByte t k = if p ≤ k ∧ k < p + a.size then new.getD (k - p) 0 else readByte s k) ∧
      (∀ p ∈ t.stores, p.id ≠ id) ∧ (warpOf t o.wk).r = (warpOf s o.wk).r)

/-- R171, R174, R181: once the page of waiting accesses is mapped and its fault is gone, a repeated walk binds a load's
accesses and releases its lanes, and a side-log entry replays to its sectors. R172, R175: the host's answer ends a fault; an
unresolvable one loses the side-log entries that wait for it. R170: a light fault that the device has served stands no more,
and changes no warp and no block. -/
def Obligations.AnsweredPages : Prop :=
  ((∀ s wk, ∀ o ∈ (warpOf s wk).loads.head?, ∀ a ∈ o.accs.head?, s.warps = [(wk, warpOf s wk)] → (warpOf s wk).loads = [o] →
    o.accs = [a] → a.lane < 32 → a.wait ≠ 0 → faultWaits s a.wait = false → o.uniform = false →
    let b := blkOf s (warpOf s wk).bid
    let r := reach b.core b.ctx (revOf s (warpOf s wk).bid) ((gridOf s b.gid).segs.getD o.seg {})
      (if o.rmw.isSome then .readWrite else .read) (if o.rmw.isSome then 2 else 0) a.va s
    ∀ p v, r.2 = .at p v →
    ∃ t, exec (.pageWalkComplete b.core b.ctx (revOf s (warpOf s wk).bid) a.va) s = .next t ∧
      ((warpOf t wk).loads.map fun q => q.accs) = [halves { a with wait := 0, vpn := v, pa := some p }] ∧
      ∀ l, l < 32 → lfind l (warpOf t wk).lanes = (lfind l (warpOf s wk).lanes).map fun x =>
        if l = a.lane ∧ x.hold = .load o.id then releaseLane 0 x else x) ∧
  (∀ s id, ∀ e ∈ s.side.find? (fun e => e.id == id), replayReady s e = true →
    let va := headVa e.accs
    let r := reach e.core e.ctx e.rev e.seg (if e.rmw.isSome then .readWrite else .write) (if e.rmw.isSome then 2 else 1) va s
    ∀ p v, r.2 = .at p v →
    ∃ t, exec (.sideLogReplay id) s = .next t ∧ (∀ x ∈ t.side, x.id ≠ id) ∧ (undamaged s → keepsMemory s t) ∧
      ∀ a ∈ e.accs, ∀ b ∈ halves { a with pa := some (p - va % 4096 + a.va % 4096) }, ∃ o ∈ t.stores, o.wk = e.wk ∧ o.seq = e.id ∧ b ∈ o.accs)) ∧
  (∀ s ctx v, ∀ f ∈ s.faults.find? (fun f => f.ctx == ctx && decide (f.kind ≤ 5) && !f.dead && f.seq == v.toNat % 2 ^ 32),
    (v.getLsbD 32 = false → ∃ t, exec (.faultResolve ctx v) s = .next t ∧ t.faults = s.faults.filter (fun x => x.key != f.key) ∧
      t = (fun x : State => { x with faults := t.faults }) s) ∧
    (v.getLsbD 32 = true → f.core ≠ 255 → f.own = false → (∀ e ∈ s.side, (blkOf s e.bid).cls ≠ 2) →
      (∀ e ∈ s.side, (warpOf s e.wk).bid = e.bid) → (∀ e ∈ s.side, (handlerOf s e.bid).isSome = true) →
      ∃ t, exec (.faultResolve ctx v) s = .next t ∧ (∀ x ∈ t.faults, x.key ≠ f.key) ∧ keepsMemory s t)) ∧
  (∀ s ctx va, (s.faults.any fun f => f.ctx == ctx && f.vpn == va / 4096 && f.kind == 8) = true →
    ∃ t, exec (.lightFault ctx va) s = .next t ∧
      (∀ f ∈ t.faults, ¬ (f.ctx = ctx ∧ f.vpn = va / 4096 ∧ f.kind = 8)) ∧ t.warps = s.warps ∧ t.blocks = s.blocks)

/-- R160, R168: writing a line back changes no byte that a program reads where no frame is tracked; an evicted line, whose
clean sectors hold what memory holds, leaves the second-level cache. R179: a link enters recovery, leaves it before 50 ms
have passed, is lost once they have, and is restored by the host. -/
def Obligations.LinesAndLinks : Prop :=
  (∀ s line evict, 128 * line < 2 ^ 64 → undamaged s → (∀ i, i < 4 → poisoned s (4 * line + i) = false) → (∀ i, i < 4 → tracked s (32 * (4 * line + i)) = false) →
    (evict = true → ∀ i, i < 4 → ∀ e ∈ lfind (4 * line + i) s.l2, e.dirty = false → ∀ j, j < 32 →
      e.data.getD j 0 = lget 0 (32 * (4 * line + i) + j) s.mem) →
    ∃ t, exec (.l2LineWriteback line evict) s = .next t ∧ keepsMemory s t ∧ t.warps = s.warps ∧ t.blocks = s.blocks ∧
      (evict = false → ∀ i, i < 4 → ∀ e ∈ lfind (4 * line + i) t.l2, e.dirty = false) ∧
      (evict = true → ∀ e ∈ t.l2, e.1 / 4 ≠ line)) ∧
  ((∀ s n, (lget {} n s.links).recovery = none → (lget {} n s.links).unreachable = false →
    ∃ t, exec (.linkRecoveryStart n) s = .next t ∧ (lget {} n t.links).recovery = some (timeOf s) ∧
      (lget {} n t.links).unreachable = false ∧ onlyLink n s t) ∧
  (∀ s n, ∀ u ∈ (lget {} n s.links).recovery, (lget {} n s.links).unreachable = false → timeOf s < u + 50000000 →
    ∃ t, exec (.linkRecoveryEnd n) s = .next t ∧ lget {} n t.links = {} ∧ onlyLink n s t) ∧
  (∀ s n, ∀ u ∈ (lget {} n s.links).recovery, u + 50000000 ≤ timeOf s →
    ∃ t, exec (.peerUnreachable n) s = .next t ∧ (lget {} n t.links).unreachable = true ∧ onlyLink n s t) ∧
  (∀ s n, ∃ t, exec (.linkRestore n) s = .next t ∧ lget {} n t.links = {} ∧ onlyLink n s t))

/-- R148, R495, R496: TDESC describes an empty tile and clears its marks, waits for a busy one and traps on a ready one or a
geometry that does not fit; TSTATE reads word 2 of an entry; TREL empties a ready tile once it has no reader; MSCL and MSTAT
set the scales of the block and read and clear a tile's marks. -/
def Obligations.TileInstructions : Prop :=
  (∀ t a s, Runs (.tdesc t a) s → active s 0 ≠ 0 →
    let w0 := readQ s a.toNat
    let w1 := readQ s (a.toNat + 1)
    let x := tileAt (curBlk s) t.toNat
    (geoOf w0 w1).sp < 5 → w0 &&& 3 = 0 → w1 &&& 15 = 0 →
    (t.toNat < (curBlk s).tilesN → geometryOk (curBlk s) (geoOf w0 w1) = true → x.state ≠ 2 → tileBusy (curBlk s) t.toNat = false →
      doneBlk (.tdesc t a) s fun b => withTile b t.toNat { w0 := w0, w1 := w1, state := x.state, rdcnt := x.rdcnt }) ∧
    (t.toNat < (curBlk s).tilesN → geometryOk (curBlk s) (geoOf w0 w1) = true → tileBusy (curBlk s) t.toNat = true →
      heldAt (.tdesc t a) s) ∧
    (mayTrap s → ((curBlk s).tilesN ≤ t.toNat ∨ geometryOk (curBlk s) (geoOf w0 w1) = false ∨ x.state = 2) →
      trapsAt (.tdesc t a) s 0x0B 0)) ∧
  (∀ t a s, Runs (.tdesc t a) s → active s 0 ≠ 0 → mayTrap s →
    (5 ≤ (geoOf (readQ s a.toNat) (readQ s (a.toNat + 1))).sp ∨ readQ s a.toNat &&& 3 ≠ 0 ∨ readQ s (a.toNat + 1) &&& 15 ≠ 0) →
    trapsAt (.tdesc t a) s 0x01 0) ∧
  (∀ d t s, Runs (.tstate d t) s → t.toNat < (curBlk s).tilesN →
    let x := tileAt (curBlk s) t.toNat
    doneQ (.tstate d t) s 0 d.toNat (BitVec.ofNat 32 (x.satcnt * 2 ^ 16 + (if x.nan then 2 ^ 15 else 0) +
      (if x.err then 2 ^ 14 else 0) + x.state * 2 ^ 12 + (curBlk s).slot % 64 * 2 ^ 6 + x.rdcnt * 2 ^ 2))) ∧
  (∀ t s, Runs (.trel t) s → active s 0 ≠ 0 → tileKnown (curBlk s) t.toNat = true →
    let x := tileAt (curBlk s) t.toNat
    (x.state = 2 → x.rdcnt = 0 → doneBlk (.trel t) s fun b => withTile b t.toNat { x with state := 0 }) ∧
    (x.state = 0 → doneBlk (.trel t) s fun b => b) ∧
    (tileBusy (curBlk s) t.toNat = true ∨ (x.state = 2 ∧ x.rdcnt ≠ 0) → heldAt (.trel t) s)) ∧
  (∀ t s, Runs (.trel t) s → active s 0 ≠ 0 → mayTrap s → tileKnown (curBlk s) t.toNat = false → trapsAt (.trel t) s 0x0B 0) ∧
  (∀ a b s, Runs (.mscl a b) s → active s 0 ≠ 0 →
    doneBlk (.mscl a b) s fun x => { x with tA := readQ s a.toNat, tB := readQ s b.toNat }) ∧
  (∀ d m t s, Runs (.mstat d m t) s → active s 0 ≠ 0 → tileKnown (curBlk s) t.toNat = true →
    let x := tileAt (curBlk s) t.toNat
    let v := BitVec.ofNat 32 (x.satcnt * 2 ^ 16 + (if x.nan then 2 ^ 15 else 0) + (if x.err then 2 ^ 14 else 0))
    x.state = 2 →
      ∃ u, exec (.mstat d m t) s = .next u ∧ movedOn s u ∧ setsQ s u 0 d.toNat v ∧ keepsWarp s u ∧
        changesBlk s u fun b => if m = 1 then withTile b t.toNat { x with satcnt := 0, nan := false } else b) ∧
  (∀ d m t s, Runs (.mstat d m t) s → active s 0 ≠ 0 → mayTrap s →
    (tileKnown (curBlk s) t.toNat = false ∨ (tileAt (curBlk s) t.toNat).state = 0) → trapsAt (.mstat d m t) s 0x0B 0) ∧
  (∀ d m t s, Runs (.mstat d m t) s → active s 0 ≠ 0 → tileKnown (curBlk s) t.toNat = true → tileBusy (curBlk s) t.toNat = true →
    heldAt (.mstat d m t) s) ∧
  (∀ d t s, Runs (.tstate d t) s → active s 0 ≠ 0 → mayTrap s → (curBlk s).tilesN ≤ t.toNat → trapsAt (.tstate d t) s 0x0B 0) ∧
  (∀ t a s, Runs (.tdesc t a) s → active s 0 = 0 → idles (.tdesc t a) s) ∧
  (∀ d t s, Runs (.tstate d t) s → active s 0 = 0 → idles (.tstate d t) s) ∧
  (∀ t s, Runs (.trel t) s → active s 0 = 0 → idles (.trel t) s) ∧
  (∀ a b s, Runs (.mscl a b) s → active s 0 = 0 → idles (.mscl a b) s) ∧
  (∀ d m t s, Runs (.mstat d m t) s → active s 0 = 0 → idles (.mstat d m t) s)

/-- R53, R116, R119, R120, R125, R126, R127: MIDX, MCLR and MLOOP issue an operation where nothing holds it, trap on operands
that R116, R119 or R125 refuse, and are held at issue where the queue, the counter or a lock leaves no room. -/
def Obligations.MatrixIssue : Prop :=
  (∀ a b sel s, Runs (.midx a b sel) s → active s 0 ≠ 0 →
    let lo := (readQ s a.toNat).toNat
    let n := (readQ s b.toNat).toNat
    let rs : List Range := [{ core := (curBlk s).core, bid := s.iss.bid, space := 0, lo := lo, hi := lo + 2 * n, write := false }]
    (1 ≤ n → n ≤ 512 → lo % 2 = 0 → lo + 2 * n ≤ (curBlk s).alloc.getD 0 0 →
      (matrixHeld (counterOf sel s) rs s = false →
        issuesMatrix (.midx a b sel) s (counterOf sel s) rs fun m t =>
          m.kind = .midx ∧ m.a = lo ∧ m.b = n ∧ t.blocks = s.blocks) ∧
      (matrixHeld (counterOf sel s) rs s = true → heldAt (.midx a b sel) s)) ∧
    (mayTrap s → (n = 0 ∨ 512 < n) → trapsAt (.midx a b sel) s 0x01 0) ∧
    (mayTrap s → 1 ≤ n → n ≤ 512 → lo % 2 = 1 → trapsAt (.midx a b sel) s 0x05 lo) ∧
    (mayTrap s → 1 ≤ n → n ≤ 512 → lo % 2 = 0 → (curBlk s).alloc.getD 0 0 < lo + 2 * n → trapsAt (.midx a b sel) s 0x06 lo)) ∧
  (∀ t sel s, Runs (.mclr t sel) s → active s 0 ≠ 0 →
    let g := geoAt (curBlk s) t.toNat
    let rs := [tileRange s s.iss.bid t.toNat true]
    (tileKnown (curBlk s) t.toNat = true → g.sp = 3 → g.fmt = 2 →
      (tileBusy (curBlk s) t.toNat = false → matrixHeld (counterOf sel s) rs s = false →
        issuesMatrix (.mclr t sel) s (counterOf sel s) rs fun m u =>
          m.kind = .mclr ∧ m.a = t.toNat ∧ (∀ k, k ≠ s.iss.bid → blkOf u k = blkOf s k) ∧
            ∀ k, tileAt (curBlk u) k = if k = t.toNat then { tileAt (curBlk s) k with state := 1 } else tileAt (curBlk s) k) ∧
      (tileBusy (curBlk s) t.toNat = true → heldAt (.mclr t sel) s)) ∧
    (mayTrap s → (tileKnown (curBlk s) t.toNat = false ∨ g.sp ≠ 3 ∨ g.fmt ≠ 2) → trapsAt (.mclr t sel) s 0x0B 0)) ∧
  (∀ q sel s, Runs (.mloop q sel) s → active s 0 ≠ 0 →
    let ws := (List.range 4).map fun i => readQ s (q.toNat + i)
    let d := loopDesc ws
    let ms := loopMembers d s.iss.bid s
    let rs := loopRanges d ms s
    (loopFieldsOk ws (curGrid s).pkt.pod = true → membersThere d ms = true → ms.Nodup → (∀ m ∈ ms, loopTilesOk d (blkOf s m) = true) →
      (∀ m ∈ ms, loopTileHeld d (blkOf s m) = false) → matrixHeld (counterOf sel s) rs s = false →
      issuesMatrix (.mloop q sel) s (counterOf sel s) rs fun m u =>
        m.kind = .mloop ∧ m.desc = ws ∧ m.members = ms ∧ (d.pod = false → ms = [s.iss.bid]) ∧ (∀ k, k ∉ ms → blkOf u k = blkOf s k) ∧
          ∀ b ∈ ms, ∀ k, (tileAt (blkOf u b) k).rdcnt = (tileAt (blkOf s b) k).rdcnt + ((loopReads d).filter (· == k)).length ∧
            (tileAt (blkOf u b) k).state = if k = d.c then 1 else (tileAt (blkOf s b) k).state) ∧
    (loopFieldsOk ws (curGrid s).pkt.pod = true → membersThere d ms = true → (∀ m ∈ ms, loopTilesOk d (blkOf s m) = true) →
      ((∃ m ∈ ms, loopTileHeld d (blkOf s m) = true) ∨ matrixHeld (counterOf sel s) rs s = true) →
      heldAt (.mloop q sel) s) ∧
    (mayTrap s → loopFieldsOk ws (curGrid s).pkt.pod = false → trapsAt (.mloop q sel) s 0x01 0) ∧
    (mayTrap s → loopFieldsOk ws (curGrid s).pkt.pod = true → (membersThere d ms = false ∨ ∃ m ∈ ms, loopTilesOk d (blkOf s m) = false) →
      trapsAt (.mloop q sel) s 0x0B 0)) ∧
  (∀ a b sel s, Runs (.midx a b sel) s → active s 0 = 0 → countsOnly (.midx a b sel) (counterOf sel s) s) ∧
  (∀ t sel s, Runs (.mclr t sel) s → active s 0 = 0 → countsOnly (.mclr t sel) (counterOf sel s) s) ∧
  (∀ q sel s, Runs (.mloop q sel) s → active s 0 = 0 → countsOnly (.mloop q sel) (counterOf sel s) s)

/-- R54, R116, R125, R126: a matrix unit takes the operation at the head of its queue; MIDX latches its indices and MCLR
fills its tile with 0x40000000; each frees its ranges and lowers its counter. R54, R130, R131, R133: a loop with ntrap that
meets a NaN ends with error status 0x0D on its counter, the place in sr.mnan where bit 36 was clear, and err in the C tile;
the address of the trap to come is sampled from sr.mnan at the stop (the model's choice, log 43). -/
def Obligations.MatrixUnit : Prop :=
  ((∀ s core, ∀ op ∈ s.mats.find? (fun m => m.core == core), op.started = false → matrixNext s op = true →
    ∃ t, exec (.matrixOpStart core) s = .next t ∧
      t.mats = s.mats.map (fun m => if m.id = op.id then { m with started := true } else m) ∧
      t = (fun x : State => { x with mats := t.mats }) s) ∧
  (∀ s core, ∀ op ∈ matrixRunning s core .midx, (blkOf s op.bid).bad = [] →
    ∃ t, exec (.midxComplete core) s = .next t ∧ endsMatrix op s t ∧
      (∀ b, b ≠ op.bid → blkOf t b = blkOf s b) ∧
      ((lfind op.bid s.blocks).isSome = true →
        (blkOf t op.bid).ls = (blkOf s op.bid).ls ∧ (blkOf t op.bid).tiles = (blkOf s op.bid).tiles ∧
        ∀ j, lget 0 j (blkOf t op.bid).latch =
          if j < op.b then leNat (storeBytes (blkOf s op.bid) 0 (op.a + 2 * j) 2) else lget 0 j (blkOf s op.bid).latch)) ∧
  (∀ s core, ∀ op ∈ matrixRunning s core .mclr, (lfind op.bid s.blocks).isSome = true → (blkOf s op.bid).cls ≠ 2 →
    let g := geoAt (blkOf s op.bid) op.a
    4 * g.cols ≤ g.pitch → g.base + g.rows * g.pitch ≤ 2 ^ 20 → g.fmt = 2 →
    ∃ t, exec (.mclrComplete core) s = .next t ∧ endsMatrix op s t ∧ (∀ b, b ≠ op.bid → blkOf t b = blkOf s b) ∧
      (∀ i j, i < g.rows → j < g.cols → elemAt (blkOf t op.bid) g i j = 0x40000000) ∧
      (∀ sp a, a < 2 ^ 20 → outsideTile g sp a → lget 0 (storeKey sp a) (blkOf t op.bid).ls = lget 0 (storeKey sp a) (blkOf s op.bid).ls) ∧
      ∀ k, tileAt (blkOf t op.bid) k = if k = op.a then
        { tileAt (blkOf s op.bid) k with state := 2, satcnt := 0, nan := false, err := false } else tileAt (blkOf s op.bid) k)) ∧
  (∀ s core, ∀ op ∈ matrixRunning s core .mloop, op.members = [op.bid] → (lfind op.bid s.blocks).isSome = true →
    (lfind op.wk s.warps).isSome = true → (warpOf s op.wk).bid = op.bid → blockEnded s op.bid = false → (blkOf s op.bid).bad = [] →
    (blkOf s op.bid).cls ≠ 2 → op.prog = [] → op.struck = [] →
    let b := blkOf s op.bid
    let d := loopDesc op.desc
    d.pod = false → ∀ p ∈ (memberLoop op op.bid b.latch b).p.stop,
    ∃ t, exec (.mloopNanStop core) s = .next t ∧ endsMatrix op s t ∧
      (warpOf t op.wk).mnan = (if (warpOf s op.wk).mnan.getLsbD 36 then (warpOf s op.wk).mnan else BitVec.ofNat 64
        (2 ^ 36 + d.c % 64 * 2 ^ 27 + p.1 % 512 * 2 ^ 18 + p.2.1 % 64 * 2 ^ 12 + p.2.2 % 4096)) ∧
      (lfind op.cnt (warpOf s op.wk).cerr = none → lfind op.cnt (warpOf t op.wk).cerr =
        some (0x0D, ((warpOf t op.wk).mnan.setWidth 32).toNat)) ∧
      (tileAt (blkOf t op.bid) d.c).err = true ∧ (tileAt (blkOf t op.bid) d.c).state = 2)

/-- R121 to R125, R129: a loop of one block leaves in each element of its C tile the value of its steps in order, the block's
other bytes as they were, the C tile ready and one reader less at each operand. -/
def Obligations.MatrixProduct : Prop :=
  ∀ s core, ∀ op ∈ matrixRunning s core .mloop, op.members = [op.bid] → (lfind op.bid s.blocks).isSome = true →
    (blkOf s op.bid).cls ≠ 2 → (blkOf s op.bid).bad = [] → op.prog = [] → op.struck = [] →
    let b := blkOf s op.bid
    let d := loopDesc op.desc
    let g := geoAt b d.c
    d.ntrap = false → loopTilesOk d b = true → geometryOk b g = true → b.alloc.getD 3 0 ≤ 2 ^ 20 →
    ∃ t, exec (.mloopComplete core) s = .next t ∧ endsMatrix op s t ∧ (∀ k, k ≠ op.bid → blkOf t k = blkOf s k) ∧
      (∀ i j, i < g.rows → j < g.cols → elemAt (blkOf t op.bid) g i j = lcode fL32 (loopValue op b i j)) ∧
      (∀ sp a, a < 2 ^ 20 → outsideTile g sp a → lget 0 (storeKey sp a) (blkOf t op.bid).ls = lget 0 (storeKey sp a) b.ls) ∧
      (∀ k, (tileAt (blkOf t op.bid) k).rdcnt = (tileAt b k).rdcnt - ((loopReads d).filter (· == k)).length) ∧
      (tileAt (blkOf t op.bid) d.c).state = 2 ∧ (tileAt (blkOf t op.bid) d.c).err = false

/-- R53, R209, R210, R215, R401 to R404, R412: CPYIN, CPYOUT, CPYX and CPYP issue a copy where their checks pass, or are held
by their tiles, their queue or their ranges; HBIND issues its binding, or is held; they trap on a descriptor, a handle, a
path or tiles that R210 refuses; while an HBIND of the block is in flight, a copy on a bound path is held before any check.
Whether a side of a CPYP lies in peer memory is judged from the pages mapped at issue, and an HBIND's ranges are those of the
graph entry and of the image that it names at issue (the model's choices, log 44). R233, R413: HSTAT reads the Huller status
word, and clears its v on demand, or the binding word; an error reported in a cycle stands in the word from its end on, where
v is then clear. -/
def Obligations.CopyIssue : Prop :=
  ((∀ q sel s, Runs (.cpyin q sel) s → active s 0 ≠ 0 →
    let ws := (List.range 8).map fun i => readQ s (q.toNat + i)
    let d := copyDesc ws
    descOk .cpyin ws (curGrid s).pkt.pod = true → ∀ x ∈ tensorRead s (ws.getD 0 0).toNat,
    (8 ≤ d.path → bindingInFlight s s.iss.bid = false ∧ boundPort s s.iss.bid d.path = true) →
    ∀ ms ∈ copyMembers .cpyin d s.iss.bid s, tilesPass .cpyin d x.1 {} (some ms) s.iss.bid s = true →
    (x.1.fmt = 14 → headerFound (readTensor (curBlk s).ctx (ws.getD 0 0).toNat s).1 x.1 (d.org.headD 0) = true) →
    (d.gat = true → d.aux % 4 = 0 ∧
      d.aux + 4 * (geoAt (blkOf s (ms.headD s.iss.bid)) d.tile).rows ≤ (curBlk s).alloc.getD 0 0) →
    let rs := copyRanges .cpyin d x.1 {} x.2 ms s.iss.bid s
    (copyTileHeld .cpyin d ms s = true ∨ copyHeld (counterOf sel s) d.queue rs s = true → heldAt (.cpyin q sel) s) ∧
    (copyTileHeld .cpyin d ms s = false → copyHeld (counterOf sel s) d.queue rs s = false →
      issuesCopy (.cpyin q sel) s (counterOf sel s) rs fun m t =>
        m.kind = .cpyin ∧ m.queue = d.queue ∧ m.desc = ws ∧ m.src = x.1 ∧ m.scaleT = x.2 ∧ m.members = ms ∧ tilesClaimed .cpyin d ms s t)) ∧
  (∀ q sel s, Runs (.cpyout q sel) s → active s 0 ≠ 0 →
    let ws := (List.range 8).map fun i => readQ s (q.toNat + i)
    let d := copyDesc ws
    descOk .cpyout ws (curGrid s).pkt.pod = true → ∀ x ∈ tensorRead s (ws.getD 0 0).toNat,
    (8 ≤ d.path → bindingInFlight s s.iss.bid = false ∧ boundPort s s.iss.bid d.path = true) →
    tilesPass .cpyout d {} x.1 (some []) s.iss.bid s = true →
    let rs := copyRanges .cpyout d {} x.1 x.2 [] s.iss.bid s
    (copyTileHeld .cpyout d [] s = true ∨ copyHeld (counterOf sel s) d.queue rs s = true → heldAt (.cpyout q sel) s) ∧
    (copyTileHeld .cpyout d [] s = false → copyHeld (counterOf sel s) d.queue rs s = false →
      issuesCopy (.cpyout q sel) s (counterOf sel s) rs fun m t =>
        m.kind = .cpyout ∧ m.queue = d.queue ∧ m.desc = ws ∧ m.dst = x.1 ∧ m.members = [] ∧ tilesClaimed .cpyout d [] s t)) ∧
  (∀ q sel s, Runs (.cpyx q sel) s → active s 0 ≠ 0 →
    let ws := (List.range 8).map fun i => readQ s (q.toNat + i)
    let d := copyDesc ws
    descOk .cpyx ws (curGrid s).pkt.pod = true →
    ∀ ms ∈ copyMembers .cpyx d s.iss.bid s, tilesPass .cpyx d {} {} (some ms) s.iss.bid s = true →
    let rs := copyRanges .cpyx d {} {} none ms s.iss.bid s
    (copyTileHeld .cpyx d ms s = true ∨ copyHeld (counterOf sel s) d.queue rs s = true → heldAt (.cpyx q sel) s) ∧
    (copyTileHeld .cpyx d ms s = false → copyHeld (counterOf sel s) d.queue rs s = false →
      issuesCopy (.cpyx q sel) s (counterOf sel s) rs fun m t =>
        m.kind = .cpyx ∧ m.queue = d.queue ∧ m.desc = ws ∧ m.members = ms ∧ tilesClaimed .cpyx d ms s t)) ∧
  (∀ q sel s, Runs (.cpyp q sel) s → active s 0 ≠ 0 →
    let ws := (List.range 8).map fun i => readQ s (q.toNat + i)
    let d := copyDesc ws
    descOk .cpyp ws (curGrid s).pkt.pod = true →
    let r := readTensor (curBlk s).ctx (ws.getD 0 0).toNat s
    let v := readTensor (curBlk s).ctx (ws.getD 7 0).toNat r.1
    ∀ x y, r.2.1 = .ok x → v.2.1 = .ok y → tilesPass .cpyp d x y (some []) s.iss.bid s = true →
    let rs := copyRanges .cpyp d x y r.2.2 [] s.iss.bid s
    (peerClassBad s.iss.bid x v.1 = true ∨ peerClassBad s.iss.bid y v.1 = true → mayTrap s →
      (handlerOf s s.iss.bid).isSome = true → takesCause (.cpyp q sel) s 0x0B 0) ∧
    (peerClassBad s.iss.bid x v.1 = false → peerClassBad s.iss.bid y v.1 = false →
      (copyHeld (counterOf sel s) d.queue rs s = true → heldAt (.cpyp q sel) s) ∧
      (copyHeld (counterOf sel s) d.queue rs s = false →
        issuesCopy (.cpyp q sel) s (counterOf sel s) rs fun m t =>
          m.kind = .cpyp ∧ m.queue = d.queue ∧ m.desc = ws ∧ m.src = x ∧ m.dst = y ∧ m.members = [] ∧ t.blocks = s.blocks))) ∧
  (∀ x n sel s, Runs (.hbind x n sel) s → active s 0 ≠ 0 →
    let idx := if n = 1 then none else some (readQ s x.toNat).toNat
    let rs := bindRanges s.iss.bid idx s
    (copyHeld (counterOf sel s) 3 rs s = true → heldAt (.hbind x n sel) s) ∧
    (copyHeld (counterOf sel s) 3 rs s = false → issuesCopy (.hbind x n sel) s (counterOf sel s) rs fun m t =>
      m.kind = .hbind ∧ m.queue = 3 ∧ m.graph = idx ∧ t.blocks = s.blocks)) ∧
  (∀ q sel s, ∀ e ∈ ([(.cpyin q sel, .cpyin), (.cpyout q sel, .cpyout), (.cpyx q sel, .cpyx), (.cpyp q sel, .cpyp)] : List (Instr × CopyKind)),
    Runs e.1 s → active s 0 ≠ 0 →
    let ws := (List.range 8).map fun i => readQ s (q.toNat + i)
    let d := copyDesc ws
    let bound := decide (8 ≤ d.path) && bindingInFlight s s.iss.bid
    (bound = true → heldAt e.1 s) ∧
    (bound = false → mayTrap s → (handlerOf s s.iss.bid).isSome = true →
      (descOk e.2 ws (curGrid s).pkt.pod = false → trapsAt e.1 s 0x01 0) ∧
      (descOk e.2 ws (curGrid s).pkt.pod = true →
        (e.2 ≠ .cpyx → (readTensor (curBlk s).ctx (ws.getD 0 0).toNat s).2.1 = .bad → takesCause e.1 s 0x0A (ws.getD 0 0).toNat) ∧
        (8 ≤ d.path → boundPort s s.iss.bid d.path = false → e.2 ≠ .cpyp →
          (e.2 = .cpyx ∨ (tensorRead s (ws.getD 0 0).toNat).isSome = true) → takesCause e.1 s 0x25 0) ∧
        (e.2 = .cpyx → d.path < 8 → tilesPass .cpyx d {} {} (copyMembers .cpyx d s.iss.bid s) s.iss.bid s = false →
          trapsAt e.1 s 0x0B 0)))) ∧
  (∀ q sel s, Runs (.cpyin q sel) s → active s 0 = 0 → countsOnly (.cpyin q sel) (counterOf sel s) s) ∧
  (∀ q sel s, Runs (.cpyout q sel) s → active s 0 = 0 → countsOnly (.cpyout q sel) (counterOf sel s) s) ∧
  (∀ q sel s, Runs (.cpyx q sel) s → active s 0 = 0 → countsOnly (.cpyx q sel) (counterOf sel s) s) ∧
  (∀ q sel s, Runs (.cpyp q sel) s → active s 0 = 0 → countsOnly (.cpyp q sel) (counterOf sel s) s) ∧
  (∀ x n sel s, Runs (.hbind x n sel) s → active s 0 = 0 → countsOnly (.hbind x n sel) (counterOf sel s) s)) ∧
  ((∀ d clr s, Runs (.hstat d 0 clr) s → active s 0 ≠ 0 →
    ∃ t, exec (.hstat d 0 clr) s = .next t ∧ movedOn s t ∧ setsQ s t 0 d.toNat (curBlk s).hstat ∧ keepsWarp s t ∧
      changesBlk s t fun b => if clr = 1 then { b with hstat := b.hstat &&& 0x7FFFFFFF } else b) ∧
  (∀ d sel clr s, Runs (.hstat d sel clr) s → active s 0 = 0 → idles (.hstat d sel clr) s) ∧
  (∀ d s, Runs (.hstat d 1 0) s → doneQ (.hstat d 1 0) s 0 d.toNat (match (curBlk s).bind with
    | some i => BitVec.ofNat 32 (2 ^ 31 + (match fabOf s s.iss.bid with | some e => e.1 % 4 * 2 ^ 29 | none => 0) + i % 2 ^ 16)
    | none => 0)) ∧
  (∀ d sel clr s, Runs (.hstat d sel clr) s → active s 0 ≠ 0 → mayTrap s → (2 ≤ sel.toNat ∨ (sel = 1 ∧ clr = 1)) →
    trapsAt (.hstat d sel clr) s 0x01 0) ∧
  (∀ (b : Block) w, b.hstatNew = some w → settleHuller b = { b with hstat := if b.hstat.getLsbD 31 then b.hstat else w, hstatNew := none }) ∧
  (∀ (b : Block), b.hstatNew = none → settleHuller b = b))

/-- R197, R211, R214 to R216: a copy on a fixed path at its completion: CPYIN fills its tile with the tensor's window, zeros
outside the tensor; CPYOUT and CPYP write their elements to the destination in stream order and change no other byte; CPYX
copies a tile's elements. Each frees its ranges and lowers its counter; modes that draw, and I4X, are left to the
definitions. -/
def Obligations.CopyResults : Prop :=
  (∀ s core queue, ∀ op ∈ copyHead s core queue, copyRuns s op → undamaged s → noStale (blkOf s op.bid).ctx s → op.kind = .cpyin → op.members = [op.bid] →
    let d := copyDesc op.desc
    let g := geoAt (blkOf s op.bid) d.tile
    d.gat = false → d.path < 7 → d.rnd < 5 → geometryOk (blkOf s op.bid) g = true → tileBits g.fmt ≠ 4 →
    (∀ n ∈ (blkOf s op.bid).alloc, n ≤ 2 ^ 20) →
    (d.path = 0 → fmtBits op.src.fmt = tileBits g.fmt) →
    let idx := fun (i j : Nat) => [d.org.getD 0 0 + j, d.org.getD 1 0 + i, d.org.getD 2 0, d.org.getD 3 0, d.org.getD 4 0]
    (∀ i, i < g.rows → ∀ j, j < g.cols → insideTensor op.src (idx i j) = true → (elemOf s op.bid op.src (idx i j)).isSome = true) →
    ∃ t, exec (.copyComplete core queue) s = .next t ∧ endsCopy op s t ∧ keepsMemory s t ∧
      (∀ k, k ≠ op.bid → blkOf t k = blkOf s k) ∧ (tileAt (blkOf t op.bid) d.tile).state = 2 ∧
      (∀ i j, i < g.rows → j < g.cols →
        (insideTensor op.src (idx i j) = false → elemAt (blkOf t op.bid) g i j = fmtZero (tileFmt g.fmt)) ∧
        (insideTensor op.src (idx i j) = true → ∀ v ∈ elemOf s op.bid op.src (idx i j),
          elemAt (blkOf t op.bid) g i j = pathCode d op.src.fmt (tileFmt g.fmt) v))) ∧
  (∀ s core queue, ∀ op ∈ copyHead s core queue, copyRuns s op → undamaged s → noStale (blkOf s op.bid).ctx s → op.kind = .cpyout →
    let d := copyDesc op.desc
    let g := geoAt (blkOf s op.bid) d.tile
    d.gat = false → d.path < 7 → d.rnd < 5 → 8 ≤ fmtBits op.dst.fmt →
    let es := ((List.range (g.rows * g.cols)).map fun n =>
      ([d.org.getD 0 0 + n % g.cols, d.org.getD 1 0 + n / g.cols, d.org.getD 2 0, d.org.getD 3 0, d.org.getD 4 0],
        pathCode d (tileFmt g.fmt) op.dst.fmt (elemAt (blkOf s op.bid) g (n / g.cols) (n % g.cols)))).filter fun e =>
          insideTensor op.dst e.1
    ∀ ps ∈ bytesTo s op.bid op.dst es, (∀ p ∈ ps, lfind (p.1 / 32) s.resvs = none) →
    ∃ t, exec (.copyComplete core queue) s = .next t ∧ endsCopy op s t ∧ afterWrites s t ps ∧
      (∀ k, k ≠ op.bid → blkOf t k = blkOf s k) ∧ (blkOf t op.bid).ls = (blkOf s op.bid).ls ∧
      (tileAt (blkOf t op.bid) d.tile).state = (if d.rel then 0 else 2) ∧
      (tileAt (blkOf t op.bid) d.tile).rdcnt = (tileAt (blkOf s op.bid) d.tile).rdcnt - 1) ∧
  (∀ s core queue, ∀ op ∈ copyHead s core queue, copyRuns s op → undamaged s → noStale (blkOf s op.bid).ctx s → op.kind = .cpyp →
    let d := copyDesc op.desc
    d.path < 7 → d.rnd < 5 → 8 ≤ fmtBits op.dst.fmt → op.src.dims.length = 5 → op.src.dims = op.dst.dims →
    ∀ es ∈ ((tensorPlaces op.src).mapM fun p => p.bind fun i => (elemOf s op.bid op.src i).map fun v => (i, pathCode d op.src.fmt op.dst.fmt v)),
    ∀ ps ∈ bytesTo s op.bid op.dst es, (∀ p ∈ ps, lfind (p.1 / 32) s.resvs = none) →
    ∃ t, exec (.copyComplete core queue) s = .next t ∧ endsCopy op s t ∧ afterWrites s t ps ∧
      (∀ k, k ≠ op.bid → blkOf t k = blkOf s k) ∧ (blkOf t op.bid).ls = (blkOf s op.bid).ls) ∧
  (∀ s core queue, ∀ op ∈ copyHead s core queue, copyRuns s op → op.kind = .cpyx → ∀ m ∈ op.members.head?, op.members = [m] →
    (lfind m s.blocks).isSome = true → (blkOf s m).cls ≠ 2 →
    let d := copyDesc op.desc
    let g := geoAt (blkOf s op.bid) d.tile
    let h := geoAt (blkOf s m) (d.w0 % 64)
    h.rows = g.rows → h.cols = g.cols → h.fmt = g.fmt → geometryOk (blkOf s m) h = true → tileBits g.fmt ≠ 4 →
    (∀ n ∈ (blkOf s m).alloc, n ≤ 2 ^ 20) → (m = op.bid → d.w0 % 64 ≠ d.tile) →
    ∃ t, exec (.copyComplete core queue) s = .next t ∧ endsCopy op s t ∧ keepsMemory s t ∧
      (∀ k, k ≠ op.bid → k ≠ m → blkOf t k = blkOf s k) ∧
      (∀ i j, i < g.rows → j < g.cols → elemAt (blkOf t m) h i j = elemAt (blkOf s op.bid) g i j) ∧
      (tileAt (blkOf t m) (d.w0 % 64)).state = 2 ∧ (tileAt (blkOf t op.bid) d.tile).state = (if d.rel then 0 else 2) ∧
      (tileAt (blkOf t op.bid) d.tile).rdcnt = (tileAt (blkOf s op.bid) d.tile).rdcnt - 1)

/-- R208, R218, R220, R412: a copy on a fixed path starts at the head of its queue, and an HBIND once no copy of its block on
a bound path is left, which drops the binding; a cell whose turn it is for a copy takes a beat of its input, drops what is
left when its output is complete, or passes one on to a cell or to the exit; an HBIND ends unbound, on an image already held,
or on the image that it loads into a free context, the lowest (the model's choice, log 44); one that names no graph fails. -/
def Obligations.HullerUnit : Prop :=
  (∀ s core queue, ∀ op ∈ copyHead s core queue, op.started = false → faultWaits s op.wait = false →
    (op.kind = .cpyx ∨ op.kind = .cpyp ∨ ((op.kind = .cpyin ∨ op.kind = .cpyout) ∧ (copyDesc op.desc).path < 8) →
      ∃ t, exec (.copyStart core queue) s = .next t ∧ t = (fun x : State => { x with copies := t.copies }) s ∧
        t.copies = s.copies.map fun c => if c.id = op.id then { op with started := true } else c) ∧
    (op.kind = .hbind → op.auto = false → hbindMayStart s op = true → (lfind op.bid s.blocks).isSome = true →
      ∃ t, exec (.copyStart core queue) s = .next t ∧ t.warps = s.warps ∧ t.mem = s.mem ∧
        t.copies = s.copies.map (fun c => if c.id = op.id then { op with started := true } else c) ∧
        (blkOf t op.bid).bind = none ∧ (∀ e ∈ t.fabs, op.bid ∉ e.2.blocks) ∧ ∀ k, k ≠ op.bid → blkOf t k = blkOf s k)) ∧
  (∀ s id cell, ∀ op ∈ s.copies.find? (fun c => c.id == id), op.started = true → op.fab.isSome = true → op.fed = true →
    turnOf s (op.core / 12) cell = op.fab.map (· % 4) →
    ∀ c ∈ lfind cell (graphOf s op).cells, ∀ st ∈ lfind cell op.ops,
    let leaves := fun (f : CopyOp → Prop) => ∃ t, exec (.hullerCellFire id cell) s = .next t ∧ t.mem = s.mem ∧ t.blocks = s.blocks ∧
      lget 3 (32 * (op.core / 12) + cell) t.served = op.fab.getD 0 % 4 ∧ ∀ x ∈ t.copies.find? (fun c => c.id == id), f x
    let taken := fun (x : CopyOp) => ∀ e, lget [] e x.inq = if e = cell then (lget [] cell op.inq).tail else lget [] e op.inq
    let fin := st.fin && !st.sent && (st.q0.drop 32).isEmpty && (st.q1.drop 32).isEmpty
    (nextFire s (graphOf s op) op cell = .take false → st.fin = true → leaves fun x => taken x ∧ x.ops = op.ops ∧ x.out = op.out) ∧
    (nextFire s (graphOf s op) op cell = .take false → st.fin = false → c.op = 0 → st.o0 = [] → st.o1 = [] →
      let b := (lget [] cell op.inq).headD {}
      leaves fun x => taken x ∧ x.out = op.out ∧
        ∀ y ∈ lfind cell x.ops, y.q0 = st.q0 ++ b.toks ∧ y.done0 = (st.done0 || b.fin) ∧ y.fin = (st.done0 || b.fin)) ∧
    (nextFire s (graphOf s op) op cell = .pass → usesSecond c = false →
      (∀ e, e < 0x40 → routeTo (graphOf s op) cell = some e → leaves fun x => x.out = op.out ∧
        (∀ k, lget [] k x.inq = lget [] k op.inq ++
          if k = e ∧ (st.q0 ≠ [] ∨ fin = true) then [{ toks := st.q0.take 32, fin := fin }] else []) ∧
        ∀ y ∈ lfind cell x.ops, y.q0 = st.q0.drop 32 ∧ y.sent = (st.sent || fin)) ∧
      (routeTo (graphOf s op) cell = some 0x80 → op.err = none →
        (∀ y ∈ st.q0, y.poison = false → ∀ w ∈ exitWidths s op, y.bits % w = 0) → leaves fun x =>
        x.out = op.out ++ st.q0.take 32 ∧ x.outDone = (op.outDone || fin) ∧ x.err = none ∧
        ∀ y ∈ lfind cell x.ops, y.q0 = st.q0.drop 32 ∧ y.sent = (st.sent || fin)))) ∧
  (∀ s core, ∀ op ∈ copyHead s core 3, op.kind = .hbind → op.auto = false → op.started = true → op.err = none →
    faultWaits s op.wait = false →
    (op.graph = none →
      ∃ t, exec (.hbindComplete core) s = .next t ∧ t.copies = s.copies.filter (fun c => c.id != op.id) ∧
        counts (warpOf s op.wk) (warpOf t op.wk) op.cnt (· - 1) ∧ t.blocks = s.blocks ∧ t.mem = s.mem ∧ t.fabs = s.fabs) ∧
    (∀ idx ∈ op.graph, idx < (gridOf s (blkOf s op.bid).gid).obj.ngraphs → (lfind op.bid s.blocks).isSome = true →
      (∀ f ∈ sameImage s op.bid idx,
        ∃ t, exec (.hbindComplete core) s = .next t ∧ counts (warpOf s op.wk) (warpOf t op.wk) op.cnt (· - 1) ∧ t.mem = s.mem ∧
          (blkOf t op.bid).bind = some idx ∧ (lget {} f t.fabs).blocks = (lget {} f s.fabs).blocks ++ [op.bid]) ∧
      (∀ f ∈ freeFab s op.core, sameImage s op.bid idx = none →
        ∀ bs ∈ (match (readImage op.bid idx s).2 with | .ok (some bs, false) => some bs | _ => none), ∀ g ∈ parseGraph bs, undamaged s →
        ∃ t, exec (.hbindComplete core) s = .next t ∧ counts (warpOf s op.wk) (warpOf t op.wk) op.cnt (· - 1) ∧ keepsMemory s t ∧
          (blkOf t op.bid).bind = some idx ∧ (lget {} f t.fabs).blocks = [op.bid] ∧ (lget {} f t.fabs).image = g)) ∧
    (∀ idx ∈ op.graph, (gridOf s (blkOf s op.bid).gid).obj.ngraphs ≤ idx → (lfind op.wk s.warps).isSome = true →
      (warpOf s op.wk).bid = op.bid → blockEnded s op.bid = false → (lfind op.bid s.blocks).isSome = true →
      ∃ t, exec (.hbindComplete core) s = .next t ∧ counts (warpOf s op.wk) (warpOf t op.wk) op.cnt (· - 1) ∧
        (blkOf t op.bid).bind = none ∧
        (lfind op.cnt (warpOf s op.wk).cerr = none → lfind op.cnt (warpOf t op.wk).cerr = some (0x25, 0)) ∧
        ((blkOf s op.bid).hstatNew = none → (blkOf t op.bid).hstatNew = some (BitVec.ofNat 32 (2 ^ 31 + 7 * 2 ^ 28 + 2 ^ 19 + 3 * 2 ^ 17 + 2 ^ 15)))))

/-- R268, R269, R270, R274, R278, R497 to R499: TFORK traps on a register pair or an address that it cannot use, is held
until its release may perform and the revision engine has answered it, then writes its handle or takes its trap; TPOLL reads
a fork's state; TJOIN claims a fork and adds 1 to its counter, or is held, also while an earlier TFORK of its context is at
the engine (the model's deduction, log 49). The revision engine's fork point makes a slot whose depth is one more than its
parent's, or refuses with cause 0x0F. -/
def Obligations.Forks : Prop :=
  (∀ d a b s, Runs (.tfork d a b) s → active s 0 ≠ 0 → forkReqOf s s.iss.wk s.iss.pc = none →
    pairHigh s a.toNat = false → pairHigh s b.toNat = false → pairAddr s a.toNat % 256 = 0 → pairAddr s b.toNat % 64 = 0 →
    (¬ mayRelease s → heldAt (.tfork d a b) s) ∧
    (mayRelease s → ∃ t, exec (.tfork d a b) s = .next t ∧ (∀ l, standing t l = standing s l) ∧ (curWarp t).r = (curWarp s).r ∧
      t.iss.held = true ∧ keepsMemory s t ∧
      t.forkReqs = s.forkReqs ++ [{
        wk := s.iss.wk, pc := s.iss.pc, packet := pairAddr s a.toNat, record := pairAddr s b.toNat, order := s.nextId }])) ∧
  (∀ d a b s, Runs (.tfork d a b) s → active s 0 ≠ 0 → forkReqOf s s.iss.wk s.iss.pc = none → mayTrap s →
    (pairHigh s a.toNat = true ∨ pairHigh s b.toNat = true → trapsAt (.tfork d a b) s 0x03 0) ∧
    (pairHigh s a.toNat = false → pairHigh s b.toNat = false → pairAddr s a.toNat % 256 ≠ 0 →
      trapsAt (.tfork d a b) s 0x01 (pairAddr s a.toNat)) ∧
    (pairHigh s a.toNat = false → pairHigh s b.toNat = false → pairAddr s a.toNat % 256 = 0 → pairAddr s b.toNat % 64 ≠ 0 →
      trapsAt (.tfork d a b) s 0x01 (pairAddr s b.toNat))) ∧
  (∀ d a b s, Runs (.tfork d a b) s → active s 0 = 0 → idles (.tfork d a b) s) ∧
  (∀ d a b s, Runs (.tfork d a b) s → active s 0 ≠ 0 → ∀ r ∈ forkReqOf s s.iss.wk s.iss.pc,
    (∀ h ∈ r.done, r.exposed = 0 → ∃ t, exec (.tfork d a b) s = .next t ∧ movedOn s t ∧ setsQ s t 0 d.toNat h ∧ keepsWarp s t ∧
      t.blocks = s.blocks ∧ keepsMemory s t ∧ ∀ x ∈ t.forkReqs, ¬ (x.wk = s.iss.wk ∧ x.pc = s.iss.pc)) ∧
    (r.done = none → r.refuse = none → heldAt (.tfork d a b) s) ∧
    (r.done = none → mayTrap s → (handlerOf s s.iss.bid).isSome = true → ∀ c ∈ r.refuse,
      c.1 < 256 → takesCause (.tfork d a b) s c.1 c.2)) ∧
  (∀ d a s, Runs (.tpoll d a) s → ∀ e ∈ handleFork (readQ s a.toNat) s,
    doneQ (.tpoll d a) s 0 d.toNat
      (if e.2.state = 0 then 3 else if e.2.claim.isSome then 2 else if e.2.state = 2 then 1 else 0)) ∧
  (∀ d a s, Runs (.tpoll d a) s → active s 0 ≠ 0 → mayTrap s → handleFork (readQ s a.toNat) s = none →
    trapsAt (.tpoll d a) s 0x10 (readQ s a.toNat).toNat) ∧
  (∀ a sel s, Runs (.tjoin a sel) s → active s 0 ≠ 0 →
    let c := counterOf sel s
    (63 ≤ lget 0 c (curWarp s).cntSeen ∨ ¬ mayRelease s ∨ forksPending s (curBlk s).ctx = true → heldAt (.tjoin a sel) s) ∧
    (lget 0 c (curWarp s).cntSeen < 63 → mayRelease s → forksPending s (curBlk s).ctx = false →
    (∀ e ∈ handleFork (readQ s a.toNat) s, e.2.claim = none → e.2.state ≠ 0 →
      ∃ t, exec (.tjoin a sel) s = .next t ∧ places s t (fun _ x => onward s x) ∧ (curWarp t).r = (curWarp s).r ∧
        keepsMemory s t ∧ counts (curWarp s) (curWarp t) c (· + 1) ∧
        (lget {} e.1 t.forks).claim = some (s.iss.wk, c, s.iss.bid) ∧
        ∀ n, n ≠ e.1 → lget {} n t.forks = lget {} n s.forks) ∧
    (mayTrap s → (∀ e ∈ handleFork (readQ s a.toNat) s, e.2.claim.isSome = true ∨ e.2.state = 0) →
      trapsAt (.tjoin a sel) s 0x10 (readQ s a.toNat).toNat))) ∧
  (∀ a sel s, Runs (.tjoin a sel) s → active s 0 = 0 → countsOnly (.tjoin a sel) (counterOf sel s) s) ∧
  (∀ s wk, ∀ r ∈ s.forkReqs.find? (fun r => r.wk == wk && r.done.isNone && r.refuse.isNone),
    let b := blkOf s (warpOf s r.wk).bid
    let g := gridOf s b.gid
    standsAt s r = true → nextReq s r = true → writesDone s b.ctx g.fork = true → b.ctx = g.ctx →
    ∀ rs ∈ (forkRegions g.ctx s).2.toOption,
    let s1 := (forkRegions g.ctx s).1
    let as := (r.packet, false) :: if r.record = 0 then [] else (rangePages r.record 576).map fun a => (a, true)
    (forkAddrs g.ctx as s1).2.toOption.isSome = true →
    (freeFork s = none ∨ 8 ≤ g.depth →
      ∃ t, exec (.forkPoint wk) s = .next t ∧ t.forks = s.forks ∧ t.revmap = s.revmap ∧
        ∀ x ∈ t.forkReqs, x.order = r.order → x.refuse = some (0x0F, g.depth * 4096 + g.fork)) ∧
    (∀ n ∈ freeFork s, g.depth < 8 → ∀ bs ∈ (devReadVirt g.ctx r.packet false 2 256 (forkAddrs g.ctx as s1).1).2.toOption,
      ∃ t, exec (.forkPoint wk) s = .next t ∧ (∀ m, m ≠ n → lget {} m t.forks = lget {} m s.forks) ∧
        (let f := lget {} n t.forks
         f.state = 1 ∧ f.gen = ((lget {} n s.forks).gen + 1) % 4096 ∧ f.parent = b.gid ∧ f.parentRev = g.fork ∧ f.depth = g.depth + 1 ∧
           f.regions = rs ∧ f.pending = some (parsePacket bs) ∧ f.claim = none ∧
           ∀ x ∈ t.forkReqs, x.order = r.order → x.done = some (BitVec.ofNat 32 (f.gen * 2 ^ 20 + n)))))

/-- R271, R272, R276, R279, R282, R292: a revision's first write takes a page of revision space that holds what it saw; an
empty stack is told to the host and, after 10 ms, the waiting tasks stop; a page that is its own by then is not copied again;
the three-way merge of an element; a join frees its slot, takes over the child's pages and merges those that both sides
copied; a grid without children completes, and one with children claims their joins once no TFORK of its context is at the
engine. -/
def Obligations.Revisions : Prop :=
  (∀ s ctx rev vpn, ∀ f ∈ s.faults.find? (fun f => f.ctx == ctx && f.rev == rev && f.vpn == vpn && (f.kind == 9 || f.kind == 10)),
    ∀ rs, (governing ctx rev s).2 = .ok rs → ∀ g ∈ regionFor rs vpn,
    let s1 := (governing ctx rev s).1
    let n := lget 0 g.cls (ctxOf s1 ctx).stackCount
    let entry := fun i => leNat (physRead s1 (lget 0 g.cls (ctxOf s1 ctx).stackBase + 8 * i) 8)
    let pa := entry (n - 1)
    ownsPage ctx rev vpn s1 = false → ∀ src ∈ viewPage ctx rev vpn s1,
    (0 < n → pageUsable s1 pa = true → undamaged s →
      (∀ i, i < 128 → poisoned s (src / 32 + i) = false ∧ paOnline s (pa + 32 * i) = true) → src % 32 = 0 →
      (pa + 4096 ≤ src ∨ src + 4096 ≤ pa) →
      ∃ t, exec (.copyOnWrite ctx rev vpn) s = .next t ∧
        (∀ k, readByte t k = if pa ≤ k ∧ k < pa + 4096 then readByte s (src + (k - pa)) else readByte s k) ∧
        lfind (pageKey ctx rev vpn) t.revmap = some { pa := pa, own := true } ∧
        lget 0 g.cls (ctxOf t ctx).stackCount = n - 1 ∧ ∀ x ∈ t.faults, x.key ≠ f.key) ∧
    (f.kind = 9 → (∀ i, i < n → pageUsable s1 (entry i) = false) →
      ∃ t, exec (.copyOnWrite ctx rev vpn) s = .next t ∧ t.revmap = s.revmap ∧ t.warps = s.warps ∧
        ∀ x ∈ t.faults, x.key = f.key → x.kind = 10)) ∧
  (∀ s ctx rev vpn, ∀ f ∈ s.faults.find? (fun f => f.ctx == ctx && f.rev == rev && f.vpn == vpn && (f.kind == 9 || f.kind == 10)),
    ∀ rs, (governing ctx rev s).2 = .ok rs → (regionFor rs vpn).isSome = true → ownsPage ctx rev vpn (governing ctx rev s).1 = true →
    ∃ t, exec (.copyOnWrite ctx rev vpn) s = .next t ∧ t.revmap = s.revmap ∧ (undamaged s → keepsMemory s t) ∧
      (∀ c, lget 0 c (ctxOf t ctx).stackCount = lget 0 c (ctxOf s ctx).stackCount) ∧ ∀ x ∈ t.faults, x.key ≠ f.key) ∧
  (∀ s ctx cls, keysRise s.blocks = true → ∃ t, exec (.revisionSpaceTimeout ctx cls) s = .next t ∧ keepsMemory s t ∧
    ((∀ c, bindsWait s c = false) → t.warps = s.warps) ∧
    ∀ b, (lfind b s.blocks).isSome = true → ((blkOf t b).stopAt.isSome = true ↔ (blkOf s b).stopAt.isSome = true ∨
      ((blkOf s b).ctx = ctx ∧ ∃ f ∈ s.faults, spaceDue s ctx cls f = true ∧ f.rev = revOf s b))) ∧
  (∀ s ctx cls v, hostReady s = true → ctx < 64 → cls < 3 →
    ∃ t, exec (.revisionStackPush ctx cls v) s = .next t ∧ lget 0 cls (ctxOf t ctx).stackCount = v.toNat ∧
      t.mem = s.mem ∧ t.warps = s.warps ∧ ∀ c, c ≠ ctx → ctxOf t c = ctxOf s c) ∧
  (∀ w ∈ [0, 1, 2], ∀ type p c a, 1 ≤ type → type ≤ 9 →
    let n := 8 * 2 ^ w
    p < 2 ^ n → c < 2 ^ n → a < 2 ^ n →
    (c = a → merge3 type w p c a = (p, false, 0)) ∧ (c ≠ a → p = a → merge3 type w p c a = (c, false, 0)) ∧
    (c ≠ a → p ≠ a →
      (type = 1 → merge3 type w p c a = (c, decide (p ≠ c), 0)) ∧ (type = 2 → merge3 type w p c a = (p, decide (p ≠ c), 0)) ∧
      (type = 3 → (merge3 type w p c a).2 = (false, 0) ∧ ((merge3 type w p c a).1 + a) % 2 ^ n = (p + c) % 2 ^ n ∧ (merge3 type w p c a).1 < 2 ^ n) ∧
      (type = 5 → merge3 type w p c a = (if (BitVec.ofNat n p).sle (BitVec.ofNat n c) then p else c, false, 0)) ∧
      (type = 6 → merge3 type w p c a = (if (BitVec.ofNat n p).sle (BitVec.ofNat n c) then c else p, false, 0)) ∧
      (type = 7 → merge3 type w p c a = (min p c, false, 0)) ∧ (type = 8 → merge3 type w p c a = (max p c, false, 0)) ∧
      (type = 9 → (merge3 type w p c a).2 = (false, 0) ∧ ∀ i, i < n → (merge3 type w p c a).1.testBit i =
        if p.testBit i = a.testBit i then c.testBit i else p.testBit i))) ∧
  (∀ s slot, ∀ f ∈ lfind slot s.forks, joinReady s f = true → f.record = 0 → f.status = 0 → slot ≠ f.parentRev → slot < 512 → f.parentRev < 512 →
    (childCopied slot f s = [] → f.parentCopied = [] →
      ∃ t, exec (.joinMerge slot) s = .next t ∧ keepsMemory s t ∧ (lget {} slot t.forks).state = 0 ∧
        (∀ e ∈ t.revmap, e.1 / 2 ^ 44 ≠ f.ctx * 512 + slot) ∧
        ∀ x ∈ f.claim, x.2.1 < 12 → counts (warpOf s x.1) (warpOf t x.1) x.2.1 (· - 1)) ∧
    (∀ e ∈ (childCopied slot f s).head?, childCopied slot f s = [e] → f.parentCopied = [] → e.1 < 2 ^ 44 →
      ∃ t, exec (.joinMerge slot) s = .next t ∧ (lget {} slot t.forks).state = 0 ∧
        (lfind (pageKey f.ctx f.parentRev e.1) t.revmap).map (fun p => p.pa) = some e.2) ∧
    (∀ e ∈ (childCopied slot f s).head?, childCopied slot f s = [e] → f.parentCopied = [e.1] → ∀ r ∈ regionFor f.regions e.1, r.width ≤ 2 → undamaged s →
      ∀ pp ∈ viewPage f.ctx f.parentRev e.1 s, ∀ aa ∈ ancPage f e.1 s,
      (∀ i, i < 128 → lfind (pp / 32 + i) s.resvs = none ∧ paOnline s (pp + 32 * i) = true) →
      frozenFor slot f e.1 pp s = false → pp % 4096 = 0 → e.2 % 4096 = 0 → aa % 4096 = 0 → pp ≠ e.2 → pp ≠ aa →
      (∀ i, i < 128 → poisoned s (pp / 32 + i) = false ∧ poisoned s (e.2 / 32 + i) = false ∧ poisoned s (aa / 32 + i) = false) →
      (∀ c, c < 4 → let top := lget 0 c (ctxOf s f.ctx).stackBase + 8 * lget 0 c (ctxOf s f.ctx).stackCount
        top + 16 ≤ pp ∨ pp + 4096 ≤ top) →
      ∃ t, exec (.joinMerge slot) s = .next t ∧ (lget {} slot t.forks).state = 0 ∧
        ∀ j, j < 4096 / 2 ^ r.width →
          let el := fun (pa : Nat) => leNat (readBytes s (pa + 2 ^ r.width * j) (2 ^ r.width))
          leNat (readBytes t (pp + 2 ^ r.width * j) (2 ^ r.width)) = (merge3 r.type r.width (el pp) (el e.2) (el aa)).1)) ∧
  (∀ s gid, ∀ g ∈ lfind gid s.grids, g.final = none → g.done = true →
    (children s gid = [] → (completionWrites g.ctx g.pkt g.queue 0 0 s).2 = true →
      ∃ t, exec (.gridCompletion gid) s = .next t ∧ (∀ n, lfind n t.grids = if n = gid then none else lfind n s.grids) ∧
        (g.fork ≠ 0 → (lget {} g.fork s.forks).state = 1 → (lget {} g.fork t.forks).state = 2) ∧
        (g.pkt.record = 0 → g.pkt.signal = 0 → keepsMemory s t) ∧
        ∀ k ∈ (match (completionDest g.ctx g.pkt.record s).2 with | .key k => some k | _ => none),
          lfind (k / 32) s.resvs = none → g.pkt.signal = 0 → undamaged s → k % 16 = 0 →
          readBytes t k 16 = leBytes 4 0 ++ [0, if g.pkt.deadline ≠ 0 ∧ g.pkt.deadline < timeOf s then 1 else 0, 0, 0] ++ leBytes 8 (timeOf s % 2 ^ 64)) ∧
    (children s gid ≠ [] → forksPending s g.ctx = true → exec (.gridCompletion gid) s = .next s) ∧
    (children s gid ≠ [] → forksPending s g.ctx = false → keysRise s.forks = true →
      ∃ t, exec (.gridCompletion gid) s = .next t ∧ t.grids = s.grids ∧ keepsMemory s t ∧
        ∀ e ∈ children s gid, (lget {} e.1 t.forks).claim = if e.2.claim.isSome then e.2.claim else some (0, 12, 0)))

/-- R246, R248, R249, R251, with the split of compared actions into those held at issue and those that the lead runs on past,
which is the model's deduction (log 50): a compared action whose lanes and operands agree goes on: a held instruction issues,
an STL performs its writes, an access in flight no longer waits, a read leaves the buffer; one that differs rolls the block
back: each unit of its journal takes its old contents, and its control state that of the checkpoint; a checkpoint at a
barrier commits the interval, records the block and releases the barrier. -/
def Obligations.AssuredBlocks : Prop :=
  (∀ s wk, (lfind wk s.warps).isSome = true → ∀ c ∈ (warpOf s wk).cmps.find? (fun c => c.twin.isSome && !c.agreed),
    (c.twin = some (c.act, c.ops) →
      (c.kind = .held →
        ∃ t, exec (.twinCompare wk) s = .next t ∧ t = (fun x : State => { x with warps := t.warps }) s ∧ (warpOf t wk).r = (warpOf s wk).r ∧
          (∀ k, k ≠ wk → warpOf t k = warpOf s k) ∧
          (warpOf t wk).cmps = (warpOf s wk).cmps.map (fun x => if x.id = c.id then { x with agreed := true } else x) ∧
          ∀ l, l < 32 → lfind l (warpOf t wk).lanes = (lfind l (warpOf s wk).lanes).map fun x =>
            if c.iss.lanes.getLsbD l ∧ x.hold = .compare ∧ x.pc = c.iss.pc then { x with hold := .none } else x) ∧
      (c.kind = .read →
        ∃ t, exec (.twinCompare wk) s = .next t ∧ t = (fun x : State => { x with warps := t.warps }) s ∧
          ∀ k, warpOf t k = if k = wk then (fun w : Warp => { w with cmps := w.cmps.filter fun x => x.id != c.id }) (warpOf s k) else warpOf s k) ∧
      (c.kind = .stl → (lfind c.iss.bid s.blocks).isSome = true →
        ∃ t, exec (.twinCompare wk) s = .next t ∧ t.mem = s.mem ∧ (∀ k, k ≠ c.iss.bid → blkOf t k = blkOf s k) ∧
          (∀ k, warpOf t k = if k = wk then (fun w : Warp => { w with cmps := w.cmps.filter fun x => x.id != c.id }) (warpOf s k) else warpOf s k) ∧
          (blkOf t c.iss.bid).ls = (c.puts.foldl (fun x p => storePut p.1 p.2.1 p.2.2 x) (blkOf s c.iss.bid)).ls) ∧
      (c.kind = .flight → (∀ o ∈ (warpOf s wk).loads, o.await ≠ c.id) →
        ∃ t, exec (.twinCompare wk) s = .next t ∧ t.mem = s.mem ∧ t.blocks = s.blocks ∧
          t.stores = s.stores.map (fun o => if o.wk = wk ∧ o.await = c.id then { o with await := 0 } else o) ∧
          t.side = s.side.map (fun o => if o.wk = wk ∧ o.await = c.id then { o with await := 0 } else o) ∧
          ∀ k, warpOf t k = if k = wk then (fun w : Warp => { w with cmps := w.cmps.filter fun x => x.id != c.id }) (warpOf s k) else warpOf s k)) ∧
    (c.twin ≠ some (c.act, c.ops) →
      let bid := (warpOf s wk).bid
      let b := blkOf s bid
      let place := fun (w : Warp) (l : Nat) => (lfind l w.lanes).map fun x => (x.pc, x.clause, x.hold, x.exited)
      b.exposed = false → b.badLog = [] → b.tries < 2 → 2 ≤ (ctxOf s b.ctx).ebud → (lfind bid s.blocks).isSome = true →
      keysRise b.journal = true →
      (∀ e ∈ b.journal, e.2.length = 32 ∧ (2 ^ 60 ≤ e.1 → e.1 % 2 ^ 20 < 8192) ∧ (e.1 < 2 ^ 60 → (lfind (e.1 / 256) s.warps).isSome = true)) →
      ∀ c ∈ lfind bid s.ckpts, (c.warps.map (fun e => e.1)).Nodup →
      ∃ t, exec (.twinCompare wk) s = .next t ∧ keepsMemory s t ∧ t.blocks.map (fun e => e.1) = s.blocks.map (fun e => e.1) ∧
        (blkOf t bid).tries = b.tries + 1 ∧ (blkOf t bid).tiles = c.blk.tiles ∧ (blkOf t bid).rings = c.blk.rings ∧
        (∀ u, u < 2 ^ 60 ∨ u % 2 ^ 20 < 8192 → unitWords t bid u = (lfind u b.journal).getD (unitWords s bid u)) ∧
        (∀ e ∈ c.warps, (lfind e.1 s.warps).isSome = true →
          (warpOf t e.1).cnt = e.2.cnt ∧ (warpOf t e.1).r.q = e.2.r.q ∧ (warpOf t e.1).r.p = e.2.r.p ∧ (warpOf t e.1).r.masks = e.2.r.masks ∧
          (warpOf t e.1).cmps = [] ∧ (warpOf t e.1).trace = [] ∧ ∀ l, place (warpOf t e.1) l = place e.2 l) ∧
        (∀ o ∈ t.stores, o.bid ≠ bid) ∧ (∀ m ∈ t.mats, m.bid = bid → m ∈ c.mats) ∧
        (ctxOf t b.ctx).ebud = (ctxOf s b.ctx).ebud - 1)) ∧
  (∀ s bid, (lfind bid s.blocks).isSome = true → keysRise s.warps = true → (blkOf s bid).cls = 2 → (blkOf s bid).stopAt = none →
    checkpointReady s bid = true → (blkOf s bid).badLines = [] → frozenPages s bid = [] →
    (fullBarriers s bid false 16 ≠ [] ∨ fullBarriers s bid true 4 ≠ []) →
    ∃ t, exec (.assuredCheckpoint bid) s = .next t ∧ (lfind bid t.ckpts).map (fun c => c.blk) = some (blkOf t bid) ∧
      (∀ k, k ≠ bid → lfind k t.ckpts = lfind k s.ckpts) ∧
      (blkOf t bid).journal = [] ∧ (blkOf t bid).staged = [] ∧ (blkOf t bid).exposed = false ∧ (blkOf t bid).tries = 0 ∧
      (∀ b ∈ fullBarriers s bid false 16, (lget {} b (blkOf t bid).bars).arrived = 0) ∧
      (∀ b ∈ fullBarriers s bid true 4, (lget {} b (blkOf t bid).pbars).arrived = 0) ∧
      ∀ b ∈ fullBarriers s bid false 16, ∀ e ∈ t.warps, e.2.bid = bid → ∀ x ∈ e.2.lanes, x.2.exited = false → x.2.hold ≠ .bar b)

/-- R28, R297 to R302, R306 to R310, R407: a warp whose lanes stand at points stops, and one is forced to stop where it
stands after 100 µs; a block that is ready is saved and leaves its core, its units losing nothing; a block whose warps have
ended leaves it; each watchdog that fires pulls the trigger and ends the context. -/
def Obligations.StoppingAndEnding : Prop :=
  (∀ s wk, (lfind wk s.warps).isSome = true → (blkOf s (warpOf s wk).bid).stopAt.isSome = true →
    (warpOf s wk).stopped = false →
    (warpOf s wk).forced = true ∨ ((warpOf s wk).lanes.all fun e => laneStopped s (warpOf s wk).bid e.2) = true →
    (warpOf s wk).loads.all (loadFaulting s) = true →
    ∃ t, exec (.warpStopped wk) s = .next t ∧ (warpOf t wk).stopped = true ∧
      ((warpOf s wk).loads = [] → t = (fun x : State => { x with warps := t.warps }) s ∧
        (∀ k, warpOf t k = if k = wk then (fun w : Warp => { w with stopped := true, lanes := (warpOf t wk).lanes }) (warpOf s k) else warpOf s k) ∧
        ∀ l, lfind l (warpOf t wk).lanes = (lfind l (warpOf s wk).lanes).map fun x =>
          if (warpOf s wk).owed.any fun o => o.1.getLsbD l then x else freshLane x)) ∧
  (∀ s wk, (lfind wk s.warps).isSome = true → ∀ t0 ∈ (blkOf s (warpOf s wk).bid).stopAt, t0 + 120000 ≤ s.clock → (warpOf s wk).stopped = false →
    (blkOf s (warpOf s wk).bid).moveStop = false → (warpOf s wk).forced = false →
    ((warpOf s wk).lanes.all fun e => laneStopped s (warpOf s wk).bid e.2) = false →
    ∃ t, exec (.forcedStop wk) s = .next t ∧
      (∀ k, warpOf t k = if k = wk then (fun w : Warp => { w with forced := true }) (warpOf s k) else warpOf s k) ∧
      t = (fun x : State => { x with warps := t.warps }) s) ∧
  (∀ s bid, (blkOf s bid).podTag = 0xFFFFF → (blkOf s bid).stopAt.isSome = true → saveReady s bid = true → (blkOf s bid).cls ≠ 2 →
    (saveFails bid s = true → 2 ≤ (ctxOf s (blkOf s bid).ctx).ebud) →
    ∃ t, exec (.blockSave bid) s = .next t ∧ lfind bid t.blocks = none ∧ (∀ e ∈ t.warps, e.2.bid ≠ bid) ∧
      (∀ c ∈ t.copies, c.bid ≠ bid) ∧ (∀ l ∈ t.locks, l.bid ≠ bid) ∧ (∀ k, k ≠ bid → blkOf t k = blkOf s k) ∧
      (lfind bid t.husks).map (fun v => (v.blk.gid, v.blk.x, v.blk.y, v.blk.z, v.warps.map fun e => e.1)) =
        some ((blkOf s bid).gid, (blkOf s bid).x, (blkOf s bid).y, (blkOf s bid).z, (s.warps.filter fun e => e.2.bid == bid).map fun e => e.1)) ∧
  (∀ u : List Word, u.length = 32 → ∀ pad : List Byte, slotWords (unitCode u) (unitBytes (unitCode u) u ++ pad) = u) ∧
  (∀ s bid, endReady s bid = true → (blkOf s bid).cls ≠ 2 → (lfind (blkOf s bid).gid s.grids).isSome = true →
    ∃ t, exec (.blockEnd bid) s = .next t ∧ lfind bid t.blocks = none ∧ (∀ e ∈ t.warps, e.2.bid ≠ bid) ∧ keepsMemory s t ∧
      (∀ l ∈ t.locks, l.bid ≠ bid) ∧ (gridOf t (blkOf s bid).gid).left = (gridOf s (blkOf s bid).gid).left - 1 ∧
      ((gridOf t (blkOf s bid).gid).done = true ↔ (gridOf s (blkOf s bid).gid).left = 1)) ∧
  (∀ s wk, (warpOf s wk).lanes.any (fun e => !e.2.exited) = true →
    let b := blkOf s (warpOf s wk).bid
    let h := (gridOf s b.gid).pkt.hangtime
    (if h = 0 then 1000 else h) * 1200000 ≤ (warpOf s wk).idle →
    ∃ t, exec (.hangWatchdog wk) s = .next t ∧ t.trigger = s.trigger + 1 ∧ (ctxOf t b.ctx).failed = true ∧ ∀ e ∈ t.blocks, e.2.ctx ≠ b.ctx) ∧
  (∀ s bid bar, let b := blkOf s bid
    let h := (gridOf s b.gid).pkt.bartime
    (lget {} bar b.bars).first.isSome = true → (lget {} bar b.bars).arrived ≠ 0 →
    (if h = 0 then 100000 else h) * 1200 ≤ (lget {} bar b.bars).timer → (warpOf s (b.wks.getD ((lget {} bar b.bars).first.getD 0) 0)).bid = bid →
    ∃ t, exec (.barrierTimeout bid bar) s = .next t ∧ t.trigger = s.trigger + 1 ∧ (ctxOf t b.ctx).failed = true ∧ ∀ e ∈ t.blocks, e.2.ctx ≠ b.ctx) ∧
  (∀ s bid bar, (blkOf s bid).podTag = 0xFFFFF → let b := blkOf s bid
    let h := (gridOf s b.gid).pkt.bartime
    (lget {} bar b.pbars).first.isSome = true → (lget {} bar b.pbars).arrived ≠ 0 →
    (if h = 0 then 100000 else h) * 1200 ≤ (lget {} bar b.pbars).timer → (warpOf s (b.wks.getD ((lget {} bar b.pbars).first.getD 0) 0)).bid = bid →
    ∃ t, exec (.podBarrierTimeout bid bar) s = .next t ∧ t.trigger = s.trigger + 1 ∧ (ctxOf t b.ctx).failed = true ∧
      ∀ e ∈ t.blocks, e.2.ctx ≠ b.ctx)

/-- R286 to R296, R325, R512: the doorbell moves a queue's write index; a poll reads the wait words of a head; a packet that
fails its checks leaves with its record; one that passes becomes a grid with the next task number, whose first pod is placed:
its blocks on the cores that R295 picks, every launched lane at the entry, the arguments in q0 on. -/
def Obligations.Dispatch : Prop :=
  (∀ s queue v, queue < 128 → hostReady s = true →
    ∃ t, exec (.queueDoorbell queue v) s = .next t ∧ (lget {} queue t.queues).wridx = v.toNat ∧ t.polled = 0 ∧
      (∀ q, q ≠ queue → lget {} q t.queues = lget {} q s.queues) ∧ (lget {} queue t.queues).rdidx = (lget {} queue s.queues).rdidx ∧
      t = (fun x : State => { x with queues := t.queues, polled := 0 }) s) ∧
  (∀ s queue v, queue < 128 → hostReady s = true → (v.getLsbD 31 = true → v.toNat % 16 ≤ 12) → (lget {} queue s.queues).enabled = false →
    ∃ t, exec (.queueControlWrite queue v) s = .next t ∧ (lget {} queue t.queues).control = v &&& 0x80FF3F0F ∧
      (∀ q, q ≠ queue → lget {} q t.queues = lget {} q s.queues) ∧ t.mem = s.mem ∧ t.warps = s.warps ∧ t.grids = s.grids ∧
      ∀ c, ctxOf t c = if v.getLsbD 31 = true ∧ c = (v.toNat / 2 ^ 8) % 64 then (fun x : Ctx => { x with failed := false }) (ctxOf s c) else ctxOf s c) ∧
  (∀ s, ∀ e ∈ s.queues.head?, s.queues = [e] → (s.forks.all fun f => f.2.pending.isNone) = true → e.2.hasHead = true →
    ∃ t, exec .waitWordPoll s = .next t ∧ t.polled = max (timeOf s) 1 ∧ t.warps = s.warps ∧ (undamaged s → keepsMemory s t) ∧
      (lget {} e.1 t.queues).ready = (waitsMet e.2.ctx (waitList (headPacket e.2 s)) ((fun x : State => { x with polled := max (timeOf s) 1 }) s)).2) ∧
  (∀ s, s.pw.step = 3 → ∀ e ∈ s.queues.head?, s.queues = [e] → e.2.verdict = none → (s.forks.all fun f => f.2.pending.isNone) = true → e.2.hasHead = true →
    let p := headPacket e.2 s
    (∀ r, 1 ≤ r → r ≤ 9 → s.resvs = [] → (match (checkPacket e.2.ctx p s).2 with | .reject n => n == r | _ => false) = true →
      (completionWrites e.2.ctx p e.1 2 r (checkPacket e.2.ctx p s).1).2 = true →
      ∃ t, exec .dispatchDecision s = .next t ∧ (lget {} e.1 t.queues).rdidx = e.2.rdidx + 1 ∧ t.gridCount = s.gridCount ∧
        t.grids = s.grids ∧ t.blocks = s.blocks ∧ t.warps = s.warps) ∧
    (∀ x ∈ (match (checkPacket e.2.ctx p s).2 with | .pass o segs => some (o, segs) | _ => none),
      (e.2.ready = true ∨ p.nsig = 0) → p.deadline = 0 → e.2.act = none → p.graph = 0xFFFFFFFF → s.grids = [] → s.husks = [] → (∀ c ∈ s.copies, c.auto = false) →
      ctxBlocked s e.2.ctx = false → movingObject s e.2.ctx p.object = false → (∀ b ∈ s.blocks, b.1 < s.nextId) → (∀ w ∈ s.warps, w.1 < s.nextId) →
      ∀ cores ∈ podSpot (checkPacket e.2.ctx p s).1 [] (needOf p) p.pod [],
      let gid := s.gridCount % 0xFFFFFFFF + 1
      ∃ t, exec .dispatchDecision s = .next t ∧ t.gridCount = gid ∧ (lget {} e.1 t.queues).rdidx = e.2.rdidx + 1 ∧
        (∀ g ∈ lfind gid t.grids, g.pkt = p ∧ g.ctx = e.2.ctx ∧ g.obj = x.1 ∧ g.segs = x.2 ∧ g.placed = 1 ∧ g.left = p.x * p.y * p.z) ∧
        (lfind gid t.grids).isSome = true ∧
        t.blocks.length = s.blocks.length + p.pod ∧
        (∀ i, i < p.pod → (t.blocks.any fun b => b.2.gid == gid && b.2.core == cores.getD i 0 && b.2.x == i && b.2.pod == i &&
          b.2.ctx == e.2.ctx && b.2.cls == p.cls && b.2.nwarps == warpsOf p && b.2.alloc == allocBytes p) = true) ∧
        ∀ w ∈ t.warps, w ∉ s.warps → w.2.role = roleAt p w.2.num ∧ w.2.lanes = newLanes p w.2.num ∧
          (∀ y ∈ w.2.lanes, y.2.pc = BitVec.ofNat 32 p.entry) ∧ (∀ k, k < 8 * (p.qunits + 1) → k < 16 → lget 0 k w.2.r.q = p.args.getD k 0) ∧
          w.2.r.masks = [(0, laneSet ((newLanes p w.2.num).map fun y => y.1))] ∧ w.2.tw = w.2.r ∧ w.2.r.w = [] ∧ w.2.r.p = [] ∧ w.2.r.e = []))

/-- R167, R168, R257, R281, R286, R296, R310, R319, R323 to R326: what the host's writes do to the registers without
behaviour of their own and to those with: suspension, the end of a context, queue indices, invalidation, write-back, counters
that a write of 0 clears, and accesses through the memory window; that nothing lies beyond the window's size, and the place
of the control that sets it, are the model's choices (log 45), and so is that a winbase above 191 is not taken (log 53). -/
def Obligations.HostRegisters : Prop :=
  (∀ s, hostReady s = true →
    (∀ ctx v, ctx < 64 →
      ∀ e ∈ ([(0x000, fun c => c.ptroot), (0x008, fun c => c.tensbase), (0x010, fun c => c.tenscount), (0x018, fun c => c.regbase),
          (0x020, fun c => c.regcount), (0x028, fun c => c.objbase), (0x030, fun c => c.objcount), (0x038, fun c => c.savebase),
          (0x040, fun c => c.savesize), (0x048, fun c => c.diagbase), (0x050, fun c => c.diagsize), (0x058, fun c => c.fqbase),
          (0x078, fun c => c.eqbase), (0x098, fun c => lget 0 0 c.stackBase), (0x0A8, fun c => lget 0 1 c.stackBase),
          (0x0B8, fun c => lget 0 2 c.stackBase)] : List (Nat × (Ctx → Nat))),
      ∃ t, exec (.registerWrite (0x100000 + 4096 * ctx + e.1) v) s = .next t ∧ e.2 (ctxOf t ctx) = v.toNat ∧
        (∀ c, c ≠ ctx → ctxOf t c = ctxOf s c) ∧ t = (fun x : State => { x with ctxs := t.ctxs }) s) ∧
    (∀ v : BitVec 64, ∃ t, exec (.registerWrite 0x30 v) s = .next t ∧ t = (fun x : State => { x with rw := t.rw }) s ∧ t.rw.errvec = v) ∧
    (∀ v : BitVec 64, ∃ t, exec (.registerWrite 0x38 v) s = .next t ∧ t = (fun x : State => { x with rw := t.rw }) s ∧
      t.rw.winbase = if v.toNat ≤ 191 then v.toNat else s.rw.winbase) ∧
    (∀ v : BitVec 64, ∃ t, exec (.registerWrite resizeControl v) s = .next t ∧ t = (fun x : State => { x with rw := t.rw }) s ∧
      t.rw.winsize = if v.toNat ≤ 8 then v.toNat else s.rw.winsize) ∧
    (∀ off v, off % 8 ≠ 0 → exec (.registerWrite off v) s = .next s)) ∧
  (∀ s v off, hostReady s = false → exec (.registerWrite off v) s = .next s) ∧
  (∀ s ctx v, hostReady s = true → ctx < 64 → v.getLsbD 2 = false → ∀ i ∈ [Instr.contextSuspend ctx v, .contextEndRequest ctx v],
    ∃ t, exec i s = .next t ∧ (ctxOf t ctx).suspend = v.getLsbD 0 ∧ t.mem = s.mem ∧ ((∀ c, bindsWait s c = false) → t.warps = s.warps) ∧
      (v.getLsbD 0 = true → (ctxOf s ctx).suspend = false → keysRise s.blocks = true → ∀ b, (lfind b s.blocks).isSome = true →
        ((blkOf t b).stopAt.isSome = true ↔ (blkOf s b).stopAt.isSome = true ∨ (blkOf s b).ctx = ctx))) ∧
  (∀ s ctx v, hostReady s = true → ctx < 64 → v.getLsbD 2 = true → ∀ i ∈ [Instr.contextSuspend ctx v, .contextEndRequest ctx v],
    ∃ t, exec i s = .next t ∧ (ctxOf t ctx).failed = true ∧ (∀ e ∈ t.blocks, e.2.ctx ≠ ctx) ∧
      ∀ q ∈ t.queues, q.2.ctx = ctx → q.2.enabled = false) ∧
  (∀ s ctx v, hostReady s = true → ctx < 64 →
    ((ctxOf s ctx).fheld = [] →
      (∃ t, exec (.fqrdWrite ctx v) s = .next t ∧ (ctxOf t ctx).fqrd = v.toNat ∧ t.mem = s.mem ∧ (ctxOf t ctx).fqwr = (ctxOf s ctx).fqwr) ∧
      (∃ t, exec (.fqsizeWrite ctx v) s = .next t ∧ (ctxOf t ctx).fqsize = v.toNat ∧ t.mem = s.mem ∧ (ctxOf t ctx).fqwr = (ctxOf s ctx).fqwr)) ∧
    ((ctxOf s ctx).eheld = [] →
      (∃ t, exec (.eqrdWrite ctx v) s = .next t ∧ (ctxOf t ctx).eqrd = v.toNat ∧ t.mem = s.mem ∧ (ctxOf t ctx).eqwr = (ctxOf s ctx).eqwr) ∧
      (∃ t, exec (.eqsizeWrite ctx v) s = .next t ∧ (ctxOf t ctx).eqsize = v.toNat ∧ t.mem = s.mem ∧ (ctxOf t ctx).eqwr = (ctxOf s ctx).eqwr))) ∧
  (∀ s ctx, hostReady s = true → ctx < 64 →
    (∃ t, exec (.tlbinv ctx 1) s = .next t ∧ (ctxOf t ctx).tlbinv = true ∧ t = (fun x : State => { x with ctxs := t.ctxs }) s) ∧
    (∃ t, exec (.hintshortClear ctx 0) s = .next t ∧ (ctxOf t ctx).hintshort = 0 ∧ t = (fun x : State => { x with ctxs := t.ctxs }) s) ∧
    ∀ which, which < 4 → ∃ t, exec (.contextCounterClear ctx which 0) s = .next t ∧ t = (fun x : State => { x with ctxs := t.ctxs }) s ∧
      (let c := ctxOf s ctx
       [(ctxOf t ctx).uecnt, (ctxOf t ctx).rbcnt, (ctxOf t ctx).pucnt, (ctxOf t ctx).kcnt] = [c.uecnt, c.rbcnt, c.pucnt, c.kcnt].set which 0)) ∧
  (∀ s ctx, (ctxOf s ctx).tlbinv = true → ctx < 64 →
    ∃ t, exec (.tlbinvDone ctx) s = .next t ∧ (ctxOf t ctx).tlbinv = false ∧ t.mem = s.mem ∧ t.warps = s.warps ∧
      ∀ e, e ∈ t.tlb ↔ e ∈ s.tlb ∧ tlbCtx e.1 ≠ ctx) ∧
  (∀ s ch which, hostReady s = true → ch < 24 → which < 5 →
    ∃ t, exec (.channelCounterClear ch which 0) s = .next t ∧ t = (fun x : State => { x with chans := t.chans }) s ∧
      (let c := lget {} ch s.chans
       let d := lget {} ch t.chans
       [d.cecnt, d.ucnt, d.repcnt, d.abncnt, d.passcnt] = [c.cecnt, c.ucnt, c.repcnt, c.abncnt, c.passcnt].set which 0)) ∧
  (∀ s, hostReady s = true → ∃ t, exec (.l2wb 1) s = .next t ∧ t.rw.l2wb = true ∧ t = (fun x : State => { x with rw := t.rw }) s) ∧
  (∀ s, s.rw.l2wb = true → undamaged s → s.rw.dirtytab = 0 → keysRise s.l2 = true → (∀ e ∈ s.l2, isLocal (32 * e.1) = true) →
    (∀ sec, poisoned s sec = false) →
    ∃ t, exec .l2wbDone s = .next t ∧ t.rw.l2wb = false ∧ keepsMemory s t ∧ (∀ e ∈ t.l2, e.2.dirty = false) ∧ t.warps = s.warps) ∧
  (∀ s off len (data : List Byte), hostReady s = true → undamaged s →
    let pa := s.rw.winbase * 2 ^ 30 + off
    (2 ^ (30 + s.rw.winsize) < off + max len 1 → ∀ w, exec (.hostWindowAccess w off len data) s = .next s) ∧
    (off + max len 1 ≤ 2 ^ (30 + s.rw.winsize) → (s.resvs = [] → ∃ t, exec (.hostWindowAccess true off len data) s = .next t ∧ t.warps = s.warps ∧
      ∀ k, readByte t k = if pa ≤ k ∧ k < pa + min len data.length ∧ paOnline s k = true then data.getD (k - pa) 0 else readByte s k) ∧
    ∃ t, exec (.hostWindowAccess false off len data) s = .next t ∧ t.rw.readData.length = len ∧ keepsMemory s t ∧ t.warps = s.warps ∧
      ∀ j, j < len → (paOnline s (pa + j) = true → poisoned s ((pa + j) / 32) = false) → t.rw.readData.getD j 0 =
        if paOnline s (pa + j) then readByte s (pa + j) else 0xFF))

/-- R24, R240, R241, R256, R258, R260, R261, R294, R296, R303, R317, R328 to R330: a mailbox command of a ready device that
runs none leaves its tag and status, and its effect; PARTOFF, PARTFMT and CODEMOVE run on until they are done, with bit 31 of
the status word set beside their tag. That a command word is ignored while a command runs (log 25), and that HISTREAD fills
its buffer with zeros past the history (log 26), are the model's choices. -/
def Obligations.MailboxCommands : Prop :=
  (∀ s tag, hostReady s = true → s.rw.running = none → s.pw.recovery = false →
    (∀ part : BitVec 64, let p := lget {} part.toNat s.parts
      (∃ t, exec (.parton tag part) s = .next t ∧ answers t tag (if 96 ≤ part.toNat then 2 else if p.state = 0 ∧ p.formatted = true then 0 else 1) ∧
        (part.toNat < 96 → p.state = 0 → p.formatted = true → (lget {} part.toNat t.parts).state = 2) ∧ t.mem = s.mem) ∧
      (part.toNat < 96 → p.state = 2 → ∃ t, exec (.partoff tag part) s = .next t ∧ runsOn t tag 0x40 [part.toNat] ∧
        (∀ e ∈ t.tlb, partMapped part.toNat e.2 = false) ∧ t.mem = s.mem) ∧
      (96 ≤ part.toNat ∨ p.state ≠ 2 → ∃ t, exec (.partoff tag part) s = .next t ∧ answers t tag (if 96 ≤ part.toNat then 2 else 1) ∧ t.parts = s.parts) ∧
      ∀ cls : BitVec 64, (part.toNat < 96 → cls.toNat < 3 → p.state = 0 →
        ∃ t, exec (.partfmt tag part cls) s = .next t ∧ runsOn t tag 0x41 [part.toNat, cls.toNat] ∧ (lget {} part.toNat t.parts).state = 1) ∧
        (96 ≤ part.toNat ∨ 3 ≤ cls.toNat ∨ p.state ≠ 0 →
          ∃ t, exec (.partfmt tag part cls) s = .next t ∧ answers t tag (if 96 ≤ part.toNat ∨ 3 ≤ cls.toNat then 2 else 1) ∧ t.parts = s.parts)) ∧
    (∀ ch period window : BitVec 64,
      let bad := 24 < ch.toNat ∨ (period ≠ 0 ∧ (period.toNat < 3600 ∨ 2 ^ 31 < period.toNat)) ∨ window.toNat < 60 ∨ 86400 < window.toNat
      ∃ t, exec (.scrubset tag ch period window) s = .next t ∧ (bad → answers t tag 2 ∧ t.chans = s.chans) ∧
        (¬ bad → answers t tag 0 ∧ ∀ c, c < 24 → (lget {} c t.chans).period = if ch.toNat = 24 ∨ ch.toNat = c then period.toNat else (lget {} c s.chans).period)) ∧
    (∀ pa : BitVec 64, ∃ t, exec (.retire tag pa) s = .next t ∧
      (pa.toNat % 4096 = 0 → pa.toNat < localSize → s.retired.length < 4096 → answers t tag 0 ∧ pa.toNat ∈ t.retired ∧ ∀ x ∈ s.retired, x ∈ t.retired) ∧
      (pa.toNat % 4096 ≠ 0 ∨ localSize ≤ pa.toNat → answers t tag 2 ∧ t.retired = s.retired)) ∧
    (∀ ctx value : BitVec 64, ctx.toNat < 64 → 0 < value.toNat → value.toNat < 2 ^ 32 →
      ∃ t, exec (.budget tag ctx value) s = .next t ∧ answers t tag 0 ∧ (ctxOf t ctx.toNat).ebud = value.toNat ∧ t.mem = s.mem) ∧
    (∀ ctx : BitVec 64, ∃ t, exec (.resume tag ctx) s = .next t ∧ t.mem = s.mem ∧
      answers t tag (if 64 ≤ ctx.toNat then 2 else if (ctxOf s ctx.toNat).ebud = 0 ∨ (ctxOf s ctx.toNat).exhausted = false then 1 else 0) ∧
      (ctx.toNat < 64 → (ctxOf s ctx.toNat).ebud ≠ 0 → (ctxOf t ctx.toNat).exhausted = false)) ∧
    (∀ ch buf : BitVec 64, ch.toNat < 24 → (lget ({} : Chan) ch.toNat s.chans).hist.length ≤ 64 → ∃ t, exec (.histread tag ch buf) s = .next t ∧ answers t tag 0 ∧
      ∀ i, i < 64 → leNat (readBytes t (hostBase + buf.toNat + 8 * i) 8) = ((lget ({} : Chan) ch.toNat s.chans).hist.getD i (0, false)).1.toNat) ∧
    (∀ us : BitVec 64, ∃ t, exec (.schedset tag us) s = .next t ∧ answers t tag (if 1000000 < us.toNat then 2 else 0) ∧
      t.margin = if 1000000 < us.toNat then s.margin else us.toNat) ∧
    (∀ ctx off buf : BitVec 64, ∃ t, exec (.huskexp tag ctx off buf) s = .next t ∧
      answers t tag (if (huskAt s ctx.toNat off.toNat).isSome then 0 else 2) ∧ t.husks = s.husks ∧
      ∀ k, isLocal k = true → readByte t k = readByte s k) ∧
    (∀ ctx off buf : BitVec 64, ∃ t, exec (.huskimp tag ctx off buf) s = .next t ∧
      answers t tag (if (huskAt s ctx.toNat off.toNat).isSome then 0 else 2) ∧ t.mem = s.mem ∧
      ∀ e ∈ huskAt s ctx.toNat off.toNat, ∀ v ∈ lfind e.1 t.husks, v.blk = e.2.blk ∧ v.warps = e.2.warps ∧ v.codes.length = unitCount e.2.blk) ∧
    (∀ queue act : BitVec 64, let q := lget {} queue.toNat s.queues
      ∃ t, exec (.lateact tag queue act) s = .next t ∧
        answers t tag (if 127 < queue.toNat ∨ 1 < act.toNat then 2 else if q.reported = false then 1 else 0) ∧
        (queue.toNat ≤ 127 → act.toNat ≤ 1 → q.reported = true →
          (lget {} queue.toNat t.queues).reported = false ∧ (lget {} queue.toNat t.queues).act = some act.toNat)) ∧
    (∀ ctx handle base : BitVec 64, ctx.toNat < 64 → base.toNat % 64 = 0 → base.toNat < 2 ^ 56 → handle.toNat < 2 ^ 32 →
      (match (readObject ctx.toNat handle.toNat s).2 with | .bad => false | _ => true) = true →
      ∃ t, exec (.codemove tag ctx handle base) s = .next t ∧ runsOn t tag 0x54 [ctx.toNat, handle.toNat, base.toNat] ∧
        ∀ b ∈ objectBlocks s ctx.toNat handle.toNat, (blkOf t b).stopAt.isSome = true) ∧
    (∀ watts : BitVec 64, ∃ t, exec (.powerset tag watts) s = .next t ∧
      answers t tag (if s.pw.fuse = true then 1 else if watts.toNat < 300 ∨ 720 < watts.toNat then 2 else 0) ∧
      t.pw.limit = if s.pw.fuse = false ∧ 300 ≤ watts.toNat ∧ watts.toNat ≤ 720 then watts.toNat else s.pw.limit) ∧
    (∀ buf : BitVec 64, ∃ t, exec (.ident tag buf) s = .next t ∧ answers t tag 0 ∧
      readBytes t (hostBase + buf.toNat) (Config.identBytes ()).length = Config.identBytes ()) ∧
    (∀ buf n0 n1 n2 n3 n4 n5 : BitVec 64, ∃ t, exec (.attest tag buf [n0, n1, n2, n3, n4, n5]) s = .next t ∧ answers t tag 0 ∧
      leNat (readBytes t (hostBase + buf.toNat) 4) = 0x54415856 ∧
      readBytes t (hostBase + buf.toNat + 76) 48 = [n0, n1, n2, n3, n4, n5].flatMap fun w => leBytes 8 w.toNat) ∧
    (∀ buf len : BitVec 64, ∃ t, exec (.fwload tag buf len) s = .next t ∧ answers t tag 1 ∧ t.pw = s.pw) ∧
    (∀ code, code.toNat ∉ assignedCodes → ∃ t, exec (.mailboxUnassigned tag code) s = .next t ∧ answers t tag 2 ∧ t.mem = s.mem)) ∧
  (∀ s, ∀ a ∈ s.rw.running, ∀ p : Nat, a = (0x40, [p]) → partBusy s p = false →
    ∃ t, exec .partoffDone s = .next t ∧ answers t (BitVec.ofNat 16 (runningTag s)) 0 ∧ (lget {} p t.parts).state = 0 ∧ t.warps = s.warps) ∧
  (∀ s, ∀ a ∈ s.rw.running, ∀ p c : Nat, a = (0x41, [p, c]) →
    ∃ t, exec .partfmtDone s = .next t ∧ answers t (BitVec.ofNat 16 (runningTag s)) 0 ∧
      lget {} p t.parts = { cls := c, state := 0, formatted := true } ∧
      (∀ k, p < 96 → readByte t k = if inPart p k then 0 else readByte s k) ∧
      (∀ e ∈ t.poison, inPart p (32 * e.1) = false) ∧ ∀ e ∈ t.l2, inPart p (32 * e.1) = false) ∧
  (∀ s, ∀ a ∈ s.rw.running, ∀ ctx handle base : Nat, a = (0x54, [ctx, handle, base]) →
    (s.warps.all fun e => !(objectBlocks s ctx handle).contains e.2.bid || warpSettled e.2) = true →
    ∀ o ∈ (match readObject ctx handle s with | (x, .ok o) => some (x, o) | _ => (none : Option (State × Obj))),
    ∀ n ∈ (match devGet ctx (o.2.base + 8) 4 o.1 with | (x, .bytes b) => some (x, leNat b) | _ => (none : Option (State × Nat))), imageLocked n.1 ctx o.2.base n.2 = false →
    ∀ m ∈ (match devGet ctx o.2.base n.2 n.1 with | (x, .bytes b) => some (x, b) | _ => (none : Option (State × List Byte))),
    ∀ ds ∈ (match (writeKeys ctx (((ctxOf m.1 ctx).objbase + 16 * (handle % 2 ^ 20)) :: rangePages base n.2) m.1).2 with | .ok l => some l | _ => none),
    ∃ t, exec .codemoveCopy s = .next t ∧ answers t (BitVec.ofNat 16 (runningTag s)) 0 ∧
      (∀ g ∈ t.grids, g.2.ctx = ctx → g.2.pkt.object = handle → g.2.obj.base = base) ∧
      (∀ b ∈ objectBlocks s ctx handle, (blkOf s b).moveStop = true → (blkOf t b).stopAt = none)) ∧
  (∀ s tag buf len, hostReady s = true → s.rw.running = none → s.pw.recovery = true →
    let f := Config.imageOf (readBytes s (hostBase + buf.toNat) len.toNat)
    (Config.sigOk f.1 f.2.2.2 = true → s.pw.rollback ≤ f.2.1 →
      ∃ t, exec (.fwload tag buf len) s = .next t ∧ answers t tag 0 ∧ t.pw.recovery = false ∧ t.pw.fwbody = f.1 ∧
        t.pw.rollback = if s.pw.rollback < f.2.1 then s.pw.rollback + 1 else s.pw.rollback) ∧
    ((Config.sigOk f.1 f.2.2.2 = false ∨ f.2.1 < s.pw.rollback) →
      ∃ t, exec (.fwload tag buf len) s = .next t ∧ (answers t tag 1 ∨ answers t tag 2) ∧ t.pw = s.pw) ∧
    ∀ us, ∃ t, exec (.schedset tag us) s = .next t ∧ answers t tag 1 ∧ t.margin = s.margin)

/-- R23, R324, R329, R331, R332: bring-up goes through its three steps to a ready device; every reset empties the device and
keeps host memory, pins and fuses and gives local memory its reset value (what a reset keeps is the model's choice, logs 8, 9
and 23); power limiting withholds issue. -/
def Obligations.PowerAndReset : Prop :=
  (∀ s, ∃ t, exec .perstnFall s = .next t ∧ isReset s t ∧ t.pw.perst = false) ∧
  (∀ s, s.pw.perst = false → ∃ t, exec .perstnRise s = .next t ∧ isReset s t ∧ t.pw.perst = true) ∧
  (∀ s, ∃ t, exec .supplyLoss s = .next t ∧ isReset s t ∧ t.pw.supply = false ∧ t.pw.rails = false) ∧
  (∀ s, s.pw.supply = false → ∃ t, exec .supplyReturn s = .next t ∧ isReset s t ∧ t.pw.supply = true ∧ t.pw.rails = true ∧ t.pw.thermal = false) ∧
  (∀ s, s.pw.rails = true → ∃ t, exec .thermalShutdown s = .next t ∧ isReset s t ∧ t.pw.rails = false ∧ t.pw.thermal = true) ∧
  (∀ s, hostReady s = true → (∃ t, exec (.deviceResetWrite 0xA5A5) s = .next t ∧ isReset s t) ∧
    ∀ v, v ≠ 0xA5A5 → exec (.deviceResetWrite v) s = .next s) ∧
  (∀ s body version secver sig, powered s = true → s.pw.step = 0 →
    let image : FwImage := { body := body, secver := secver, version := version, sig := sig }
    (imageOk image s = true → ∃ t, exec (.firmwareVerification image) s = .next t ∧ t.pw.step = 1 ∧ t.pw.recovery = false ∧
      t.pw.fwbody = body ∧ t.pw.fwversion = version ∧ t.pw.secver = secver ∧
      t.pw.rollback = (if s.pw.rollback < secver then s.pw.rollback + 1 else s.pw.rollback) ∧ t = (fun x : State => { x with pw := t.pw }) s) ∧
    (imageOk image s = false → ∃ t, exec (.firmwareVerification image) s = .next t ∧ t.pw.step = 1 ∧ t.pw.recovery = true ∧
      t.pw.rollback = s.pw.rollback ∧ t = (fun x : State => { x with pw := t.pw }) s)) ∧
  (∀ s, powered s = true →
    (s.pw.step = 1 → ∃ t, exec .port0LinkTraining s = .next t ∧ t.pw.step = 2 ∧ t = (fun x : State => { x with pw := t.pw }) s) ∧
    (s.pw.step = 2 → ∃ t, exec .memoryTraining s = .next t ∧ t.pw.step = 3 ∧ t.pw.trained = true ∧ t = (fun x : State => { x with pw := t.pw }) s) ∧
    (∃ t, exec .powerLimitExceeded s = .next t ∧ t.pw.limited = true ∧ t = (fun x : State => { x with pw := t.pw }) s)) ∧
  (∀ s, ∃ t, exec .powerBelowLimit s = .next t ∧ t.pw.limited = false ∧ t = (fun x : State => { x with pw := t.pw }) s)

/-- R236 to R238, R258, R259, R339, R351: an upset changes stored bits, and one wrong symbol of Assured memory changes no
byte that memory delivers; a struck second-level sector is poisoned, a struck first-level line is dropped, a struck word of a
register or a local store reads as zero from then on, in a block of any class (the model's choice, log 17), and is marked,
and where correction suffices nothing but its count changes; the scrubber goes on to the next row and counts a pass; a word
that is no instruction traps with cause 0x01. -/
def Obligations.ErrorsAndIllegalWords : Prop :=
  (∀ s pa pat, ∃ t, exec (.storageError (.data pa pat)) s = .next t ∧
    (∀ k, lget 0 k t.mem = if k = pa ∧ pa < localSize then lget 0 k s.mem ^^^ pat else lget 0 k s.mem) ∧
    (∀ k, lget 0 k t.dmgData = if k = pa ∧ pa < localSize ∧ (partOf s pa).cls ≠ 0 then lget 0 k s.dmgData ^^^ pat else lget 0 k s.dmgData) ∧
    t = (fun x : State => { x with mem := t.mem, dmgData := t.dmgData }) s ∧
    (undamaged s → (partOf s pa).cls = 2 → keepsMemory s t)) ∧
  (∀ s unit k pat, ∃ t, exec (.storageError (.check unit k pat)) s = .next t ∧
    (∀ j, lget 0 j t.dmgCheck = if j = 8 * unit + k ∧ 64 * unit < localSize ∧ k < [0, 2, 8, 0].getD (partOf s (64 * unit)).cls 0
      then lget 0 j s.dmgCheck ^^^ pat else lget 0 j s.dmgCheck) ∧
    t = (fun x : State => { x with dmgCheck := t.dmgCheck }) s) ∧
  (∀ s core sec, ∃ t, exec (.storageError (.level1 core sec)) s = .next t ∧
    (∀ k, lfind k t.l1 = if k / 2 ^ 80 = core ∧ k % 2 ^ 80 / 4 = sec / 4 then none else lfind k s.l1) ∧
    t = (fun x : State => { x with l1 := t.l1 }) s) ∧
  (∀ s sec many, (lfind sec s.l2).isSome = true → ∃ t, exec (.storageError (.level2 sec many)) s = .next t ∧ keepsMemory s t ∧
    (∀ k, poisoned t k = (poisoned s k || (many && k == sec))) ∧
    ∀ c, (lget {} c t.chans).cecnt = if many = false ∧ c = chanOf (32 * sec) then satInc (lget {} c s.chans).cecnt else (lget {} c s.chans).cecnt) ∧
  (∀ s wk kind reg lane twin many, (lfind wk s.warps).isSome = true → regExists (blkOf s (warpOf s wk).bid) kind reg lane = true →
    ∃ t, exec (.storageError (.reg wk kind reg lane twin many)) s = .next t ∧ t.mem = s.mem ∧ t.blocks = s.blocks ∧
      (∀ k, k ≠ wk → warpOf t k = warpOf s k) ∧ (many = false → t.warps = s.warps) ∧
      (many = true →
        let r := fun (x : State) => if twin then (warpOf x wk).tw else (warpOf x wk).r
        (r t).bad = (kind, reg, lane) :: (r s).bad ∧
        (kind = 0 → ∀ k, lget 0 k (r t).w = if k = laneKey reg lane then 0 else lget 0 k (r s).w) ∧
        (kind = 1 → ∀ k, lget 0 k (r t).q = if k = reg then 0 else lget 0 k (r s).q) ∧
        (kind = 2 → ∀ k, lget false k (r t).p = if k = laneKey reg lane then false else lget false k (r s).p) ∧
        (kind = 3 → ∀ k, lget 0 k (r t).e = if k = laneKey reg lane then 0 else lget 0 k (r s).e))) ∧
  (∀ s bid space addr many, (lfind bid s.blocks).isSome = true → addr < (blkOf s bid).alloc.getD space 0 →
    ∃ t, exec (.storageError (.store bid space addr many)) s = .next t ∧ t.mem = s.mem ∧ t.warps = s.warps ∧
      (many = true → lfind (storeKey space addr / 4) (blkOf t bid).bad = some true ∧
        ∀ k, lget 0 k (blkOf t bid).ls = if k / 4 = storeKey space addr / 4 then 0 else lget 0 k (blkOf s bid).ls) ∧
      (many = false → t.blocks = s.blocks)) ∧
  (∀ s ch, scrubDue s ch = true → undamaged s →
    ∃ t, exec (.patrolScrubRow ch) s = .next t ∧ keepsMemory s t ∧ t.warps = s.warps ∧ t.blocks = s.blocks ∧
      (let c := lget {} ch s.chans
       let row := (nextRow s ch c.row).getD ((nextRow s ch 0).getD 0)
       (lget {} ch t.chans).row = (if (nextRow s ch (row + 1)).isNone then 0 else row + 1) ∧
         (lget {} ch t.chans).passcnt = (if (nextRow s ch (row + 1)).isNone then satInc c.passcnt else c.passcnt)) ∧
      ∀ c, c ≠ ch → lget {} c t.chans = lget {} c s.chans) ∧
  (∀ s w, s.iss.live = true → illegalWord w = true → mayTrap s → isAssured s = false → (lfind s.iss.wk s.warps).isSome = true →
    ∀ h ∈ handlerOf s s.iss.bid,
    ∃ t, exec (.illegalInstruction w) s = .next t ∧ entersHandler s t s.iss.lanes 0x01 false s.iss.pc 0 h ∧
      othersStand s t s.iss.lanes)

/-- R35, R36, R244, R339, R349, R511: the agenda's head is what a step runs; else the chosen bundle of the next quarter,
where it has an instruction to issue, is executed, at the state that the choice leaves with the bundle as its issue; a twin
that is chosen takes the next entry of its trace; the words of a clause come from memory, little-endian, and the instruction
of a bundle is what its word decodes to. -/
def Obligations.StepRunsTheDecodedInstruction : Prop :=
  (∀ s i l, s.agenda = i :: l → step s = exec i { s with agenda := l }) ∧
  (∀ s q wk bs b iss i, nextBundle s q wk bs b → b.prep = .go iss i →
    let u := (fun x : State => { x with iss := iss }) (atIssue q wk b bs s)
    (warpOf u wk).async = [] → (regsOf u).bad = [] → (blkOf u iss.bid).badCtl = [] → iss.live = true ∧ step s = exec i u) ∧
  (∀ s q k bs b e, nextBundle s q k bs b → b.prep = .follow e → step s = twinIssue exec (k - 2 ^ 40) e (atIssue q k b bs s)) ∧
  (∀ s bid off tr u, off.toNat < (gridOf s (blkOf s bid).gid).obj.textLen →
    (let va := textBase (gridOf s (blkOf s bid).gid) + off.toNat
     lockHit s bid 5 va (va + 4) = false → lfind (icacheKey (blkOf s bid).core (blkOf s bid).ctx va) s.icache = none →
     translate (blkOf s bid).core (blkOf s bid).ctx (revOf s bid) va .fetch 3 s = (u, .ok tr) → isLocal tr.pa = true → undamaged u →
     (blkOf s bid).uncommitted = [] → codePending u (· == bid) (tr.pa + va % 4096) va = false →
     poisoned u ((tr.pa + va % 4096) / 32) = false →
     ∃ t, fetchWord bid off s = (t, .word (BitVec.ofNat 32 (leNat (readBytes u (tr.pa + va % 4096) 4)))))) ∧
  (∀ core bid wk ls hoff hdr pc words i, opPrefix (opByte (lget 0 pc.toNat words)) = false →
    decode (wordBytes (lget 0 pc.toNat words)) = .ok (i, []) →
    instrAt core bid wk ls hoff hdr pc words = .go (issueAt core bid wk ls hoff hdr pc (pc + 4) (clauseEnd hoff hdr) 0 false) i) ∧
  (∀ core bid wk ls hoff hdr pc words i, opPrefix (opByte (lget 0 pc.toNat words)) = true → pfxLegal (lget 0 pc.toNat words) = true →
    pc + 4 ≠ clauseEnd hoff hdr → opPrefix (opByte (lget 0 (pc + 4).toNat words)) = false →
    decode (wordBytes (lget 0 (pc + 4).toNat words)) = .ok (i, []) →
    instrAt core bid wk ls hoff hdr pc words =
      .go (issueAt core bid wk ls hoff hdr pc (pc + 8) (clauseEnd hoff hdr) (lget 0 pc.toNat words) true) i) ∧
  (∀ s wk ls hoff hdr pc, (∀ o ∈ offsets pc ((headerOf hdr).count.toNat + 1 - (pc - hoff).toNat / 4), (lfind o.toNat (warpOf s wk).fetched).isSome = true) →
    (∀ e ∈ (warpOf s wk).lanes, ls.getLsbD e.1 = true → e.2.refetch = false) →
    prepare wk (pc, some (hoff, hdr), ls) s =
      (s, instrAt (blkOf s (warpOf s wk).bid).core (warpOf s wk).bid wk ls hoff hdr pc (warpOf s wk).fetched))

/-- R3, R341, R345, R350, R352: a few words written out from the spec's tables decode to the instructions that they stand
for. -/
def Obligations.WordsDecode : Prop :=
  decodeWord 0x01080818#32 = .ok (.iadd 4 2 3 0) ∧ decodeWord 0x460A1030#32 = .ok (.lmul 5 4 6 0) ∧
  decodeWord 0x30041080#32 = .ok (.qadd 1 1 2 0) ∧ decodeWord 0xE0FFFFD1#32 = .ok (.bra 0x1FFFFA 1) ∧
  pfxOf 0xF8A00200#32 = ⟨2, true, 0, 0, false, true, false, 0⟩ ∧ pfxLegal 0xF8A00200#32 = true ∧
  headerOf 0xAA0008BD#32 = ⟨5, 5, 0, 2, 2, 15, 1⟩ ∧
  decodeWord 0b10000000_0000100_0000110_0011_010_000#32 = .ok (.ld 4 6 3 2 0) ∧
  decodeWord 0b10001010_0000100_0000110_0011_1_00_011#32 = .ok (.atomAdd 4 6 3 1 0 3) ∧
  decodeWord 0b11010000_001000_000000_000000_00000_1#32 = .ok (.cpyin 8 1) ∧
  decodeWord 0b11000001_000100_000000_000000_00000_0#32 = .ok (.mloop 4 0) ∧
  decodeWord 0b01110110_010_0011_1_00_0101_0000000_001#32 = .ok (.vote 2 3 1 5 0 1) ∧
  decodeWord 0b11110100_0000111_0000000_0000010000#32 = .ok (.sread 7 0x10) ∧
  decodeWord 0x7F000000#32 = .error .unassigned ∧ decodeWord 0x1D000008#32 = .error .reserved

/-- R341 to R359: encoding a legal instruction and decoding the word's bytes gives the instruction back, with every operand
at every value; and a word that decodes is the encoding of the legal instruction it decodes to, so that no bit of it is
dropped. -/
def Obligations.EncodeDecode : Prop :=
  (∀ i w rest, i.wf = true → encode i = some w → decode (wordBytes w ++ rest) = .ok (i, rest)) ∧
  (∀ bs i rest, decode bs = .ok (i, rest) → i.wf = true ∧ ∃ w, encode i = some w ∧ bs = wordBytes w ++ rest)

/-- Memory stays in its one canonical form (addresses strictly rising, no entry equal to what an unlisted address reads as,
log 8) in every step, from every state in which it has it. The form is the model's own choice of how to hold the bytes of the
spec's address spaces. -/
def Obligations.MemoryFormKept : Prop :=
  ∀ s t, Memory.wf s.mem = true → step s = .next t → Memory.wf t.mem = true

/-- An instruction that a bundle issues, and every event of the device and its host, has a next state; only an instruction
without a bundle stops, by its own name; a step of the device goes on wherever no such instruction heads its agenda; and
nothing is refused. That an instruction without a bundle stops is the model's choice (log 3). -/
def Obligations.NothingElseStops : Prop :=
  (∀ s i, s.iss.live = true ∨ encode i = none → ∃ t, exec i s = .next t) ∧
  (∀ s i, s.iss.live = false → (encode i).isSome = true → exec i s = .fault .noBundle) ∧
  (∀ s, (∀ i ∈ s.agenda.head?, encode i = none) → goesOn s) ∧ (∀ s i r, exec i s ≠ .refused r)

/-- R24, R239, R256, R258, R326, R332, R512: right after reset every partition is offline, of class 0 and unformatted,
budgets are 0xFFFFFFFF, queue indices are zero, scrubbers have their default period and window, the count of grids is 0, the
die limit is 400 W with the fuse intact, and nothing runs. By the model's choice (logs 7, 8, 9) every byte reads 0, the fuse
is intact and the trigger count starts at 0. -/
def Obligations.AfterReset : Prop :=
  let s := State.reset
  Memory.wf s.mem = true ∧ (∀ p, p < 96 → (lget ({} : Part) p s.parts).state = 0 ∧ (lget ({} : Part) p s.parts).cls = 0 ∧
    (lget ({} : Part) p s.parts).formatted = false) ∧
  (∀ c, (ctxOf s c).ebud = 0xFFFFFFFF ∧ (ctxOf s c).fqwr = 0 ∧ (ctxOf s c).fqrd = 0 ∧ (ctxOf s c).eqwr = 0 ∧ (ctxOf s c).eqrd = 0) ∧
  (∀ c, c < 24 → (lget ({} : Chan) c s.chans).period = 86400 ∧ (lget ({} : Chan) c s.chans).window = 3600) ∧
  s.gridCount = 0 ∧ s.trigger = 0 ∧ s.pw.limit = 400 ∧ s.pw.fuse = false ∧ s.pw.step = 0 ∧ s.clock = 0 ∧
  s.warps = [] ∧ s.blocks = [] ∧ s.grids = [] ∧ (∀ a, readByte s a = 0)
end

