-- ==== Sys2Proof/Laws/SMap.lean ====
section
/-! SUPPORT. What the sparse maps do: reading after writing, and that every operation keeps the keys rising. -/

set_option Elab.async false

namespace Sys2Proof.Machine

variable {α β : Type}

@[simp] theorem lfind_nil (k : Nat) : lfind k ([] : SMap α) = none := rfl

theorem lfind_cons (k j : Nat) (v : α) (t : SMap α) : lfind k ((j, v) :: t) = if j = k then some v else lfind k t := rfl

/-- Listing a value under a key: that key reads it, every other key as before. -/
theorem lfind_lput (k j : Nat) (v : α) (m : SMap α) : lfind j (lput k v m) = if k = j then some v else lfind j m := by
  induction m with
  | nil => simp [lput, lfind]
  | cons e t ih =>
    obtain ⟨i, u⟩ := e
    unfold lput
    split
    · simp [lfind]
    · split
      · simp only [lfind]; grind
      · simp only [lfind, ih]; grind

/-- Removing a key. -/
theorem lfind_ldel (k j : Nat) (m : SMap α) : lfind j (ldel k m) = if k = j then none else lfind j m := by
  induction m with
  | nil => simp [ldel, lfind]
  | cons e t ih =>
    obtain ⟨i, u⟩ := e
    unfold ldel at ih ⊢
    simp only [List.filter_cons, lfind_cons]
    by_cases h : i = k
    · subst h; simp; grind
    · simp [h, lfind_cons, ih]; grind

/-- Reading a map with a default after a set. -/
theorem lget_lset [BEq α] [LawfulBEq α] (d : α) (k j : Nat) (v : α) (m : SMap α) :
    lget d j (lset d k v m) = if k = j then v else lget d j m := by
  unfold lget lset
  by_cases h : v = d
  · subst h; simp [lfind_ldel]; grind
  · have : (v == d) = false := by simpa using h
    simp [this, lfind_lput]; grind

@[simp] theorem lget_lset_same [BEq α] [LawfulBEq α] (d : α) (k : Nat) (v : α) (m : SMap α) : lget d k (lset d k v m) = v := by
  simp [lget_lset]

theorem lget_lset_other [BEq α] [LawfulBEq α] (d : α) {k j : Nat} (h : k ≠ j) (v : α) (m : SMap α) :
    lget d j (lset d k v m) = lget d j m := by simp [lget_lset, h]

/-- Changing a listed entry. -/
theorem lfind_lmod (k j : Nat) (f : α → α) (m : SMap α) :
    lfind j (lmod k f m) = if k = j then (lfind j m).map f else lfind j m := by
  induction m with
  | nil => simp [lmod, lfind]
  | cons e t ih =>
    obtain ⟨i, u⟩ := e
    unfold lmod
    split <;> simp only [lfind, ih] <;> grind

/-- Changing every entry. -/
theorem lfind_lmap (f : Nat → α → β) (j : Nat) (m : SMap α) : lfind j (lmap f m) = (lfind j m).map (f j) := by
  induction m with
  | nil => rfl
  | cons e t ih =>
    obtain ⟨i, u⟩ := e
    unfold lmap at ih ⊢
    simp only [List.map_cons, lfind_cons, ih]
    grind

/-- A map with a default, one entry of which changes. -/
theorem lget_lmod (d : α) (k j : Nat) (f : α → α) (m : SMap α) :
    lget d j (lmod k f m) = if k = j ∧ (lfind j m).isSome then f (lget d j m) else lget d j m := by
  unfold lget
  rw [lfind_lmod]
  cases h : lfind j m <;> simp <;> grind

/-- Every key of a map lies above a bound. -/
def keysAbove (b : Nat) (m : SMap α) : Prop := ∀ e ∈ m, b < e.1

theorem keysRise_cons (i : Nat) (u : α) (t : SMap α) : keysRise ((i, u) :: t) = true ↔ keysAbove i t ∧ keysRise t = true := by
  induction t generalizing i u with
  | nil => simp [keysRise, keysAbove]
  | cons e t ih =>
    obtain ⟨j, v⟩ := e
    simp only [keysRise, Bool.and_eq_true, decide_eq_true_eq, keysAbove, List.mem_cons, forall_eq_or_imp]
    constructor
    · rintro ⟨h, k⟩
      refine ⟨⟨h, fun e he => ?_⟩, k⟩
      exact Nat.lt_trans h (((ih j v).1 k).1 e he)
    · rintro ⟨⟨h, _⟩, k⟩
      exact ⟨h, k⟩

theorem keysRise_tail {e : Nat × α} {t : SMap α} (h : keysRise (e :: t) = true) : keysRise t = true :=
  ((keysRise_cons e.1 e.2 t).1 h).2

theorem mem_lput {k : Nat} {v : α} {e : Nat × α} {m : SMap α} (h : e ∈ lput k v m) : e = (k, v) ∨ e ∈ m := by
  induction m with
  | nil => simpa [lput] using h
  | cons x t ih =>
    obtain ⟨i, u⟩ := x
    unfold lput at h
    split at h
    · simpa using h
    · split at h
      · simp at h ⊢; grind
      · simp at h ⊢; grind

theorem keysRise_lput {k : Nat} {v : α} {m : SMap α} (h : keysRise m = true) : keysRise (lput k v m) = true := by
  induction m with
  | nil => rfl
  | cons e t ih =>
    obtain ⟨i, u⟩ := e
    have h' := (keysRise_cons i u t).1 h
    unfold lput
    split
    · rename_i hk
      exact (keysRise_cons _ _ _).2 ⟨fun e he => by
        rcases List.mem_cons.1 he with rfl | he
        · exact hk
        · exact Nat.lt_trans hk (h'.1 e he), h⟩
    · split
      · rename_i hk; subst hk
        exact (keysRise_cons _ _ _).2 h'
      · refine (keysRise_cons _ _ _).2 ⟨fun e he => ?_, ih h'.2⟩
        rcases mem_lput he with rfl | he
        · simp; omega
        · exact h'.1 e he

theorem keysRise_filter {p : Nat × α → Bool} {m : SMap α} (h : keysRise m = true) : keysRise (m.filter p) = true := by
  induction m with
  | nil => rfl
  | cons e t ih =>
    obtain ⟨i, u⟩ := e
    have h' := (keysRise_cons i u t).1 h
    simp only [List.filter_cons]
    split
    · exact (keysRise_cons _ _ _).2 ⟨fun e he => h'.1 e (List.mem_filter.1 he).1, ih h'.2⟩
    · exact ih h'.2

theorem keysRise_ldel {k : Nat} {m : SMap α} (h : keysRise m = true) : keysRise (ldel k m) = true := keysRise_filter h

theorem keysRise_lset [BEq α] {d : α} {k : Nat} {v : α} {m : SMap α} (h : keysRise m = true) :
    keysRise (lset d k v m) = true := by
  unfold lset
  split
  · exact keysRise_ldel h
  · exact keysRise_lput h

theorem mem_lset [BEq α] {d : α} {k : Nat} {v : α} {e : Nat × α} {m : SMap α} (h : e ∈ lset d k v m) :
    (e = (k, v) ∧ (v == d) = false) ∨ e ∈ m := by
  unfold lset at h
  split at h
  · exact .inr (List.mem_filter.1 h).1
  · rename_i hv
    rcases mem_lput h with h | h
    · exact .inl ⟨h, by simpa using hv⟩
    · exact .inr h

theorem lfind_filter_other {p : Nat × α → Bool} {k : Nat} {m : SMap α} (h : ∀ v, p (k, v) = true) :
    lfind k (m.filter p) = lfind k m := by
  induction m with
  | nil => rfl
  | cons e t ih =>
    obtain ⟨i, u⟩ := e
    simp only [List.filter_cons]
    by_cases hi : i = k
    · subst hi; simp [h u, lfind_cons]
    · split <;> simp [lfind_cons, hi, ih]

end Sys2Proof.Machine
end

