-- ==== Sys2Proof/Laws/State.lean ====
section
/-! SUPPORT. What each named update of the state leaves alone: one lemma per field. -/

set_option Elab.async false

namespace Sys2Proof.Machine

/-! Changing a block. -/

@[simp] theorem modBlk_pw (b : Nat) (f : Block → Block) (s : State) : (modBlk b f s).pw = s.pw := rfl
@[simp] theorem modBlk_rw (b : Nat) (f : Block → Block) (s : State) : (modBlk b f s).rw = s.rw := rfl
@[simp] theorem modBlk_clock (b : Nat) (f : Block → Block) (s : State) : (modBlk b f s).clock = s.clock := rfl
@[simp] theorem modBlk_slot (b : Nat) (f : Block → Block) (s : State) : (modBlk b f s).slot = s.slot := rfl
@[simp] theorem modBlk_agenda (b : Nat) (f : Block → Block) (s : State) : (modBlk b f s).agenda = s.agenda := rfl
@[simp] theorem modBlk_frees (b : Nat) (f : Block → Block) (s : State) : (modBlk b f s).frees = s.frees := rfl
@[simp] theorem modBlk_iss (b : Nat) (f : Block → Block) (s : State) : (modBlk b f s).iss = s.iss := rfl
@[simp] theorem modBlk_nextId (b : Nat) (f : Block → Block) (s : State) : (modBlk b f s).nextId = s.nextId := rfl
@[simp] theorem modBlk_gridCount (b : Nat) (f : Block → Block) (s : State) : (modBlk b f s).gridCount = s.gridCount := rfl
@[simp] theorem modBlk_trigger (b : Nat) (f : Block → Block) (s : State) : (modBlk b f s).trigger = s.trigger := rfl
@[simp] theorem modBlk_margin (b : Nat) (f : Block → Block) (s : State) : (modBlk b f s).margin = s.margin := rfl
@[simp] theorem modBlk_lastQueue (b : Nat) (f : Block → Block) (s : State) : (modBlk b f s).lastQueue = s.lastQueue := rfl
@[simp] theorem modBlk_polled (b : Nat) (f : Block → Block) (s : State) : (modBlk b f s).polled = s.polled := rfl
@[simp] theorem modBlk_retired (b : Nat) (f : Block → Block) (s : State) : (modBlk b f s).retired = s.retired := rfl
@[simp] theorem modBlk_chans (b : Nat) (f : Block → Block) (s : State) : (modBlk b f s).chans = s.chans := rfl
@[simp] theorem modBlk_parts (b : Nat) (f : Block → Block) (s : State) : (modBlk b f s).parts = s.parts := rfl
@[simp] theorem modBlk_queues (b : Nat) (f : Block → Block) (s : State) : (modBlk b f s).queues = s.queues := rfl
@[simp] theorem modBlk_ctxs (b : Nat) (f : Block → Block) (s : State) : (modBlk b f s).ctxs = s.ctxs := rfl
@[simp] theorem modBlk_mem (b : Nat) (f : Block → Block) (s : State) : (modBlk b f s).mem = s.mem := rfl
@[simp] theorem modBlk_dmgData (b : Nat) (f : Block → Block) (s : State) : (modBlk b f s).dmgData = s.dmgData := rfl
@[simp] theorem modBlk_dmgCheck (b : Nat) (f : Block → Block) (s : State) : (modBlk b f s).dmgCheck = s.dmgCheck := rfl
@[simp] theorem modBlk_poison (b : Nat) (f : Block → Block) (s : State) : (modBlk b f s).poison = s.poison := rfl
@[simp] theorem modBlk_l2 (b : Nat) (f : Block → Block) (s : State) : (modBlk b f s).l2 = s.l2 := rfl
@[simp] theorem modBlk_resvs (b : Nat) (f : Block → Block) (s : State) : (modBlk b f s).resvs = s.resvs := rfl
@[simp] theorem modBlk_pstamps (b : Nat) (f : Block → Block) (s : State) : (modBlk b f s).pstamps = s.pstamps := rfl
@[simp] theorem modBlk_busy (b : Nat) (f : Block → Block) (s : State) : (modBlk b f s).busy = s.busy := rfl
@[simp] theorem modBlk_l1 (b : Nat) (f : Block → Block) (s : State) : (modBlk b f s).l1 = s.l1 := rfl
@[simp] theorem modBlk_icache (b : Nat) (f : Block → Block) (s : State) : (modBlk b f s).icache = s.icache := rfl
@[simp] theorem modBlk_tlb (b : Nat) (f : Block → Block) (s : State) : (modBlk b f s).tlb = s.tlb := rfl
@[simp] theorem modBlk_links (b : Nat) (f : Block → Block) (s : State) : (modBlk b f s).links = s.links := rfl
@[simp] theorem modBlk_stores (b : Nat) (f : Block → Block) (s : State) : (modBlk b f s).stores = s.stores := rfl
@[simp] theorem modBlk_side (b : Nat) (f : Block → Block) (s : State) : (modBlk b f s).side = s.side := rfl
@[simp] theorem modBlk_faults (b : Nat) (f : Block → Block) (s : State) : (modBlk b f s).faults = s.faults := rfl
@[simp] theorem modBlk_grids (b : Nat) (f : Block → Block) (s : State) : (modBlk b f s).grids = s.grids := rfl
@[simp] theorem modBlk_warps (b : Nat) (f : Block → Block) (s : State) : (modBlk b f s).warps = s.warps := rfl
@[simp] theorem modBlk_lastWarp (b : Nat) (f : Block → Block) (s : State) : (modBlk b f s).lastWarp = s.lastWarp := rfl
@[simp] theorem modBlk_locks (b : Nat) (f : Block → Block) (s : State) : (modBlk b f s).locks = s.locks := rfl
@[simp] theorem modBlk_copies (b : Nat) (f : Block → Block) (s : State) : (modBlk b f s).copies = s.copies := rfl
@[simp] theorem modBlk_fabs (b : Nat) (f : Block → Block) (s : State) : (modBlk b f s).fabs = s.fabs := rfl
@[simp] theorem modBlk_served (b : Nat) (f : Block → Block) (s : State) : (modBlk b f s).served = s.served := rfl
@[simp] theorem modBlk_mats (b : Nat) (f : Block → Block) (s : State) : (modBlk b f s).mats = s.mats := rfl
@[simp] theorem modBlk_forks (b : Nat) (f : Block → Block) (s : State) : (modBlk b f s).forks = s.forks := rfl
@[simp] theorem modBlk_forkReqs (b : Nat) (f : Block → Block) (s : State) : (modBlk b f s).forkReqs = s.forkReqs := rfl
@[simp] theorem modBlk_revmap (b : Nat) (f : Block → Block) (s : State) : (modBlk b f s).revmap = s.revmap := rfl
@[simp] theorem modBlk_ckpts (b : Nat) (f : Block → Block) (s : State) : (modBlk b f s).ckpts = s.ckpts := rfl
@[simp] theorem modBlk_husks (b : Nat) (f : Block → Block) (s : State) : (modBlk b f s).husks = s.husks := rfl
@[simp] theorem modBlk_saves (b : Nat) (f : Block → Block) (s : State) : (modBlk b f s).saves = s.saves := rfl
@[simp] theorem modBlk_sent (b : Nat) (f : Block → Block) (s : State) : (modBlk b f s).sent = s.sent := rfl

/-! Changing a warp. -/

@[simp] theorem modWarp_pw (w : Nat) (f : Warp → Warp) (s : State) : (modWarp w f s).pw = s.pw := rfl
@[simp] theorem modWarp_rw (w : Nat) (f : Warp → Warp) (s : State) : (modWarp w f s).rw = s.rw := rfl
@[simp] theorem modWarp_clock (w : Nat) (f : Warp → Warp) (s : State) : (modWarp w f s).clock = s.clock := rfl
@[simp] theorem modWarp_slot (w : Nat) (f : Warp → Warp) (s : State) : (modWarp w f s).slot = s.slot := rfl
@[simp] theorem modWarp_agenda (w : Nat) (f : Warp → Warp) (s : State) : (modWarp w f s).agenda = s.agenda := rfl
@[simp] theorem modWarp_frees (w : Nat) (f : Warp → Warp) (s : State) : (modWarp w f s).frees = s.frees := rfl
@[simp] theorem modWarp_iss (w : Nat) (f : Warp → Warp) (s : State) : (modWarp w f s).iss = s.iss := rfl
@[simp] theorem modWarp_nextId (w : Nat) (f : Warp → Warp) (s : State) : (modWarp w f s).nextId = s.nextId := rfl
@[simp] theorem modWarp_gridCount (w : Nat) (f : Warp → Warp) (s : State) : (modWarp w f s).gridCount = s.gridCount := rfl
@[simp] theorem modWarp_trigger (w : Nat) (f : Warp → Warp) (s : State) : (modWarp w f s).trigger = s.trigger := rfl
@[simp] theorem modWarp_margin (w : Nat) (f : Warp → Warp) (s : State) : (modWarp w f s).margin = s.margin := rfl
@[simp] theorem modWarp_lastQueue (w : Nat) (f : Warp → Warp) (s : State) : (modWarp w f s).lastQueue = s.lastQueue := rfl
@[simp] theorem modWarp_polled (w : Nat) (f : Warp → Warp) (s : State) : (modWarp w f s).polled = s.polled := rfl
@[simp] theorem modWarp_retired (w : Nat) (f : Warp → Warp) (s : State) : (modWarp w f s).retired = s.retired := rfl
@[simp] theorem modWarp_chans (w : Nat) (f : Warp → Warp) (s : State) : (modWarp w f s).chans = s.chans := rfl
@[simp] theorem modWarp_parts (w : Nat) (f : Warp → Warp) (s : State) : (modWarp w f s).parts = s.parts := rfl
@[simp] theorem modWarp_queues (w : Nat) (f : Warp → Warp) (s : State) : (modWarp w f s).queues = s.queues := rfl
@[simp] theorem modWarp_ctxs (w : Nat) (f : Warp → Warp) (s : State) : (modWarp w f s).ctxs = s.ctxs := rfl
@[simp] theorem modWarp_mem (w : Nat) (f : Warp → Warp) (s : State) : (modWarp w f s).mem = s.mem := rfl
@[simp] theorem modWarp_dmgData (w : Nat) (f : Warp → Warp) (s : State) : (modWarp w f s).dmgData = s.dmgData := rfl
@[simp] theorem modWarp_dmgCheck (w : Nat) (f : Warp → Warp) (s : State) : (modWarp w f s).dmgCheck = s.dmgCheck := rfl
@[simp] theorem modWarp_poison (w : Nat) (f : Warp → Warp) (s : State) : (modWarp w f s).poison = s.poison := rfl
@[simp] theorem modWarp_l2 (w : Nat) (f : Warp → Warp) (s : State) : (modWarp w f s).l2 = s.l2 := rfl
@[simp] theorem modWarp_resvs (w : Nat) (f : Warp → Warp) (s : State) : (modWarp w f s).resvs = s.resvs := rfl
@[simp] theorem modWarp_pstamps (w : Nat) (f : Warp → Warp) (s : State) : (modWarp w f s).pstamps = s.pstamps := rfl
@[simp] theorem modWarp_busy (w : Nat) (f : Warp → Warp) (s : State) : (modWarp w f s).busy = s.busy := rfl
@[simp] theorem modWarp_l1 (w : Nat) (f : Warp → Warp) (s : State) : (modWarp w f s).l1 = s.l1 := rfl
@[simp] theorem modWarp_icache (w : Nat) (f : Warp → Warp) (s : State) : (modWarp w f s).icache = s.icache := rfl
@[simp] theorem modWarp_tlb (w : Nat) (f : Warp → Warp) (s : State) : (modWarp w f s).tlb = s.tlb := rfl
@[simp] theorem modWarp_links (w : Nat) (f : Warp → Warp) (s : State) : (modWarp w f s).links = s.links := rfl
@[simp] theorem modWarp_stores (w : Nat) (f : Warp → Warp) (s : State) : (modWarp w f s).stores = s.stores := rfl
@[simp] theorem modWarp_side (w : Nat) (f : Warp → Warp) (s : State) : (modWarp w f s).side = s.side := rfl
@[simp] theorem modWarp_faults (w : Nat) (f : Warp → Warp) (s : State) : (modWarp w f s).faults = s.faults := rfl
@[simp] theorem modWarp_grids (w : Nat) (f : Warp → Warp) (s : State) : (modWarp w f s).grids = s.grids := rfl
@[simp] theorem modWarp_blocks (w : Nat) (f : Warp → Warp) (s : State) : (modWarp w f s).blocks = s.blocks := rfl
@[simp] theorem modWarp_lastWarp (w : Nat) (f : Warp → Warp) (s : State) : (modWarp w f s).lastWarp = s.lastWarp := rfl
@[simp] theorem modWarp_locks (w : Nat) (f : Warp → Warp) (s : State) : (modWarp w f s).locks = s.locks := rfl
@[simp] theorem modWarp_copies (w : Nat) (f : Warp → Warp) (s : State) : (modWarp w f s).copies = s.copies := rfl
@[simp] theorem modWarp_fabs (w : Nat) (f : Warp → Warp) (s : State) : (modWarp w f s).fabs = s.fabs := rfl
@[simp] theorem modWarp_served (w : Nat) (f : Warp → Warp) (s : State) : (modWarp w f s).served = s.served := rfl
@[simp] theorem modWarp_mats (w : Nat) (f : Warp → Warp) (s : State) : (modWarp w f s).mats = s.mats := rfl
@[simp] theorem modWarp_forks (w : Nat) (f : Warp → Warp) (s : State) : (modWarp w f s).forks = s.forks := rfl
@[simp] theorem modWarp_forkReqs (w : Nat) (f : Warp → Warp) (s : State) : (modWarp w f s).forkReqs = s.forkReqs := rfl
@[simp] theorem modWarp_revmap (w : Nat) (f : Warp → Warp) (s : State) : (modWarp w f s).revmap = s.revmap := rfl
@[simp] theorem modWarp_ckpts (w : Nat) (f : Warp → Warp) (s : State) : (modWarp w f s).ckpts = s.ckpts := rfl
@[simp] theorem modWarp_husks (w : Nat) (f : Warp → Warp) (s : State) : (modWarp w f s).husks = s.husks := rfl
@[simp] theorem modWarp_saves (w : Nat) (f : Warp → Warp) (s : State) : (modWarp w f s).saves = s.saves := rfl
@[simp] theorem modWarp_sent (w : Nat) (f : Warp → Warp) (s : State) : (modWarp w f s).sent = s.sent := rfl

/-! Changing a grid. -/

@[simp] theorem modGrid_pw (g : Nat) (f : Grid → Grid) (s : State) : (modGrid g f s).pw = s.pw := rfl
@[simp] theorem modGrid_rw (g : Nat) (f : Grid → Grid) (s : State) : (modGrid g f s).rw = s.rw := rfl
@[simp] theorem modGrid_clock (g : Nat) (f : Grid → Grid) (s : State) : (modGrid g f s).clock = s.clock := rfl
@[simp] theorem modGrid_slot (g : Nat) (f : Grid → Grid) (s : State) : (modGrid g f s).slot = s.slot := rfl
@[simp] theorem modGrid_agenda (g : Nat) (f : Grid → Grid) (s : State) : (modGrid g f s).agenda = s.agenda := rfl
@[simp] theorem modGrid_frees (g : Nat) (f : Grid → Grid) (s : State) : (modGrid g f s).frees = s.frees := rfl
@[simp] theorem modGrid_iss (g : Nat) (f : Grid → Grid) (s : State) : (modGrid g f s).iss = s.iss := rfl
@[simp] theorem modGrid_nextId (g : Nat) (f : Grid → Grid) (s : State) : (modGrid g f s).nextId = s.nextId := rfl
@[simp] theorem modGrid_gridCount (g : Nat) (f : Grid → Grid) (s : State) : (modGrid g f s).gridCount = s.gridCount := rfl
@[simp] theorem modGrid_trigger (g : Nat) (f : Grid → Grid) (s : State) : (modGrid g f s).trigger = s.trigger := rfl
@[simp] theorem modGrid_margin (g : Nat) (f : Grid → Grid) (s : State) : (modGrid g f s).margin = s.margin := rfl
@[simp] theorem modGrid_lastQueue (g : Nat) (f : Grid → Grid) (s : State) : (modGrid g f s).lastQueue = s.lastQueue := rfl
@[simp] theorem modGrid_polled (g : Nat) (f : Grid → Grid) (s : State) : (modGrid g f s).polled = s.polled := rfl
@[simp] theorem modGrid_retired (g : Nat) (f : Grid → Grid) (s : State) : (modGrid g f s).retired = s.retired := rfl
@[simp] theorem modGrid_chans (g : Nat) (f : Grid → Grid) (s : State) : (modGrid g f s).chans = s.chans := rfl
@[simp] theorem modGrid_parts (g : Nat) (f : Grid → Grid) (s : State) : (modGrid g f s).parts = s.parts := rfl
@[simp] theorem modGrid_queues (g : Nat) (f : Grid → Grid) (s : State) : (modGrid g f s).queues = s.queues := rfl
@[simp] theorem modGrid_ctxs (g : Nat) (f : Grid → Grid) (s : State) : (modGrid g f s).ctxs = s.ctxs := rfl
@[simp] theorem modGrid_mem (g : Nat) (f : Grid → Grid) (s : State) : (modGrid g f s).mem = s.mem := rfl
@[simp] theorem modGrid_dmgData (g : Nat) (f : Grid → Grid) (s : State) : (modGrid g f s).dmgData = s.dmgData := rfl
@[simp] theorem modGrid_dmgCheck (g : Nat) (f : Grid → Grid) (s : State) : (modGrid g f s).dmgCheck = s.dmgCheck := rfl
@[simp] theorem modGrid_poison (g : Nat) (f : Grid → Grid) (s : State) : (modGrid g f s).poison = s.poison := rfl
@[simp] theorem modGrid_l2 (g : Nat) (f : Grid → Grid) (s : State) : (modGrid g f s).l2 = s.l2 := rfl
@[simp] theorem modGrid_resvs (g : Nat) (f : Grid → Grid) (s : State) : (modGrid g f s).resvs = s.resvs := rfl
@[simp] theorem modGrid_pstamps (g : Nat) (f : Grid → Grid) (s : State) : (modGrid g f s).pstamps = s.pstamps := rfl
@[simp] theorem modGrid_busy (g : Nat) (f : Grid → Grid) (s : State) : (modGrid g f s).busy = s.busy := rfl
@[simp] theorem modGrid_l1 (g : Nat) (f : Grid → Grid) (s : State) : (modGrid g f s).l1 = s.l1 := rfl
@[simp] theorem modGrid_icache (g : Nat) (f : Grid → Grid) (s : State) : (modGrid g f s).icache = s.icache := rfl
@[simp] theorem modGrid_tlb (g : Nat) (f : Grid → Grid) (s : State) : (modGrid g f s).tlb = s.tlb := rfl
@[simp] theorem modGrid_links (g : Nat) (f : Grid → Grid) (s : State) : (modGrid g f s).links = s.links := rfl
@[simp] theorem modGrid_stores (g : Nat) (f : Grid → Grid) (s : State) : (modGrid g f s).stores = s.stores := rfl
@[simp] theorem modGrid_side (g : Nat) (f : Grid → Grid) (s : State) : (modGrid g f s).side = s.side := rfl
@[simp] theorem modGrid_faults (g : Nat) (f : Grid → Grid) (s : State) : (modGrid g f s).faults = s.faults := rfl
@[simp] theorem modGrid_blocks (g : Nat) (f : Grid → Grid) (s : State) : (modGrid g f s).blocks = s.blocks := rfl
@[simp] theorem modGrid_warps (g : Nat) (f : Grid → Grid) (s : State) : (modGrid g f s).warps = s.warps := rfl
@[simp] theorem modGrid_lastWarp (g : Nat) (f : Grid → Grid) (s : State) : (modGrid g f s).lastWarp = s.lastWarp := rfl
@[simp] theorem modGrid_locks (g : Nat) (f : Grid → Grid) (s : State) : (modGrid g f s).locks = s.locks := rfl
@[simp] theorem modGrid_copies (g : Nat) (f : Grid → Grid) (s : State) : (modGrid g f s).copies = s.copies := rfl
@[simp] theorem modGrid_fabs (g : Nat) (f : Grid → Grid) (s : State) : (modGrid g f s).fabs = s.fabs := rfl
@[simp] theorem modGrid_served (g : Nat) (f : Grid → Grid) (s : State) : (modGrid g f s).served = s.served := rfl
@[simp] theorem modGrid_mats (g : Nat) (f : Grid → Grid) (s : State) : (modGrid g f s).mats = s.mats := rfl
@[simp] theorem modGrid_forks (g : Nat) (f : Grid → Grid) (s : State) : (modGrid g f s).forks = s.forks := rfl
@[simp] theorem modGrid_forkReqs (g : Nat) (f : Grid → Grid) (s : State) : (modGrid g f s).forkReqs = s.forkReqs := rfl
@[simp] theorem modGrid_revmap (g : Nat) (f : Grid → Grid) (s : State) : (modGrid g f s).revmap = s.revmap := rfl
@[simp] theorem modGrid_ckpts (g : Nat) (f : Grid → Grid) (s : State) : (modGrid g f s).ckpts = s.ckpts := rfl
@[simp] theorem modGrid_husks (g : Nat) (f : Grid → Grid) (s : State) : (modGrid g f s).husks = s.husks := rfl
@[simp] theorem modGrid_saves (g : Nat) (f : Grid → Grid) (s : State) : (modGrid g f s).saves = s.saves := rfl
@[simp] theorem modGrid_sent (g : Nat) (f : Grid → Grid) (s : State) : (modGrid g f s).sent = s.sent := rfl

/-! Changing a context. -/

@[simp] theorem modCtx_pw (c : Nat) (f : Ctx → Ctx) (s : State) : (modCtx c f s).pw = s.pw := rfl
@[simp] theorem modCtx_rw (c : Nat) (f : Ctx → Ctx) (s : State) : (modCtx c f s).rw = s.rw := rfl
@[simp] theorem modCtx_clock (c : Nat) (f : Ctx → Ctx) (s : State) : (modCtx c f s).clock = s.clock := rfl
@[simp] theorem modCtx_slot (c : Nat) (f : Ctx → Ctx) (s : State) : (modCtx c f s).slot = s.slot := rfl
@[simp] theorem modCtx_agenda (c : Nat) (f : Ctx → Ctx) (s : State) : (modCtx c f s).agenda = s.agenda := rfl
@[simp] theorem modCtx_frees (c : Nat) (f : Ctx → Ctx) (s : State) : (modCtx c f s).frees = s.frees := rfl
@[simp] theorem modCtx_iss (c : Nat) (f : Ctx → Ctx) (s : State) : (modCtx c f s).iss = s.iss := rfl
@[simp] theorem modCtx_nextId (c : Nat) (f : Ctx → Ctx) (s : State) : (modCtx c f s).nextId = s.nextId := rfl
@[simp] theorem modCtx_gridCount (c : Nat) (f : Ctx → Ctx) (s : State) : (modCtx c f s).gridCount = s.gridCount := rfl
@[simp] theorem modCtx_trigger (c : Nat) (f : Ctx → Ctx) (s : State) : (modCtx c f s).trigger = s.trigger := rfl
@[simp] theorem modCtx_margin (c : Nat) (f : Ctx → Ctx) (s : State) : (modCtx c f s).margin = s.margin := rfl
@[simp] theorem modCtx_lastQueue (c : Nat) (f : Ctx → Ctx) (s : State) : (modCtx c f s).lastQueue = s.lastQueue := rfl
@[simp] theorem modCtx_polled (c : Nat) (f : Ctx → Ctx) (s : State) : (modCtx c f s).polled = s.polled := rfl
@[simp] theorem modCtx_retired (c : Nat) (f : Ctx → Ctx) (s : State) : (modCtx c f s).retired = s.retired := rfl
@[simp] theorem modCtx_chans (c : Nat) (f : Ctx → Ctx) (s : State) : (modCtx c f s).chans = s.chans := rfl
@[simp] theorem modCtx_parts (c : Nat) (f : Ctx → Ctx) (s : State) : (modCtx c f s).parts = s.parts := rfl
@[simp] theorem modCtx_queues (c : Nat) (f : Ctx → Ctx) (s : State) : (modCtx c f s).queues = s.queues := rfl
@[simp] theorem modCtx_mem (c : Nat) (f : Ctx → Ctx) (s : State) : (modCtx c f s).mem = s.mem := rfl
@[simp] theorem modCtx_dmgData (c : Nat) (f : Ctx → Ctx) (s : State) : (modCtx c f s).dmgData = s.dmgData := rfl
@[simp] theorem modCtx_dmgCheck (c : Nat) (f : Ctx → Ctx) (s : State) : (modCtx c f s).dmgCheck = s.dmgCheck := rfl
@[simp] theorem modCtx_poison (c : Nat) (f : Ctx → Ctx) (s : State) : (modCtx c f s).poison = s.poison := rfl
@[simp] theorem modCtx_l2 (c : Nat) (f : Ctx → Ctx) (s : State) : (modCtx c f s).l2 = s.l2 := rfl
@[simp] theorem modCtx_resvs (c : Nat) (f : Ctx → Ctx) (s : State) : (modCtx c f s).resvs = s.resvs := rfl
@[simp] theorem modCtx_pstamps (c : Nat) (f : Ctx → Ctx) (s : State) : (modCtx c f s).pstamps = s.pstamps := rfl
@[simp] theorem modCtx_busy (c : Nat) (f : Ctx → Ctx) (s : State) : (modCtx c f s).busy = s.busy := rfl
@[simp] theorem modCtx_l1 (c : Nat) (f : Ctx → Ctx) (s : State) : (modCtx c f s).l1 = s.l1 := rfl
@[simp] theorem modCtx_icache (c : Nat) (f : Ctx → Ctx) (s : State) : (modCtx c f s).icache = s.icache := rfl
@[simp] theorem modCtx_tlb (c : Nat) (f : Ctx → Ctx) (s : State) : (modCtx c f s).tlb = s.tlb := rfl
@[simp] theorem modCtx_links (c : Nat) (f : Ctx → Ctx) (s : State) : (modCtx c f s).links = s.links := rfl
@[simp] theorem modCtx_stores (c : Nat) (f : Ctx → Ctx) (s : State) : (modCtx c f s).stores = s.stores := rfl
@[simp] theorem modCtx_side (c : Nat) (f : Ctx → Ctx) (s : State) : (modCtx c f s).side = s.side := rfl
@[simp] theorem modCtx_faults (c : Nat) (f : Ctx → Ctx) (s : State) : (modCtx c f s).faults = s.faults := rfl
@[simp] theorem modCtx_grids (c : Nat) (f : Ctx → Ctx) (s : State) : (modCtx c f s).grids = s.grids := rfl
@[simp] theorem modCtx_blocks (c : Nat) (f : Ctx → Ctx) (s : State) : (modCtx c f s).blocks = s.blocks := rfl
@[simp] theorem modCtx_warps (c : Nat) (f : Ctx → Ctx) (s : State) : (modCtx c f s).warps = s.warps := rfl
@[simp] theorem modCtx_lastWarp (c : Nat) (f : Ctx → Ctx) (s : State) : (modCtx c f s).lastWarp = s.lastWarp := rfl
@[simp] theorem modCtx_locks (c : Nat) (f : Ctx → Ctx) (s : State) : (modCtx c f s).locks = s.locks := rfl
@[simp] theorem modCtx_copies (c : Nat) (f : Ctx → Ctx) (s : State) : (modCtx c f s).copies = s.copies := rfl
@[simp] theorem modCtx_fabs (c : Nat) (f : Ctx → Ctx) (s : State) : (modCtx c f s).fabs = s.fabs := rfl
@[simp] theorem modCtx_served (c : Nat) (f : Ctx → Ctx) (s : State) : (modCtx c f s).served = s.served := rfl
@[simp] theorem modCtx_mats (c : Nat) (f : Ctx → Ctx) (s : State) : (modCtx c f s).mats = s.mats := rfl
@[simp] theorem modCtx_forks (c : Nat) (f : Ctx → Ctx) (s : State) : (modCtx c f s).forks = s.forks := rfl
@[simp] theorem modCtx_forkReqs (c : Nat) (f : Ctx → Ctx) (s : State) : (modCtx c f s).forkReqs = s.forkReqs := rfl
@[simp] theorem modCtx_revmap (c : Nat) (f : Ctx → Ctx) (s : State) : (modCtx c f s).revmap = s.revmap := rfl
@[simp] theorem modCtx_ckpts (c : Nat) (f : Ctx → Ctx) (s : State) : (modCtx c f s).ckpts = s.ckpts := rfl
@[simp] theorem modCtx_husks (c : Nat) (f : Ctx → Ctx) (s : State) : (modCtx c f s).husks = s.husks := rfl
@[simp] theorem modCtx_saves (c : Nat) (f : Ctx → Ctx) (s : State) : (modCtx c f s).saves = s.saves := rfl
@[simp] theorem modCtx_sent (c : Nat) (f : Ctx → Ctx) (s : State) : (modCtx c f s).sent = s.sent := rfl

/-! Changing a sector of the second-level cache. -/

@[simp] theorem modL2_pw (c : Nat) (f : L2Sec → L2Sec) (s : State) : (modL2 c f s).pw = s.pw := rfl
@[simp] theorem modL2_rw (c : Nat) (f : L2Sec → L2Sec) (s : State) : (modL2 c f s).rw = s.rw := rfl
@[simp] theorem modL2_clock (c : Nat) (f : L2Sec → L2Sec) (s : State) : (modL2 c f s).clock = s.clock := rfl
@[simp] theorem modL2_slot (c : Nat) (f : L2Sec → L2Sec) (s : State) : (modL2 c f s).slot = s.slot := rfl
@[simp] theorem modL2_agenda (c : Nat) (f : L2Sec → L2Sec) (s : State) : (modL2 c f s).agenda = s.agenda := rfl
@[simp] theorem modL2_frees (c : Nat) (f : L2Sec → L2Sec) (s : State) : (modL2 c f s).frees = s.frees := rfl
@[simp] theorem modL2_iss (c : Nat) (f : L2Sec → L2Sec) (s : State) : (modL2 c f s).iss = s.iss := rfl
@[simp] theorem modL2_nextId (c : Nat) (f : L2Sec → L2Sec) (s : State) : (modL2 c f s).nextId = s.nextId := rfl
@[simp] theorem modL2_gridCount (c : Nat) (f : L2Sec → L2Sec) (s : State) : (modL2 c f s).gridCount = s.gridCount := rfl
@[simp] theorem modL2_trigger (c : Nat) (f : L2Sec → L2Sec) (s : State) : (modL2 c f s).trigger = s.trigger := rfl
@[simp] theorem modL2_margin (c : Nat) (f : L2Sec → L2Sec) (s : State) : (modL2 c f s).margin = s.margin := rfl
@[simp] theorem modL2_lastQueue (c : Nat) (f : L2Sec → L2Sec) (s : State) : (modL2 c f s).lastQueue = s.lastQueue := rfl
@[simp] theorem modL2_polled (c : Nat) (f : L2Sec → L2Sec) (s : State) : (modL2 c f s).polled = s.polled := rfl
@[simp] theorem modL2_retired (c : Nat) (f : L2Sec → L2Sec) (s : State) : (modL2 c f s).retired = s.retired := rfl
@[simp] theorem modL2_chans (c : Nat) (f : L2Sec → L2Sec) (s : State) : (modL2 c f s).chans = s.chans := rfl
@[simp] theorem modL2_parts (c : Nat) (f : L2Sec → L2Sec) (s : State) : (modL2 c f s).parts = s.parts := rfl
@[simp] theorem modL2_queues (c : Nat) (f : L2Sec → L2Sec) (s : State) : (modL2 c f s).queues = s.queues := rfl
@[simp] theorem modL2_ctxs (c : Nat) (f : L2Sec → L2Sec) (s : State) : (modL2 c f s).ctxs = s.ctxs := rfl
@[simp] theorem modL2_mem (c : Nat) (f : L2Sec → L2Sec) (s : State) : (modL2 c f s).mem = s.mem := rfl
@[simp] theorem modL2_dmgData (c : Nat) (f : L2Sec → L2Sec) (s : State) : (modL2 c f s).dmgData = s.dmgData := rfl
@[simp] theorem modL2_dmgCheck (c : Nat) (f : L2Sec → L2Sec) (s : State) : (modL2 c f s).dmgCheck = s.dmgCheck := rfl
@[simp] theorem modL2_poison (c : Nat) (f : L2Sec → L2Sec) (s : State) : (modL2 c f s).poison = s.poison := rfl
@[simp] theorem modL2_resvs (c : Nat) (f : L2Sec → L2Sec) (s : State) : (modL2 c f s).resvs = s.resvs := rfl
@[simp] theorem modL2_pstamps (c : Nat) (f : L2Sec → L2Sec) (s : State) : (modL2 c f s).pstamps = s.pstamps := rfl
@[simp] theorem modL2_busy (c : Nat) (f : L2Sec → L2Sec) (s : State) : (modL2 c f s).busy = s.busy := rfl
@[simp] theorem modL2_l1 (c : Nat) (f : L2Sec → L2Sec) (s : State) : (modL2 c f s).l1 = s.l1 := rfl
@[simp] theorem modL2_icache (c : Nat) (f : L2Sec → L2Sec) (s : State) : (modL2 c f s).icache = s.icache := rfl
@[simp] theorem modL2_tlb (c : Nat) (f : L2Sec → L2Sec) (s : State) : (modL2 c f s).tlb = s.tlb := rfl
@[simp] theorem modL2_links (c : Nat) (f : L2Sec → L2Sec) (s : State) : (modL2 c f s).links = s.links := rfl
@[simp] theorem modL2_stores (c : Nat) (f : L2Sec → L2Sec) (s : State) : (modL2 c f s).stores = s.stores := rfl
@[simp] theorem modL2_side (c : Nat) (f : L2Sec → L2Sec) (s : State) : (modL2 c f s).side = s.side := rfl
@[simp] theorem modL2_faults (c : Nat) (f : L2Sec → L2Sec) (s : State) : (modL2 c f s).faults = s.faults := rfl
@[simp] theorem modL2_grids (c : Nat) (f : L2Sec → L2Sec) (s : State) : (modL2 c f s).grids = s.grids := rfl
@[simp] theorem modL2_blocks (c : Nat) (f : L2Sec → L2Sec) (s : State) : (modL2 c f s).blocks = s.blocks := rfl
@[simp] theorem modL2_warps (c : Nat) (f : L2Sec → L2Sec) (s : State) : (modL2 c f s).warps = s.warps := rfl
@[simp] theorem modL2_lastWarp (c : Nat) (f : L2Sec → L2Sec) (s : State) : (modL2 c f s).lastWarp = s.lastWarp := rfl
@[simp] theorem modL2_locks (c : Nat) (f : L2Sec → L2Sec) (s : State) : (modL2 c f s).locks = s.locks := rfl
@[simp] theorem modL2_copies (c : Nat) (f : L2Sec → L2Sec) (s : State) : (modL2 c f s).copies = s.copies := rfl
@[simp] theorem modL2_fabs (c : Nat) (f : L2Sec → L2Sec) (s : State) : (modL2 c f s).fabs = s.fabs := rfl
@[simp] theorem modL2_served (c : Nat) (f : L2Sec → L2Sec) (s : State) : (modL2 c f s).served = s.served := rfl
@[simp] theorem modL2_mats (c : Nat) (f : L2Sec → L2Sec) (s : State) : (modL2 c f s).mats = s.mats := rfl
@[simp] theorem modL2_forks (c : Nat) (f : L2Sec → L2Sec) (s : State) : (modL2 c f s).forks = s.forks := rfl
@[simp] theorem modL2_forkReqs (c : Nat) (f : L2Sec → L2Sec) (s : State) : (modL2 c f s).forkReqs = s.forkReqs := rfl
@[simp] theorem modL2_revmap (c : Nat) (f : L2Sec → L2Sec) (s : State) : (modL2 c f s).revmap = s.revmap := rfl
@[simp] theorem modL2_ckpts (c : Nat) (f : L2Sec → L2Sec) (s : State) : (modL2 c f s).ckpts = s.ckpts := rfl
@[simp] theorem modL2_husks (c : Nat) (f : L2Sec → L2Sec) (s : State) : (modL2 c f s).husks = s.husks := rfl
@[simp] theorem modL2_saves (c : Nat) (f : L2Sec → L2Sec) (s : State) : (modL2 c f s).saves = s.saves := rfl
@[simp] theorem modL2_sent (c : Nat) (f : L2Sec → L2Sec) (s : State) : (modL2 c f s).sent = s.sent := rfl

/-! Changing a channel. -/

@[simp] theorem modChan_pw (c : Nat) (f : Chan → Chan) (s : State) : (modChan c f s).pw = s.pw := rfl
@[simp] theorem modChan_rw (c : Nat) (f : Chan → Chan) (s : State) : (modChan c f s).rw = s.rw := rfl
@[simp] theorem modChan_clock (c : Nat) (f : Chan → Chan) (s : State) : (modChan c f s).clock = s.clock := rfl
@[simp] theorem modChan_slot (c : Nat) (f : Chan → Chan) (s : State) : (modChan c f s).slot = s.slot := rfl
@[simp] theorem modChan_agenda (c : Nat) (f : Chan → Chan) (s : State) : (modChan c f s).agenda = s.agenda := rfl
@[simp] theorem modChan_frees (c : Nat) (f : Chan → Chan) (s : State) : (modChan c f s).frees = s.frees := rfl
@[simp] theorem modChan_iss (c : Nat) (f : Chan → Chan) (s : State) : (modChan c f s).iss = s.iss := rfl
@[simp] theorem modChan_nextId (c : Nat) (f : Chan → Chan) (s : State) : (modChan c f s).nextId = s.nextId := rfl
@[simp] theorem modChan_gridCount (c : Nat) (f : Chan → Chan) (s : State) : (modChan c f s).gridCount = s.gridCount := rfl
@[simp] theorem modChan_trigger (c : Nat) (f : Chan → Chan) (s : State) : (modChan c f s).trigger = s.trigger := rfl
@[simp] theorem modChan_margin (c : Nat) (f : Chan → Chan) (s : State) : (modChan c f s).margin = s.margin := rfl
@[simp] theorem modChan_lastQueue (c : Nat) (f : Chan → Chan) (s : State) : (modChan c f s).lastQueue = s.lastQueue := rfl
@[simp] theorem modChan_polled (c : Nat) (f : Chan → Chan) (s : State) : (modChan c f s).polled = s.polled := rfl
@[simp] theorem modChan_retired (c : Nat) (f : Chan → Chan) (s : State) : (modChan c f s).retired = s.retired := rfl
@[simp] theorem modChan_parts (c : Nat) (f : Chan → Chan) (s : State) : (modChan c f s).parts = s.parts := rfl
@[simp] theorem modChan_queues (c : Nat) (f : Chan → Chan) (s : State) : (modChan c f s).queues = s.queues := rfl
@[simp] theorem modChan_ctxs (c : Nat) (f : Chan → Chan) (s : State) : (modChan c f s).ctxs = s.ctxs := rfl
@[simp] theorem modChan_mem (c : Nat) (f : Chan → Chan) (s : State) : (modChan c f s).mem = s.mem := rfl
@[simp] theorem modChan_dmgData (c : Nat) (f : Chan → Chan) (s : State) : (modChan c f s).dmgData = s.dmgData := rfl
@[simp] theorem modChan_dmgCheck (c : Nat) (f : Chan → Chan) (s : State) : (modChan c f s).dmgCheck = s.dmgCheck := rfl
@[simp] theorem modChan_poison (c : Nat) (f : Chan → Chan) (s : State) : (modChan c f s).poison = s.poison := rfl
@[simp] theorem modChan_l2 (c : Nat) (f : Chan → Chan) (s : State) : (modChan c f s).l2 = s.l2 := rfl
@[simp] theorem modChan_resvs (c : Nat) (f : Chan → Chan) (s : State) : (modChan c f s).resvs = s.resvs := rfl
@[simp] theorem modChan_pstamps (c : Nat) (f : Chan → Chan) (s : State) : (modChan c f s).pstamps = s.pstamps := rfl
@[simp] theorem modChan_busy (c : Nat) (f : Chan → Chan) (s : State) : (modChan c f s).busy = s.busy := rfl
@[simp] theorem modChan_l1 (c : Nat) (f : Chan → Chan) (s : State) : (modChan c f s).l1 = s.l1 := rfl
@[simp] theorem modChan_icache (c : Nat) (f : Chan → Chan) (s : State) : (modChan c f s).icache = s.icache := rfl
@[simp] theorem modChan_tlb (c : Nat) (f : Chan → Chan) (s : State) : (modChan c f s).tlb = s.tlb := rfl
@[simp] theorem modChan_links (c : Nat) (f : Chan → Chan) (s : State) : (modChan c f s).links = s.links := rfl
@[simp] theorem modChan_stores (c : Nat) (f : Chan → Chan) (s : State) : (modChan c f s).stores = s.stores := rfl
@[simp] theorem modChan_side (c : Nat) (f : Chan → Chan) (s : State) : (modChan c f s).side = s.side := rfl
@[simp] theorem modChan_faults (c : Nat) (f : Chan → Chan) (s : State) : (modChan c f s).faults = s.faults := rfl
@[simp] theorem modChan_grids (c : Nat) (f : Chan → Chan) (s : State) : (modChan c f s).grids = s.grids := rfl
@[simp] theorem modChan_blocks (c : Nat) (f : Chan → Chan) (s : State) : (modChan c f s).blocks = s.blocks := rfl
@[simp] theorem modChan_warps (c : Nat) (f : Chan → Chan) (s : State) : (modChan c f s).warps = s.warps := rfl
@[simp] theorem modChan_lastWarp (c : Nat) (f : Chan → Chan) (s : State) : (modChan c f s).lastWarp = s.lastWarp := rfl
@[simp] theorem modChan_locks (c : Nat) (f : Chan → Chan) (s : State) : (modChan c f s).locks = s.locks := rfl
@[simp] theorem modChan_copies (c : Nat) (f : Chan → Chan) (s : State) : (modChan c f s).copies = s.copies := rfl
@[simp] theorem modChan_fabs (c : Nat) (f : Chan → Chan) (s : State) : (modChan c f s).fabs = s.fabs := rfl
@[simp] theorem modChan_served (c : Nat) (f : Chan → Chan) (s : State) : (modChan c f s).served = s.served := rfl
@[simp] theorem modChan_mats (c : Nat) (f : Chan → Chan) (s : State) : (modChan c f s).mats = s.mats := rfl
@[simp] theorem modChan_forks (c : Nat) (f : Chan → Chan) (s : State) : (modChan c f s).forks = s.forks := rfl
@[simp] theorem modChan_forkReqs (c : Nat) (f : Chan → Chan) (s : State) : (modChan c f s).forkReqs = s.forkReqs := rfl
@[simp] theorem modChan_revmap (c : Nat) (f : Chan → Chan) (s : State) : (modChan c f s).revmap = s.revmap := rfl
@[simp] theorem modChan_ckpts (c : Nat) (f : Chan → Chan) (s : State) : (modChan c f s).ckpts = s.ckpts := rfl
@[simp] theorem modChan_husks (c : Nat) (f : Chan → Chan) (s : State) : (modChan c f s).husks = s.husks := rfl
@[simp] theorem modChan_saves (c : Nat) (f : Chan → Chan) (s : State) : (modChan c f s).saves = s.saves := rfl
@[simp] theorem modChan_sent (c : Nat) (f : Chan → Chan) (s : State) : (modChan c f s).sent = s.sent := rfl

/-! Writing bytes of memory. -/

@[simp] theorem writeBytes_pw (k : Nat) (bs : List Byte) (s : State) : (writeBytes k bs s).pw = s.pw := rfl
@[simp] theorem writeBytes_rw (k : Nat) (bs : List Byte) (s : State) : (writeBytes k bs s).rw = s.rw := rfl
@[simp] theorem writeBytes_clock (k : Nat) (bs : List Byte) (s : State) : (writeBytes k bs s).clock = s.clock := rfl
@[simp] theorem writeBytes_slot (k : Nat) (bs : List Byte) (s : State) : (writeBytes k bs s).slot = s.slot := rfl
@[simp] theorem writeBytes_agenda (k : Nat) (bs : List Byte) (s : State) : (writeBytes k bs s).agenda = s.agenda := rfl
@[simp] theorem writeBytes_frees (k : Nat) (bs : List Byte) (s : State) : (writeBytes k bs s).frees = s.frees := rfl
@[simp] theorem writeBytes_iss (k : Nat) (bs : List Byte) (s : State) : (writeBytes k bs s).iss = s.iss := rfl
@[simp] theorem writeBytes_nextId (k : Nat) (bs : List Byte) (s : State) : (writeBytes k bs s).nextId = s.nextId := rfl
@[simp] theorem writeBytes_gridCount (k : Nat) (bs : List Byte) (s : State) : (writeBytes k bs s).gridCount = s.gridCount := rfl
@[simp] theorem writeBytes_trigger (k : Nat) (bs : List Byte) (s : State) : (writeBytes k bs s).trigger = s.trigger := rfl
@[simp] theorem writeBytes_margin (k : Nat) (bs : List Byte) (s : State) : (writeBytes k bs s).margin = s.margin := rfl
@[simp] theorem writeBytes_lastQueue (k : Nat) (bs : List Byte) (s : State) : (writeBytes k bs s).lastQueue = s.lastQueue := rfl
@[simp] theorem writeBytes_polled (k : Nat) (bs : List Byte) (s : State) : (writeBytes k bs s).polled = s.polled := rfl
@[simp] theorem writeBytes_retired (k : Nat) (bs : List Byte) (s : State) : (writeBytes k bs s).retired = s.retired := rfl
@[simp] theorem writeBytes_chans (k : Nat) (bs : List Byte) (s : State) : (writeBytes k bs s).chans = s.chans := rfl
@[simp] theorem writeBytes_parts (k : Nat) (bs : List Byte) (s : State) : (writeBytes k bs s).parts = s.parts := rfl
@[simp] theorem writeBytes_queues (k : Nat) (bs : List Byte) (s : State) : (writeBytes k bs s).queues = s.queues := rfl
@[simp] theorem writeBytes_ctxs (k : Nat) (bs : List Byte) (s : State) : (writeBytes k bs s).ctxs = s.ctxs := rfl
@[simp] theorem writeBytes_dmgData (k : Nat) (bs : List Byte) (s : State) : (writeBytes k bs s).dmgData = s.dmgData := rfl
@[simp] theorem writeBytes_dmgCheck (k : Nat) (bs : List Byte) (s : State) : (writeBytes k bs s).dmgCheck = s.dmgCheck := rfl
@[simp] theorem writeBytes_poison (k : Nat) (bs : List Byte) (s : State) : (writeBytes k bs s).poison = s.poison := rfl
@[simp] theorem writeBytes_l2 (k : Nat) (bs : List Byte) (s : State) : (writeBytes k bs s).l2 = s.l2 := rfl
@[simp] theorem writeBytes_resvs (k : Nat) (bs : List Byte) (s : State) : (writeBytes k bs s).resvs = s.resvs := rfl
@[simp] theorem writeBytes_pstamps (k : Nat) (bs : List Byte) (s : State) : (writeBytes k bs s).pstamps = s.pstamps := rfl
@[simp] theorem writeBytes_busy (k : Nat) (bs : List Byte) (s : State) : (writeBytes k bs s).busy = s.busy := rfl
@[simp] theorem writeBytes_l1 (k : Nat) (bs : List Byte) (s : State) : (writeBytes k bs s).l1 = s.l1 := rfl
@[simp] theorem writeBytes_icache (k : Nat) (bs : List Byte) (s : State) : (writeBytes k bs s).icache = s.icache := rfl
@[simp] theorem writeBytes_tlb (k : Nat) (bs : List Byte) (s : State) : (writeBytes k bs s).tlb = s.tlb := rfl
@[simp] theorem writeBytes_links (k : Nat) (bs : List Byte) (s : State) : (writeBytes k bs s).links = s.links := rfl
@[simp] theorem writeBytes_stores (k : Nat) (bs : List Byte) (s : State) : (writeBytes k bs s).stores = s.stores := rfl
@[simp] theorem writeBytes_side (k : Nat) (bs : List Byte) (s : State) : (writeBytes k bs s).side = s.side := rfl
@[simp] theorem writeBytes_faults (k : Nat) (bs : List Byte) (s : State) : (writeBytes k bs s).faults = s.faults := rfl
@[simp] theorem writeBytes_grids (k : Nat) (bs : List Byte) (s : State) : (writeBytes k bs s).grids = s.grids := rfl
@[simp] theorem writeBytes_blocks (k : Nat) (bs : List Byte) (s : State) : (writeBytes k bs s).blocks = s.blocks := rfl
@[simp] theorem writeBytes_warps (k : Nat) (bs : List Byte) (s : State) : (writeBytes k bs s).warps = s.warps := rfl
@[simp] theorem writeBytes_lastWarp (k : Nat) (bs : List Byte) (s : State) : (writeBytes k bs s).lastWarp = s.lastWarp := rfl
@[simp] theorem writeBytes_locks (k : Nat) (bs : List Byte) (s : State) : (writeBytes k bs s).locks = s.locks := rfl
@[simp] theorem writeBytes_copies (k : Nat) (bs : List Byte) (s : State) : (writeBytes k bs s).copies = s.copies := rfl
@[simp] theorem writeBytes_fabs (k : Nat) (bs : List Byte) (s : State) : (writeBytes k bs s).fabs = s.fabs := rfl
@[simp] theorem writeBytes_served (k : Nat) (bs : List Byte) (s : State) : (writeBytes k bs s).served = s.served := rfl
@[simp] theorem writeBytes_mats (k : Nat) (bs : List Byte) (s : State) : (writeBytes k bs s).mats = s.mats := rfl
@[simp] theorem writeBytes_forks (k : Nat) (bs : List Byte) (s : State) : (writeBytes k bs s).forks = s.forks := rfl
@[simp] theorem writeBytes_forkReqs (k : Nat) (bs : List Byte) (s : State) : (writeBytes k bs s).forkReqs = s.forkReqs := rfl
@[simp] theorem writeBytes_revmap (k : Nat) (bs : List Byte) (s : State) : (writeBytes k bs s).revmap = s.revmap := rfl
@[simp] theorem writeBytes_ckpts (k : Nat) (bs : List Byte) (s : State) : (writeBytes k bs s).ckpts = s.ckpts := rfl
@[simp] theorem writeBytes_husks (k : Nat) (bs : List Byte) (s : State) : (writeBytes k bs s).husks = s.husks := rfl
@[simp] theorem writeBytes_saves (k : Nat) (bs : List Byte) (s : State) : (writeBytes k bs s).saves = s.saves := rfl
@[simp] theorem writeBytes_sent (k : Nat) (bs : List Byte) (s : State) : (writeBytes k bs s).sent = s.sent := rfl

/-! Setting a poison bit. -/

@[simp] theorem setPoison_pw (k : Nat) (v : Bool) (s : State) : (setPoison k v s).pw = s.pw := rfl
@[simp] theorem setPoison_rw (k : Nat) (v : Bool) (s : State) : (setPoison k v s).rw = s.rw := rfl
@[simp] theorem setPoison_clock (k : Nat) (v : Bool) (s : State) : (setPoison k v s).clock = s.clock := rfl
@[simp] theorem setPoison_slot (k : Nat) (v : Bool) (s : State) : (setPoison k v s).slot = s.slot := rfl
@[simp] theorem setPoison_agenda (k : Nat) (v : Bool) (s : State) : (setPoison k v s).agenda = s.agenda := rfl
@[simp] theorem setPoison_frees (k : Nat) (v : Bool) (s : State) : (setPoison k v s).frees = s.frees := rfl
@[simp] theorem setPoison_iss (k : Nat) (v : Bool) (s : State) : (setPoison k v s).iss = s.iss := rfl
@[simp] theorem setPoison_nextId (k : Nat) (v : Bool) (s : State) : (setPoison k v s).nextId = s.nextId := rfl
@[simp] theorem setPoison_gridCount (k : Nat) (v : Bool) (s : State) : (setPoison k v s).gridCount = s.gridCount := rfl
@[simp] theorem setPoison_trigger (k : Nat) (v : Bool) (s : State) : (setPoison k v s).trigger = s.trigger := rfl
@[simp] theorem setPoison_margin (k : Nat) (v : Bool) (s : State) : (setPoison k v s).margin = s.margin := rfl
@[simp] theorem setPoison_lastQueue (k : Nat) (v : Bool) (s : State) : (setPoison k v s).lastQueue = s.lastQueue := rfl
@[simp] theorem setPoison_polled (k : Nat) (v : Bool) (s : State) : (setPoison k v s).polled = s.polled := rfl
@[simp] theorem setPoison_retired (k : Nat) (v : Bool) (s : State) : (setPoison k v s).retired = s.retired := rfl
@[simp] theorem setPoison_chans (k : Nat) (v : Bool) (s : State) : (setPoison k v s).chans = s.chans := rfl
@[simp] theorem setPoison_parts (k : Nat) (v : Bool) (s : State) : (setPoison k v s).parts = s.parts := rfl
@[simp] theorem setPoison_queues (k : Nat) (v : Bool) (s : State) : (setPoison k v s).queues = s.queues := rfl
@[simp] theorem setPoison_ctxs (k : Nat) (v : Bool) (s : State) : (setPoison k v s).ctxs = s.ctxs := rfl
@[simp] theorem setPoison_mem (k : Nat) (v : Bool) (s : State) : (setPoison k v s).mem = s.mem := rfl
@[simp] theorem setPoison_dmgData (k : Nat) (v : Bool) (s : State) : (setPoison k v s).dmgData = s.dmgData := rfl
@[simp] theorem setPoison_dmgCheck (k : Nat) (v : Bool) (s : State) : (setPoison k v s).dmgCheck = s.dmgCheck := rfl
@[simp] theorem setPoison_l2 (k : Nat) (v : Bool) (s : State) : (setPoison k v s).l2 = s.l2 := rfl
@[simp] theorem setPoison_resvs (k : Nat) (v : Bool) (s : State) : (setPoison k v s).resvs = s.resvs := rfl
@[simp] theorem setPoison_pstamps (k : Nat) (v : Bool) (s : State) : (setPoison k v s).pstamps = s.pstamps := rfl
@[simp] theorem setPoison_busy (k : Nat) (v : Bool) (s : State) : (setPoison k v s).busy = s.busy := rfl
@[simp] theorem setPoison_l1 (k : Nat) (v : Bool) (s : State) : (setPoison k v s).l1 = s.l1 := rfl
@[simp] theorem setPoison_icache (k : Nat) (v : Bool) (s : State) : (setPoison k v s).icache = s.icache := rfl
@[simp] theorem setPoison_tlb (k : Nat) (v : Bool) (s : State) : (setPoison k v s).tlb = s.tlb := rfl
@[simp] theorem setPoison_links (k : Nat) (v : Bool) (s : State) : (setPoison k v s).links = s.links := rfl
@[simp] theorem setPoison_stores (k : Nat) (v : Bool) (s : State) : (setPoison k v s).stores = s.stores := rfl
@[simp] theorem setPoison_side (k : Nat) (v : Bool) (s : State) : (setPoison k v s).side = s.side := rfl
@[simp] theorem setPoison_faults (k : Nat) (v : Bool) (s : State) : (setPoison k v s).faults = s.faults := rfl
@[simp] theorem setPoison_grids (k : Nat) (v : Bool) (s : State) : (setPoison k v s).grids = s.grids := rfl
@[simp] theorem setPoison_blocks (k : Nat) (v : Bool) (s : State) : (setPoison k v s).blocks = s.blocks := rfl
@[simp] theorem setPoison_warps (k : Nat) (v : Bool) (s : State) : (setPoison k v s).warps = s.warps := rfl
@[simp] theorem setPoison_lastWarp (k : Nat) (v : Bool) (s : State) : (setPoison k v s).lastWarp = s.lastWarp := rfl
@[simp] theorem setPoison_locks (k : Nat) (v : Bool) (s : State) : (setPoison k v s).locks = s.locks := rfl
@[simp] theorem setPoison_copies (k : Nat) (v : Bool) (s : State) : (setPoison k v s).copies = s.copies := rfl
@[simp] theorem setPoison_fabs (k : Nat) (v : Bool) (s : State) : (setPoison k v s).fabs = s.fabs := rfl
@[simp] theorem setPoison_served (k : Nat) (v : Bool) (s : State) : (setPoison k v s).served = s.served := rfl
@[simp] theorem setPoison_mats (k : Nat) (v : Bool) (s : State) : (setPoison k v s).mats = s.mats := rfl
@[simp] theorem setPoison_forks (k : Nat) (v : Bool) (s : State) : (setPoison k v s).forks = s.forks := rfl
@[simp] theorem setPoison_forkReqs (k : Nat) (v : Bool) (s : State) : (setPoison k v s).forkReqs = s.forkReqs := rfl
@[simp] theorem setPoison_revmap (k : Nat) (v : Bool) (s : State) : (setPoison k v s).revmap = s.revmap := rfl
@[simp] theorem setPoison_ckpts (k : Nat) (v : Bool) (s : State) : (setPoison k v s).ckpts = s.ckpts := rfl
@[simp] theorem setPoison_husks (k : Nat) (v : Bool) (s : State) : (setPoison k v s).husks = s.husks := rfl
@[simp] theorem setPoison_saves (k : Nat) (v : Bool) (s : State) : (setPoison k v s).saves = s.saves := rfl
@[simp] theorem setPoison_sent (k : Nat) (v : Bool) (s : State) : (setPoison k v s).sent = s.sent := rfl

/-! Removing damage. -/

@[simp] theorem clearDamage_pw (u : Nat) (s : State) : (clearDamage u s).pw = s.pw := rfl
@[simp] theorem clearDamage_rw (u : Nat) (s : State) : (clearDamage u s).rw = s.rw := rfl
@[simp] theorem clearDamage_clock (u : Nat) (s : State) : (clearDamage u s).clock = s.clock := rfl
@[simp] theorem clearDamage_slot (u : Nat) (s : State) : (clearDamage u s).slot = s.slot := rfl
@[simp] theorem clearDamage_agenda (u : Nat) (s : State) : (clearDamage u s).agenda = s.agenda := rfl
@[simp] theorem clearDamage_frees (u : Nat) (s : State) : (clearDamage u s).frees = s.frees := rfl
@[simp] theorem clearDamage_iss (u : Nat) (s : State) : (clearDamage u s).iss = s.iss := rfl
@[simp] theorem clearDamage_nextId (u : Nat) (s : State) : (clearDamage u s).nextId = s.nextId := rfl
@[simp] theorem clearDamage_gridCount (u : Nat) (s : State) : (clearDamage u s).gridCount = s.gridCount := rfl
@[simp] theorem clearDamage_trigger (u : Nat) (s : State) : (clearDamage u s).trigger = s.trigger := rfl
@[simp] theorem clearDamage_margin (u : Nat) (s : State) : (clearDamage u s).margin = s.margin := rfl
@[simp] theorem clearDamage_lastQueue (u : Nat) (s : State) : (clearDamage u s).lastQueue = s.lastQueue := rfl
@[simp] theorem clearDamage_polled (u : Nat) (s : State) : (clearDamage u s).polled = s.polled := rfl
@[simp] theorem clearDamage_retired (u : Nat) (s : State) : (clearDamage u s).retired = s.retired := rfl
@[simp] theorem clearDamage_chans (u : Nat) (s : State) : (clearDamage u s).chans = s.chans := rfl
@[simp] theorem clearDamage_parts (u : Nat) (s : State) : (clearDamage u s).parts = s.parts := rfl
@[simp] theorem clearDamage_queues (u : Nat) (s : State) : (clearDamage u s).queues = s.queues := rfl
@[simp] theorem clearDamage_ctxs (u : Nat) (s : State) : (clearDamage u s).ctxs = s.ctxs := rfl
@[simp] theorem clearDamage_mem (u : Nat) (s : State) : (clearDamage u s).mem = s.mem := rfl
@[simp] theorem clearDamage_poison (u : Nat) (s : State) : (clearDamage u s).poison = s.poison := rfl
@[simp] theorem clearDamage_l2 (u : Nat) (s : State) : (clearDamage u s).l2 = s.l2 := rfl
@[simp] theorem clearDamage_resvs (u : Nat) (s : State) : (clearDamage u s).resvs = s.resvs := rfl
@[simp] theorem clearDamage_pstamps (u : Nat) (s : State) : (clearDamage u s).pstamps = s.pstamps := rfl
@[simp] theorem clearDamage_busy (u : Nat) (s : State) : (clearDamage u s).busy = s.busy := rfl
@[simp] theorem clearDamage_l1 (u : Nat) (s : State) : (clearDamage u s).l1 = s.l1 := rfl
@[simp] theorem clearDamage_icache (u : Nat) (s : State) : (clearDamage u s).icache = s.icache := rfl
@[simp] theorem clearDamage_tlb (u : Nat) (s : State) : (clearDamage u s).tlb = s.tlb := rfl
@[simp] theorem clearDamage_links (u : Nat) (s : State) : (clearDamage u s).links = s.links := rfl
@[simp] theorem clearDamage_stores (u : Nat) (s : State) : (clearDamage u s).stores = s.stores := rfl
@[simp] theorem clearDamage_side (u : Nat) (s : State) : (clearDamage u s).side = s.side := rfl
@[simp] theorem clearDamage_faults (u : Nat) (s : State) : (clearDamage u s).faults = s.faults := rfl
@[simp] theorem clearDamage_grids (u : Nat) (s : State) : (clearDamage u s).grids = s.grids := rfl
@[simp] theorem clearDamage_blocks (u : Nat) (s : State) : (clearDamage u s).blocks = s.blocks := rfl
@[simp] theorem clearDamage_warps (u : Nat) (s : State) : (clearDamage u s).warps = s.warps := rfl
@[simp] theorem clearDamage_lastWarp (u : Nat) (s : State) : (clearDamage u s).lastWarp = s.lastWarp := rfl
@[simp] theorem clearDamage_locks (u : Nat) (s : State) : (clearDamage u s).locks = s.locks := rfl
@[simp] theorem clearDamage_copies (u : Nat) (s : State) : (clearDamage u s).copies = s.copies := rfl
@[simp] theorem clearDamage_fabs (u : Nat) (s : State) : (clearDamage u s).fabs = s.fabs := rfl
@[simp] theorem clearDamage_served (u : Nat) (s : State) : (clearDamage u s).served = s.served := rfl
@[simp] theorem clearDamage_mats (u : Nat) (s : State) : (clearDamage u s).mats = s.mats := rfl
@[simp] theorem clearDamage_forks (u : Nat) (s : State) : (clearDamage u s).forks = s.forks := rfl
@[simp] theorem clearDamage_forkReqs (u : Nat) (s : State) : (clearDamage u s).forkReqs = s.forkReqs := rfl
@[simp] theorem clearDamage_revmap (u : Nat) (s : State) : (clearDamage u s).revmap = s.revmap := rfl
@[simp] theorem clearDamage_ckpts (u : Nat) (s : State) : (clearDamage u s).ckpts = s.ckpts := rfl
@[simp] theorem clearDamage_husks (u : Nat) (s : State) : (clearDamage u s).husks = s.husks := rfl
@[simp] theorem clearDamage_saves (u : Nat) (s : State) : (clearDamage u s).saves = s.saves := rfl
@[simp] theorem clearDamage_sent (u : Nat) (s : State) : (clearDamage u s).sent = s.sent := rfl

/-! Choosing lead or twin. -/

@[simp] theorem withSide_pw (d : Side) (s : State) : (withSide d s).pw = s.pw := rfl
@[simp] theorem withSide_rw (d : Side) (s : State) : (withSide d s).rw = s.rw := rfl
@[simp] theorem withSide_clock (d : Side) (s : State) : (withSide d s).clock = s.clock := rfl
@[simp] theorem withSide_slot (d : Side) (s : State) : (withSide d s).slot = s.slot := rfl
@[simp] theorem withSide_agenda (d : Side) (s : State) : (withSide d s).agenda = s.agenda := rfl
@[simp] theorem withSide_frees (d : Side) (s : State) : (withSide d s).frees = s.frees := rfl
@[simp] theorem withSide_nextId (d : Side) (s : State) : (withSide d s).nextId = s.nextId := rfl
@[simp] theorem withSide_gridCount (d : Side) (s : State) : (withSide d s).gridCount = s.gridCount := rfl
@[simp] theorem withSide_trigger (d : Side) (s : State) : (withSide d s).trigger = s.trigger := rfl
@[simp] theorem withSide_margin (d : Side) (s : State) : (withSide d s).margin = s.margin := rfl
@[simp] theorem withSide_lastQueue (d : Side) (s : State) : (withSide d s).lastQueue = s.lastQueue := rfl
@[simp] theorem withSide_polled (d : Side) (s : State) : (withSide d s).polled = s.polled := rfl
@[simp] theorem withSide_retired (d : Side) (s : State) : (withSide d s).retired = s.retired := rfl
@[simp] theorem withSide_chans (d : Side) (s : State) : (withSide d s).chans = s.chans := rfl
@[simp] theorem withSide_parts (d : Side) (s : State) : (withSide d s).parts = s.parts := rfl
@[simp] theorem withSide_queues (d : Side) (s : State) : (withSide d s).queues = s.queues := rfl
@[simp] theorem withSide_ctxs (d : Side) (s : State) : (withSide d s).ctxs = s.ctxs := rfl
@[simp] theorem withSide_mem (d : Side) (s : State) : (withSide d s).mem = s.mem := rfl
@[simp] theorem withSide_dmgData (d : Side) (s : State) : (withSide d s).dmgData = s.dmgData := rfl
@[simp] theorem withSide_dmgCheck (d : Side) (s : State) : (withSide d s).dmgCheck = s.dmgCheck := rfl
@[simp] theorem withSide_poison (d : Side) (s : State) : (withSide d s).poison = s.poison := rfl
@[simp] theorem withSide_l2 (d : Side) (s : State) : (withSide d s).l2 = s.l2 := rfl
@[simp] theorem withSide_resvs (d : Side) (s : State) : (withSide d s).resvs = s.resvs := rfl
@[simp] theorem withSide_pstamps (d : Side) (s : State) : (withSide d s).pstamps = s.pstamps := rfl
@[simp] theorem withSide_busy (d : Side) (s : State) : (withSide d s).busy = s.busy := rfl
@[simp] theorem withSide_l1 (d : Side) (s : State) : (withSide d s).l1 = s.l1 := rfl
@[simp] theorem withSide_icache (d : Side) (s : State) : (withSide d s).icache = s.icache := rfl
@[simp] theorem withSide_tlb (d : Side) (s : State) : (withSide d s).tlb = s.tlb := rfl
@[simp] theorem withSide_links (d : Side) (s : State) : (withSide d s).links = s.links := rfl
@[simp] theorem withSide_stores (d : Side) (s : State) : (withSide d s).stores = s.stores := rfl
@[simp] theorem withSide_side (d : Side) (s : State) : (withSide d s).side = s.side := rfl
@[simp] theorem withSide_faults (d : Side) (s : State) : (withSide d s).faults = s.faults := rfl
@[simp] theorem withSide_grids (d : Side) (s : State) : (withSide d s).grids = s.grids := rfl
@[simp] theorem withSide_blocks (d : Side) (s : State) : (withSide d s).blocks = s.blocks := rfl
@[simp] theorem withSide_warps (d : Side) (s : State) : (withSide d s).warps = s.warps := rfl
@[simp] theorem withSide_lastWarp (d : Side) (s : State) : (withSide d s).lastWarp = s.lastWarp := rfl
@[simp] theorem withSide_locks (d : Side) (s : State) : (withSide d s).locks = s.locks := rfl
@[simp] theorem withSide_copies (d : Side) (s : State) : (withSide d s).copies = s.copies := rfl
@[simp] theorem withSide_fabs (d : Side) (s : State) : (withSide d s).fabs = s.fabs := rfl
@[simp] theorem withSide_served (d : Side) (s : State) : (withSide d s).served = s.served := rfl
@[simp] theorem withSide_mats (d : Side) (s : State) : (withSide d s).mats = s.mats := rfl
@[simp] theorem withSide_forks (d : Side) (s : State) : (withSide d s).forks = s.forks := rfl
@[simp] theorem withSide_forkReqs (d : Side) (s : State) : (withSide d s).forkReqs = s.forkReqs := rfl
@[simp] theorem withSide_revmap (d : Side) (s : State) : (withSide d s).revmap = s.revmap := rfl
@[simp] theorem withSide_ckpts (d : Side) (s : State) : (withSide d s).ckpts = s.ckpts := rfl
@[simp] theorem withSide_husks (d : Side) (s : State) : (withSide d s).husks = s.husks := rfl
@[simp] theorem withSide_saves (d : Side) (s : State) : (withSide d s).saves = s.saves := rfl
@[simp] theorem withSide_sent (d : Side) (s : State) : (withSide d s).sent = s.sent := rfl

/-! Changing the issuing warp, and its registers. -/

@[simp] theorem modCur_pw (f : Warp → Warp) (s : State) : (modCur f s).pw = s.pw := rfl
@[simp] theorem modRegs_pw (f : Regs → Regs) (s : State) : (modRegs f s).pw = s.pw := rfl
@[simp] theorem modCur_rw (f : Warp → Warp) (s : State) : (modCur f s).rw = s.rw := rfl
@[simp] theorem modRegs_rw (f : Regs → Regs) (s : State) : (modRegs f s).rw = s.rw := rfl
@[simp] theorem modCur_clock (f : Warp → Warp) (s : State) : (modCur f s).clock = s.clock := rfl
@[simp] theorem modRegs_clock (f : Regs → Regs) (s : State) : (modRegs f s).clock = s.clock := rfl
@[simp] theorem modCur_slot (f : Warp → Warp) (s : State) : (modCur f s).slot = s.slot := rfl
@[simp] theorem modRegs_slot (f : Regs → Regs) (s : State) : (modRegs f s).slot = s.slot := rfl
@[simp] theorem modCur_agenda (f : Warp → Warp) (s : State) : (modCur f s).agenda = s.agenda := rfl
@[simp] theorem modRegs_agenda (f : Regs → Regs) (s : State) : (modRegs f s).agenda = s.agenda := rfl
@[simp] theorem modCur_frees (f : Warp → Warp) (s : State) : (modCur f s).frees = s.frees := rfl
@[simp] theorem modRegs_frees (f : Regs → Regs) (s : State) : (modRegs f s).frees = s.frees := rfl
@[simp] theorem modCur_iss (f : Warp → Warp) (s : State) : (modCur f s).iss = s.iss := rfl
@[simp] theorem modRegs_iss (f : Regs → Regs) (s : State) : (modRegs f s).iss = s.iss := rfl
@[simp] theorem modCur_nextId (f : Warp → Warp) (s : State) : (modCur f s).nextId = s.nextId := rfl
@[simp] theorem modRegs_nextId (f : Regs → Regs) (s : State) : (modRegs f s).nextId = s.nextId := rfl
@[simp] theorem modCur_gridCount (f : Warp → Warp) (s : State) : (modCur f s).gridCount = s.gridCount := rfl
@[simp] theorem modRegs_gridCount (f : Regs → Regs) (s : State) : (modRegs f s).gridCount = s.gridCount := rfl
@[simp] theorem modCur_trigger (f : Warp → Warp) (s : State) : (modCur f s).trigger = s.trigger := rfl
@[simp] theorem modRegs_trigger (f : Regs → Regs) (s : State) : (modRegs f s).trigger = s.trigger := rfl
@[simp] theorem modCur_margin (f : Warp → Warp) (s : State) : (modCur f s).margin = s.margin := rfl
@[simp] theorem modRegs_margin (f : Regs → Regs) (s : State) : (modRegs f s).margin = s.margin := rfl
@[simp] theorem modCur_lastQueue (f : Warp → Warp) (s : State) : (modCur f s).lastQueue = s.lastQueue := rfl
@[simp] theorem modRegs_lastQueue (f : Regs → Regs) (s : State) : (modRegs f s).lastQueue = s.lastQueue := rfl
@[simp] theorem modCur_polled (f : Warp → Warp) (s : State) : (modCur f s).polled = s.polled := rfl
@[simp] theorem modRegs_polled (f : Regs → Regs) (s : State) : (modRegs f s).polled = s.polled := rfl
@[simp] theorem modCur_retired (f : Warp → Warp) (s : State) : (modCur f s).retired = s.retired := rfl
@[simp] theorem modRegs_retired (f : Regs → Regs) (s : State) : (modRegs f s).retired = s.retired := rfl
@[simp] theorem modCur_chans (f : Warp → Warp) (s : State) : (modCur f s).chans = s.chans := rfl
@[simp] theorem modRegs_chans (f : Regs → Regs) (s : State) : (modRegs f s).chans = s.chans := rfl
@[simp] theorem modCur_parts (f : Warp → Warp) (s : State) : (modCur f s).parts = s.parts := rfl
@[simp] theorem modRegs_parts (f : Regs → Regs) (s : State) : (modRegs f s).parts = s.parts := rfl
@[simp] theorem modCur_queues (f : Warp → Warp) (s : State) : (modCur f s).queues = s.queues := rfl
@[simp] theorem modRegs_queues (f : Regs → Regs) (s : State) : (modRegs f s).queues = s.queues := rfl
@[simp] theorem modCur_ctxs (f : Warp → Warp) (s : State) : (modCur f s).ctxs = s.ctxs := rfl
@[simp] theorem modRegs_ctxs (f : Regs → Regs) (s : State) : (modRegs f s).ctxs = s.ctxs := rfl
@[simp] theorem modCur_mem (f : Warp → Warp) (s : State) : (modCur f s).mem = s.mem := rfl
@[simp] theorem modRegs_mem (f : Regs → Regs) (s : State) : (modRegs f s).mem = s.mem := rfl
@[simp] theorem modCur_dmgData (f : Warp → Warp) (s : State) : (modCur f s).dmgData = s.dmgData := rfl
@[simp] theorem modRegs_dmgData (f : Regs → Regs) (s : State) : (modRegs f s).dmgData = s.dmgData := rfl
@[simp] theorem modCur_dmgCheck (f : Warp → Warp) (s : State) : (modCur f s).dmgCheck = s.dmgCheck := rfl
@[simp] theorem modRegs_dmgCheck (f : Regs → Regs) (s : State) : (modRegs f s).dmgCheck = s.dmgCheck := rfl
@[simp] theorem modCur_poison (f : Warp → Warp) (s : State) : (modCur f s).poison = s.poison := rfl
@[simp] theorem modRegs_poison (f : Regs → Regs) (s : State) : (modRegs f s).poison = s.poison := rfl
@[simp] theorem modCur_l2 (f : Warp → Warp) (s : State) : (modCur f s).l2 = s.l2 := rfl
@[simp] theorem modRegs_l2 (f : Regs → Regs) (s : State) : (modRegs f s).l2 = s.l2 := rfl
@[simp] theorem modCur_resvs (f : Warp → Warp) (s : State) : (modCur f s).resvs = s.resvs := rfl
@[simp] theorem modRegs_resvs (f : Regs → Regs) (s : State) : (modRegs f s).resvs = s.resvs := rfl
@[simp] theorem modCur_pstamps (f : Warp → Warp) (s : State) : (modCur f s).pstamps = s.pstamps := rfl
@[simp] theorem modRegs_pstamps (f : Regs → Regs) (s : State) : (modRegs f s).pstamps = s.pstamps := rfl
@[simp] theorem modCur_busy (f : Warp → Warp) (s : State) : (modCur f s).busy = s.busy := rfl
@[simp] theorem modRegs_busy (f : Regs → Regs) (s : State) : (modRegs f s).busy = s.busy := rfl
@[simp] theorem modCur_l1 (f : Warp → Warp) (s : State) : (modCur f s).l1 = s.l1 := rfl
@[simp] theorem modRegs_l1 (f : Regs → Regs) (s : State) : (modRegs f s).l1 = s.l1 := rfl
@[simp] theorem modCur_icache (f : Warp → Warp) (s : State) : (modCur f s).icache = s.icache := rfl
@[simp] theorem modRegs_icache (f : Regs → Regs) (s : State) : (modRegs f s).icache = s.icache := rfl
@[simp] theorem modCur_tlb (f : Warp → Warp) (s : State) : (modCur f s).tlb = s.tlb := rfl
@[simp] theorem modRegs_tlb (f : Regs → Regs) (s : State) : (modRegs f s).tlb = s.tlb := rfl
@[simp] theorem modCur_links (f : Warp → Warp) (s : State) : (modCur f s).links = s.links := rfl
@[simp] theorem modRegs_links (f : Regs → Regs) (s : State) : (modRegs f s).links = s.links := rfl
@[simp] theorem modCur_stores (f : Warp → Warp) (s : State) : (modCur f s).stores = s.stores := rfl
@[simp] theorem modRegs_stores (f : Regs → Regs) (s : State) : (modRegs f s).stores = s.stores := rfl
@[simp] theorem modCur_side (f : Warp → Warp) (s : State) : (modCur f s).side = s.side := rfl
@[simp] theorem modRegs_side (f : Regs → Regs) (s : State) : (modRegs f s).side = s.side := rfl
@[simp] theorem modCur_faults (f : Warp → Warp) (s : State) : (modCur f s).faults = s.faults := rfl
@[simp] theorem modRegs_faults (f : Regs → Regs) (s : State) : (modRegs f s).faults = s.faults := rfl
@[simp] theorem modCur_grids (f : Warp → Warp) (s : State) : (modCur f s).grids = s.grids := rfl
@[simp] theorem modRegs_grids (f : Regs → Regs) (s : State) : (modRegs f s).grids = s.grids := rfl
@[simp] theorem modCur_blocks (f : Warp → Warp) (s : State) : (modCur f s).blocks = s.blocks := rfl
@[simp] theorem modRegs_blocks (f : Regs → Regs) (s : State) : (modRegs f s).blocks = s.blocks := rfl
@[simp] theorem modCur_lastWarp (f : Warp → Warp) (s : State) : (modCur f s).lastWarp = s.lastWarp := rfl
@[simp] theorem modRegs_lastWarp (f : Regs → Regs) (s : State) : (modRegs f s).lastWarp = s.lastWarp := rfl
@[simp] theorem modCur_locks (f : Warp → Warp) (s : State) : (modCur f s).locks = s.locks := rfl
@[simp] theorem modRegs_locks (f : Regs → Regs) (s : State) : (modRegs f s).locks = s.locks := rfl
@[simp] theorem modCur_copies (f : Warp → Warp) (s : State) : (modCur f s).copies = s.copies := rfl
@[simp] theorem modRegs_copies (f : Regs → Regs) (s : State) : (modRegs f s).copies = s.copies := rfl
@[simp] theorem modCur_fabs (f : Warp → Warp) (s : State) : (modCur f s).fabs = s.fabs := rfl
@[simp] theorem modRegs_fabs (f : Regs → Regs) (s : State) : (modRegs f s).fabs = s.fabs := rfl
@[simp] theorem modCur_served (f : Warp → Warp) (s : State) : (modCur f s).served = s.served := rfl
@[simp] theorem modRegs_served (f : Regs → Regs) (s : State) : (modRegs f s).served = s.served := rfl
@[simp] theorem modCur_mats (f : Warp → Warp) (s : State) : (modCur f s).mats = s.mats := rfl
@[simp] theorem modRegs_mats (f : Regs → Regs) (s : State) : (modRegs f s).mats = s.mats := rfl
@[simp] theorem modCur_forks (f : Warp → Warp) (s : State) : (modCur f s).forks = s.forks := rfl
@[simp] theorem modRegs_forks (f : Regs → Regs) (s : State) : (modRegs f s).forks = s.forks := rfl
@[simp] theorem modCur_forkReqs (f : Warp → Warp) (s : State) : (modCur f s).forkReqs = s.forkReqs := rfl
@[simp] theorem modRegs_forkReqs (f : Regs → Regs) (s : State) : (modRegs f s).forkReqs = s.forkReqs := rfl
@[simp] theorem modCur_revmap (f : Warp → Warp) (s : State) : (modCur f s).revmap = s.revmap := rfl
@[simp] theorem modRegs_revmap (f : Regs → Regs) (s : State) : (modRegs f s).revmap = s.revmap := rfl
@[simp] theorem modCur_ckpts (f : Warp → Warp) (s : State) : (modCur f s).ckpts = s.ckpts := rfl
@[simp] theorem modRegs_ckpts (f : Regs → Regs) (s : State) : (modRegs f s).ckpts = s.ckpts := rfl
@[simp] theorem modCur_husks (f : Warp → Warp) (s : State) : (modCur f s).husks = s.husks := rfl
@[simp] theorem modRegs_husks (f : Regs → Regs) (s : State) : (modRegs f s).husks = s.husks := rfl
@[simp] theorem modCur_saves (f : Warp → Warp) (s : State) : (modCur f s).saves = s.saves := rfl
@[simp] theorem modRegs_saves (f : Regs → Regs) (s : State) : (modRegs f s).saves = s.saves := rfl
@[simp] theorem modCur_sent (f : Warp → Warp) (s : State) : (modCur f s).sent = s.sent := rfl
@[simp] theorem modRegs_sent (f : Regs → Regs) (s : State) : (modRegs f s).sent = s.sent := rfl

end Sys2Proof.Machine
end

