-- ==== Sys2Proof/Laws/Memory.lean ====
section
/-! SUPPORT. Memory: reading after writing, and that every memory operation keeps the canonical form. -/

set_option Elab.async false

namespace Sys2Proof.Machine

/-- A byte set in memory keeps the form. -/
theorem Memory_wf_lset {m : Memory} {k : Nat} {b : Byte} (h : Memory.wf m = true) : Memory.wf (lset 0 k b m) = true := by
  simp only [Memory.wf, Bool.and_eq_true, List.all_eq_true] at h ⊢
  refine ⟨keysRise_lset h.1, fun e he => ?_⟩
  rcases mem_lset he with ⟨rfl, hb⟩ | he
  · simpa using hb
  · exact h.2 e he

/-- Writing bytes keeps the form. -/
theorem Memory_wf_write {m : Memory} {k : Nat} {bs : List Byte} (h : Memory.wf m = true) :
    Memory.wf (Memory.write m k bs) = true := by
  induction bs generalizing m k with
  | nil => exact h
  | cons b t ih => exact ih (Memory_wf_lset h)

/-- Leaving bytes out keeps the form. -/
theorem Memory_wf_filter {m : Memory} {p : Host.Cell → Bool} (h : Memory.wf m = true) : Memory.wf (m.filter p) = true := by
  simp only [Memory.wf, Bool.and_eq_true, List.all_eq_true] at h ⊢
  exact ⟨keysRise_filter h.1, fun e he => h.2 e (List.mem_filter.1 he).1⟩

/-- Memory right after reset has the form. -/
theorem Memory_wf_reset : Memory.wf State.reset.mem = true := rfl

/-- A byte read after a write: the byte written, or what stood there. -/
theorem lget_write (m : Memory) (k a : Nat) (bs : List Byte) :
    lget 0 a (Memory.write m k bs) = if k ≤ a ∧ a < k + bs.length then bs.getD (a - k) 0 else lget 0 a m := by
  induction bs generalizing m k with
  | nil => rw [if_neg (by simp)]; rfl
  | cons b t ih =>
    simp only [Memory.write, ih, lget_lset, List.length_cons]
    by_cases h1 : k = a
    · subst h1; simp
    · by_cases h2 : k + 1 ≤ a
      · obtain ⟨n, rfl⟩ : ∃ n, a = k + 1 + n := ⟨a - (k + 1), by omega⟩
        have e1 : k + 1 + n - (k + 1) = n := by omega
        have e2 : k + 1 + n - k = n + 1 := by omega
        simp only [e1, e2, List.getD_cons_succ, h1, if_false]
        split <;> split <;> first | rfl | omega
      · have h3 : ¬ (k ≤ a ∧ a < k + (t.length + 1)) := by omega
        have h4 : ¬ (k + 1 ≤ a ∧ a < k + 1 + t.length) := by omega
        rw [if_neg h3, if_neg h4, if_neg h1]

/-- A byte of host or peer memory read after writing bytes. -/
theorem readByte_writeBytes (s : State) (k a : Nat) (bs : List Byte) (h : isLocal a = false) :
    readByte (writeBytes k bs s) a = if k ≤ a ∧ a < k + bs.length then bs.getD (a - k) 0 else readByte s a := by
  unfold readByte
  rw [h]
  exact lget_write s.mem k a bs

/-- The memory form of a state. -/
def memOk (s : State) : Prop := Memory.wf s.mem = true

@[simp] theorem l1Update_mem (c k : Nat) (bs : List Byte) (s : State) : (l1Update c k bs s).mem = s.mem := rfl
@[simp] theorem l1Clear_mem (c : Nat) (s : State) : (l1Clear c s).mem = s.mem := rfl
@[simp] theorem l1Drop_mem (c k n : Nat) (s : State) : (l1Drop c k n s).mem = s.mem := rfl
@[simp] theorem freshId_mem (s : State) : (freshId s).2.mem = s.mem := rfl
@[simp] theorem freeNat_mem (s : State) : (freeNat s).2.mem = s.mem := rfl

@[simp] theorem interrupt_mem (v : Nat) (s : State) : (interrupt v s).mem = s.mem := by
  unfold interrupt; split <;> rfl

@[simp] theorem noteError_mem (pa kind : Nat) (scrub : Bool) (sym : Nat) (s : State) :
    (noteError pa kind scrub sym s).mem = s.mem := by
  unfold noteError; dsimp only; split <;> simp

@[simp] theorem noteRead_mem (u : Nat) (c : Codeword) (scrub : Bool) (s : State) : (noteRead u c scrub s).mem = s.mem := by
  unfold noteRead
  dsimp only
  repeat' split
  all_goals simp

@[simp] theorem peerStamp_mem (k : Nat) (st : StampOp) (s : State) : (peerStamp k st s).mem = s.mem := by
  unfold peerStamp
  repeat' split
  all_goals rfl

/-- Bringing a sector into the second-level cache leaves memory itself alone. -/
@[simp] theorem touch_mem (sec : Nat) (s : State) : (touch sec s).mem = s.mem := by
  unfold touch
  split <;> simp

theorem writeBytes_memOk {k : Nat} {bs : List Byte} {s : State} (h : memOk s) : memOk (writeBytes k bs s) := Memory_wf_write h

/-- Bringing a sector into the second-level cache keeps the memory form. -/
theorem touch_memOk {sec : Nat} {s : State} (h : memOk s) : memOk (touch sec s) := by
  unfold memOk
  rw [touch_mem]
  exact h

/-- A write inside one sector keeps the memory form. -/
theorem sliceWrite_memOk {k : Nat} {bs : List Byte} {st : StampOp} {s : State} (h : memOk s) : memOk (sliceWrite k bs st s) := by
  unfold sliceWrite
  split
  · show Memory.wf (State.mem _) = true
    dsimp only
    rw [modL2_mem]
    repeat' split
    all_goals first | exact h | exact touch_memOk h
  · show Memory.wf (State.mem _) = true
    rw [peerStamp_mem]
    exact Memory_wf_write h

theorem sliceWriteAll_memOk {n k : Nat} {bs : List Byte} {st : StampOp} {s : State} (h : memOk s) :
    memOk (sliceWriteAll k bs st n s) := by
  induction n generalizing k bs s with
  | zero => exact h
  | succ n ih =>
    unfold sliceWriteAll
    split
    · exact h
    · exact ih (sliceWrite_memOk h)

theorem devStore_memOk {k : Nat} {bs : List Byte} {s : State} (h : memOk s) : memOk (devStore k bs s) := sliceWriteAll_memOk h

theorem writePoison_memOk {sec : Nat} {s : State} (h : memOk s) : memOk (writePoison sec s) := by
  unfold writePoison
  split
  · exact sliceWrite_memOk h
  · show Memory.wf (State.mem _) = true
    dsimp only
    rw [modL2_mem]
    split <;> exact h

/-- A property that every element's effect keeps holds after a fold. -/
theorem foldl_keeps {α σ : Type} {P : σ → Prop} {f : σ → α → σ} (hf : ∀ s a, P s → P (f s a)) (l : List α) {s : σ} (h : P s) :
    P (l.foldl f s) := by
  induction l generalizing s with
  | nil => exact h
  | cons a t ih => exact ih (hf s a h)

theorem physWrite_memOk {pa : Nat} {bs : List Byte} {s : State} (h : memOk s) : memOk (physWrite pa bs s) := by
  unfold physWrite
  refine foldl_keeps (fun s i h => ?_) _ h
  split
  · exact sliceWrite_memOk h
  · exact h

theorem flushFaults_memOk {c n : Nat} {s : State} (h : memOk s) : memOk (flushFaults c n s) := by
  induction n generalizing s with
  | zero => exact h
  | succ n ih =>
    unfold flushFaults
    dsimp only
    split
    · exact h
    · split
      · refine ih ?_
        show Memory.wf (interrupt _ _).mem = true
        simp only [interrupt_mem, modCtx_mem]
        exact physWrite_memOk h
      · exact h

theorem flushEvents_memOk {c n : Nat} {s : State} (h : memOk s) : memOk (flushEvents c n s) := by
  induction n generalizing s with
  | zero => exact h
  | succ n ih =>
    unfold flushEvents
    dsimp only
    split
    · exact h
    · split
      · refine ih ?_
        show Memory.wf (interrupt _ _).mem = true
        simp only [interrupt_mem, modCtx_mem]
        exact physWrite_memOk h
      · exact h

theorem faultRecord_memOk {c kind core level va : Nat} {s : State} (h : memOk s) :
    memOk (faultRecord c kind core level va s) := flushFaults_memOk h

theorem eventRecord_memOk {c kind cause core warp tpc addr : Nat} {s : State} (h : memOk s) :
    memOk (eventRecord c kind cause core warp tpc addr s) := flushEvents_memOk h

end Sys2Proof.Machine
end

