-- ==== Sys2Proof/Laws/Lanes.lean ====
section
/-! SUPPORT. Lane sets, and registers read after they are written. -/

set_option Elab.async false

namespace Sys2Proof.Machine

/-- The warp of the issuing bundle stands in the state. -/
def hasWarp (s : State) : Prop := (lfind s.iss.wk s.warps).isSome = true

theorem mem_lanesOf {m : Word} {l : Nat} : l ∈ lanesOf m ↔ l < 32 ∧ m.getLsbD l = true := by
  simp [lanesOf]

theorem foldl_or_getLsbD (ls : List Nat) (m : Word) (l : Nat) :
    (ls.foldl (fun m l => m ||| BitVec.ofNat 32 (1 <<< l)) m).getLsbD l = (m.getLsbD l || (decide (l < 32) && decide (l ∈ ls))) := by
  induction ls generalizing m with
  | nil => simp
  | cons a t ih =>
    rw [List.foldl_cons, ih]
    simp only [BitVec.getLsbD_or, BitVec.getLsbD_ofNat, Nat.shiftLeft_eq, Nat.one_mul, Nat.testBit_two_pow, List.mem_cons]
    have e : decide (l = a) = decide (a = l) := by simp [eq_comm]
    by_cases h : l < 32 <;> simp [h, e, Bool.or_assoc]

/-- A set of lanes holds the lanes of its list. -/
theorem getLsbD_laneSet (ls : List Nat) (l : Nat) : (laneSet ls).getLsbD l = (decide (l < 32) && decide (l ∈ ls)) := by
  unfold laneSet
  rw [foldl_or_getLsbD]
  simp

/-- A lane is active where R41 says so. -/
theorem getLsbD_active (s : State) (g l : Nat) : (active s g).getLsbD l = (decide (l < 32) && laneActive s g l) := by
  unfold active
  rw [getLsbD_laneSet]
  by_cases h : l < 32 <;> simp [h]

theorem mem_lanesOf_active {s : State} {g l : Nat} : l ∈ lanesOf (active s g) ↔ l < 32 ∧ laneActive s g l = true := by
  rw [mem_lanesOf, getLsbD_active]; simp

theorem active_subset {s : State} {g l : Nat} (h : laneActive s g l = true) : s.iss.lanes.getLsbD l = true := by
  unfold laneActive at h; simp at h; exact h.1.1.1

theorem lmod_lmod {α : Type} (k : Nat) (f g : α → α) (m : SMap α) : lmod k g (lmod k f m) = lmod k (fun x => g (f x)) m := by
  induction m with
  | nil => rfl
  | cons e t ih =>
    obtain ⟨i, u⟩ := e
    by_cases h : i = k <;> simp [lmod, h, ih]

theorem lmod_id {α : Type} (k : Nat) (m : SMap α) : lmod k (fun x => x) m = m := by
  induction m with
  | nil => rfl
  | cons e t ih =>
    obtain ⟨i, u⟩ := e
    by_cases h : i = k <;> simp [lmod, h, ih]

theorem lmod_congr {α : Type} {k : Nat} {f g : α → α} {m : SMap α} (h : ∀ x, lfind k m = some x → f x = g x) :
    lmod k f m = lmod k g m := by
  induction m with
  | nil => rfl
  | cons e t ih =>
    obtain ⟨i, u⟩ := e
    by_cases hi : i = k
    · simp [lmod, hi]; exact h u (by simp [lfind, hi])
    · simp [lmod, hi]; exact ih fun x hx => h x (by simpa [lfind, hi] using hx)

theorem modCur_modCur (f g : Warp → Warp) (s : State) : modCur g (modCur f s) = modCur (fun w => g (f w)) s := by
  simp only [modCur, modWarp, lmod_lmod]

theorem sideRegs_sideRegs (d : Side) (f g : Regs → Regs) (w : Warp) :
    sideRegs d g (sideRegs d f w) = sideRegs d (fun r => g (f r)) w := by cases d <;> rfl

theorem sideRegs_id (d : Side) (w : Warp) : sideRegs d (fun r => r) w = w := by cases d <;> rfl

theorem modRegs_modRegs (f g : Regs → Regs) (s : State) : modRegs g (modRegs f s) = modRegs (fun r => g (f r)) s := by
  unfold modRegs
  rw [modCur_modCur]
  simp only [modCur_iss, sideRegs_sideRegs]

theorem modCur_id (s : State) : modCur (fun w => w) s = s := by unfold modCur modWarp; rw [lmod_id]

theorem modRegs_id (s : State) : modRegs (fun r => r) s = s := by
  unfold modRegs
  rw [show sideRegs s.iss.side (fun r => r) = fun w => w from funext (sideRegs_id _), modCur_id]

theorem hasWarp_modCur {f : Warp → Warp} {s : State} : hasWarp (modCur f s) ↔ hasWarp s := by
  simp [hasWarp, modCur, modWarp, lfind_lmod]

theorem hasWarp_modRegs {f : Regs → Regs} {s : State} : hasWarp (modRegs f s) ↔ hasWarp s := hasWarp_modCur

/-- A warp read after a change of one. -/
theorem warpOf_modWarp (k j : Nat) (f : Warp → Warp) (s : State) :
    warpOf (modWarp k f s) j = if k = j ∧ (lfind j s.warps).isSome then f (warpOf s j) else warpOf s j := by
  simp only [warpOf, modWarp, lget_lmod]

theorem curWarp_modCur {f : Warp → Warp} {s : State} (h : hasWarp s) : curWarp (modCur f s) = f (curWarp s) := by
  have : (lfind s.iss.wk s.warps).isSome = true := h
  simp only [curWarp, modCur, modWarp_iss, warpOf_modWarp, this, and_self, if_true]

theorem warpOf_modCur_other {f : Warp → Warp} {s : State} {k : Nat} (h : k ≠ s.iss.wk) :
    warpOf (modCur f s) k = warpOf s k := by
  simp only [modCur, warpOf_modWarp]
  rw [if_neg]
  rintro ⟨h1, -⟩
  exact h h1.symm

/-- The registers that the bundle reads, after a change of those that it writes. -/
theorem regsOf_modRegs {f : Regs → Regs} {s : State} (h : hasWarp s) : regsOf (modRegs f s) = f (regsOf s) := by
  unfold regsOf
  rw [modRegs_iss]
  unfold modRegs
  rw [curWarp_modCur h]
  cases s.iss.side <;> simp [sideRegs]

/-- An effect on each lane that changes registers is one change of registers. -/
theorem foldl_modRegs (F : Nat → Regs → Regs) (ls : List Nat) (s : State) :
    ls.foldl (fun t l => modRegs (F l) t) s = modRegs (fun r => ls.foldl (fun r l => F l r) r) s := by
  induction ls generalizing s with
  | nil => exact (modRegs_id s).symm
  | cons a t ih => rw [List.foldl_cons, ih, modRegs_modRegs]; rfl

/-- The registers after a write of one w register of a lane. -/
def wput (reg l : Nat) (v : Word) (r : Regs) : Regs :=
  { r with w := lset 0 (laneKey reg l) v r.w, bad := healed 0 reg l r.bad }

/-- The registers after a write of one p register of a lane (R342). -/
def pput (reg l : Nat) (v : Bool) (r : Regs) : Regs :=
  if reg = 0 then r else { r with p := lset false (laneKey reg l) v r.p, bad := healed 2 reg l r.bad }

/-- The registers after a lane-wise write of w registers. -/
def wset (ls : List Nat) (reg : Nat) (f : Nat → Word) (r : Regs) : Regs := ls.foldl (fun r l => wput reg l (f l) r) r

/-- The registers after a lane-wise write of p registers. -/
def pset (ls : List Nat) (reg : Nat) (f : Nat → Bool) (r : Regs) : Regs := ls.foldl (fun r l => pput reg l (f l) r) r

/-- A write only heals failing words. -/
theorem mem_healed {k r l : Nat} {e : Nat × Nat × Nat} {bad : List (Nat × Nat × Nat)} (h : e ∈ healed k r l bad) : e ∈ bad :=
  (List.mem_filter.1 h).1

theorem wput_bad (reg l : Nat) (v : Word) (r : Regs) : ∀ e ∈ (wput reg l v r).bad, e ∈ r.bad := fun _ => mem_healed

theorem pput_bad (reg l : Nat) (v : Bool) (r : Regs) : ∀ e ∈ (pput reg l v r).bad, e ∈ r.bad := by
  intro e h
  unfold pput at h
  split at h
  · exact h
  · exact mem_healed h

@[simp] theorem pput_w (reg l : Nat) (v : Bool) (r : Regs) : (pput reg l v r).w = r.w := by unfold pput; split <;> rfl
@[simp] theorem wput_p (reg l : Nat) (v : Word) (r : Regs) : (wput reg l v r).p = r.p := rfl

/-- A fold of changes that only heal failing words does so too. -/
theorem foldl_bad {α : Type} {F : Regs → α → Regs} (hF : ∀ r a, ∀ e ∈ (F r a).bad, e ∈ r.bad) (ls : List α) (r : Regs) :
    ∀ e ∈ (ls.foldl F r).bad, e ∈ r.bad :=
  foldl_keeps (P := fun x => ∀ e ∈ x.bad, e ∈ r.bad) (fun x a h e he => h e (hF x a e he)) ls fun _ h => h

theorem writeLanes_eq (ls : Word) (reg : Nat) (f : Nat → Word) (s : State) :
    writeLanes ls reg f s = modRegs (wset (lanesOf ls) reg f) s := foldl_modRegs (fun l r => wput reg l (f l) r) (lanesOf ls) s

theorem writeP_eq (reg l : Nat) (v : Bool) (s : State) : writeP reg l v s = modRegs (pput reg l v) s := by
  unfold writeP pput
  split
  · exact (modRegs_id s).symm
  · rfl

theorem writeLanesP_eq (ls : Word) (reg : Nat) (f : Nat → Bool) (s : State) :
    writeLanesP ls reg f s = modRegs (pset (lanesOf ls) reg f) s := by
  unfold writeLanesP eachLane
  simp only [writeP_eq]
  exact foldl_modRegs _ _ _

/-- The registers after a write of one pair. -/
def dput (reg l : Nat) (v : BitVec 64) (r : Regs) : Regs :=
  wput (reg + 1) l (v.extractLsb' 32 32) (wput reg l (v.extractLsb' 0 32) r)

theorem writeD_eq (reg l : Nat) (v : BitVec 64) (s : State) :
    writeD reg l v s = modRegs (dput reg l v) s := by
  unfold writeD writeW
  rw [modRegs_modRegs]
  rfl

/-- The w registers after a lane-wise write of pairs. -/
def dset (ls : List Nat) (reg : Nat) (f : Nat → BitVec 64) (r : Regs) : Regs :=
  ls.foldl (fun r l => dput reg l (f l) r) r

theorem writeLanesD_eq (ls : Word) (reg : Nat) (f : Nat → BitVec 64) (s : State) :
    writeLanesD ls reg f s = modRegs (dset (lanesOf ls) reg f) s := by
  unfold writeLanesD eachLane
  simp only [writeD_eq]
  exact foldl_modRegs _ _ _

theorem laneKey_inj {r l r' l' : Nat} (h : l < 32) (h' : l' < 32) : laneKey r l = laneKey r' l' ↔ r = r' ∧ l = l' := by
  unfold laneKey; omega

/-- A w register of a lane after a lane-wise write. -/
theorem wset_read {ls : List Nat} (hl : ∀ l ∈ ls, l < 32) (reg : Nat) (f : Nat → Word) (r : Regs) {q l : Nat} (h : l < 32) :
    lget 0 (laneKey q l) (wset ls reg f r).w = if q = reg ∧ l ∈ ls then f l else lget 0 (laneKey q l) r.w := by
  induction ls generalizing r with
  | nil => simp [wset]
  | cons a t ih =>
    have ha := hl a (by simp)
    rw [show wset (a :: t) reg f r = wset t reg f (wput reg a (f a) r) from rfl]
    rw [ih (fun l h => hl l (by simp [h]))]
    simp only [wput, lget_lset, laneKey_inj ha h, List.mem_cons]
    by_cases h1 : q = reg <;> by_cases h2 : l ∈ t <;> by_cases h3 : a = l <;> simp [h1, h2, h3] <;> grind

theorem wset_bad (ls : List Nat) (reg : Nat) (f : Nat → Word) (r : Regs) : ∀ e ∈ (wset ls reg f r).bad, e ∈ r.bad :=
  foldl_bad (fun r l => wput_bad reg l (f l) r) ls r

theorem dset_bad (ls : List Nat) (reg : Nat) (f : Nat → BitVec 64) (r : Regs) : ∀ e ∈ (dset ls reg f r).bad, e ∈ r.bad :=
  foldl_bad (fun r l e h => wput_bad reg l _ r e (wput_bad (reg + 1) l _ _ e h)) ls r

theorem pset_bad (ls : List Nat) (reg : Nat) (f : Nat → Bool) (r : Regs) : ∀ e ∈ (pset ls reg f r).bad, e ∈ r.bad :=
  foldl_bad (fun r l => pput_bad reg l (f l) r) ls r

theorem wset_other (ls : List Nat) (reg : Nat) (f : Nat → Word) (r : Regs) :
    { wset ls reg f r with w := [], bad := [] } = { r with w := [], bad := [] } := by
  induction ls generalizing r with
  | nil => rfl
  | cons a t ih => exact ih _

theorem dset_read {ls : List Nat} (hl : ∀ l ∈ ls, l < 32) (reg : Nat) (f : Nat → BitVec 64) (r : Regs) {q l : Nat} (h : l < 32) :
    lget 0 (laneKey q l) (dset ls reg f r).w =
      if reg ≤ q ∧ q < reg + 2 ∧ l ∈ ls then (f l).extractLsb' (32 * (q - reg)) 32 else lget 0 (laneKey q l) r.w := by
  induction ls generalizing r with
  | nil => simp [dset]
  | cons a t ih =>
    have ha := hl a (by simp)
    rw [show dset (a :: t) reg f r = dset t reg f (dput reg a (f a) r) from rfl]
    rw [ih (fun l h => hl l (by simp [h]))]
    simp only [dput, wput, lget_lset, laneKey_inj ha h, List.mem_cons]
    by_cases h2 : l ∈ t
    · by_cases h1 : reg ≤ q ∧ q < reg + 2
      · simp [h1, h2]
      · have e1 : ¬ reg + 1 = q := by omega
        have e2 : ¬ reg = q := by omega
        simp [h2, e1, e2]
    · by_cases h3 : a = l
      · subst h3
        rcases Nat.lt_trichotomy q reg with h1 | h1 | h1
        · rw [if_neg (by simp [h2]), if_neg (by omega), if_neg (by omega), if_neg (by omega)]
        · subst h1; simp [h2]
        · by_cases h4 : q = reg + 1
          · subst h4; simp [h2]
          · rw [if_neg (by simp [h2]), if_neg (by omega), if_neg (by omega), if_neg (by omega)]
      · have h3' : ¬ l = a := fun e => h3 e.symm
        simp [h2, h3, h3']

theorem dset_other (ls : List Nat) (reg : Nat) (f : Nat → BitVec 64) (r : Regs) :
    { dset ls reg f r with w := [], bad := [] } = { r with w := [], bad := [] } := by
  induction ls generalizing r with
  | nil => rfl
  | cons a t ih => exact ih _

/-- A p register of a lane after a lane-wise write. -/
theorem pset_read {ls : List Nat} (hl : ∀ l ∈ ls, l < 32) (reg : Nat) (f : Nat → Bool) (r : Regs) {q l : Nat} (h : l < 32) :
    lget false (laneKey q l) (pset ls reg f r).p =
      if q = reg ∧ reg ≠ 0 ∧ l ∈ ls then f l else lget false (laneKey q l) r.p := by
  induction ls generalizing r with
  | nil => simp [pset]
  | cons a t ih =>
    have ha := hl a (by simp)
    rw [show pset (a :: t) reg f r = pset t reg f (pput reg a (f a) r) from rfl]
    rw [ih (fun l h => hl l (by simp [h]))]
    by_cases h0 : reg = 0
    · simp [h0, pput]
    · simp only [pput, h0, if_false, lget_lset, laneKey_inj ha h, List.mem_cons]
      by_cases h1 : q = reg <;> by_cases h2 : l ∈ t <;> by_cases h3 : a = l <;> simp [h1, h2, h3] <;> grind

theorem pset_other (ls : List Nat) (reg : Nat) (f : Nat → Bool) (r : Regs) :
    { pset ls reg f r with p := [], bad := [] } = { r with p := [], bad := [] } := by
  induction ls generalizing r with
  | nil => rfl
  | cons a t ih =>
    rw [show pset (a :: t) reg f r = pset t reg f (pput reg a (f a) r) from rfl, ih]
    unfold pput
    split <;> rfl

end Sys2Proof.Machine
end

