-- ==== Sys2Proof/Laws/Issue.lean ====
section
/-! SUPPORT. What an issue does, said once: an instruction whose body changes registers only. -/

set_option Elab.async false

namespace Sys2Proof.Machine

/-- The registers after the zero policy has written one destination of one lane (R41). -/
def zeroArg (l : Nat) (a : Arg) (r : Regs) : Regs :=
  match a with
  | .wr 0 reg n _ => (List.range n).foldl (fun r i => wput (reg + i) l 0 r) r
  | .wr 2 reg n _ => (List.range n).foldl (fun r i => pput (reg + i) l false r) r
  | _ => r

/-- The registers after the zero policy over lanes. -/
def zeroRegs (args : List Arg) (ls : List Nat) (r : Regs) : Regs := ls.foldl (fun r l => args.foldl (fun r a => zeroArg l a r) r) r

/-- The registers of an issuing instruction after the zero policy, where its prefix asks for it. -/
def zeroIf (i : Instr) (s : State) (r : Regs) : Regs :=
  if (curPfx s).zero then
    zeroRegs (info (curPfx s) s.iss.hasPfx i).args
      (lanesOf (s.iss.lanes &&& ~~~(active s (info (curPfx s) s.iss.hasPfx i).g))) r
  else r

theorem foldl_modRegs' {α : Type} (F : α → Regs → Regs) (ls : List α) (s : State) :
    ls.foldl (fun t a => modRegs (F a) t) s = modRegs (fun r => ls.foldl (fun r a => F a r) r) s := by
  induction ls generalizing s with
  | nil => exact (modRegs_id s).symm
  | cons a t ih => rw [List.foldl_cons, ih, modRegs_modRegs]; rfl

theorem zeroArg_state (l : Nat) (a : Arg) (t : State) :
    (match a with
      | .wr 0 r n _ => (List.range n).foldl (fun s i => writeW (r + i) l 0 s) t
      | .wr 2 r n _ => (List.range n).foldl (fun s i => writeP (r + i) l false s) t
      | _ => t) = modRegs (zeroArg l a) t := by
  unfold zeroArg
  split
  · exact foldl_modRegs' _ _ _
  · simp only [writeP_eq]; exact foldl_modRegs' _ _ _
  · exact (modRegs_id t).symm

/-- The zero policy changes registers only. -/
theorem zeroPolicy_eq (f : Info) (act : Word) (s : State) :
    zeroPolicy f act s =
      if (curPfx s).zero then modRegs (zeroRegs f.args (lanesOf (s.iss.lanes &&& ~~~act))) s else s := by
  unfold zeroPolicy
  split
  · unfold eachLane zeroRegs
    rw [← foldl_modRegs']
    congr 1
    funext t l
    rw [← foldl_modRegs']
    show List.foldl _ _ _ = _
    congr 1
    funext t a
    exact zeroArg_state l a t
  · rfl

/-- An arg names w register q as a destination. -/
def coversW (q : Nat) (a : Arg) : Bool := match a with | .wr 0 r n _ => decide (r ≤ q) && decide (q < r + n) | _ => false

/-- An arg names p register q, other than p0, as a destination. -/
def coversP (q : Nat) (a : Arg) : Bool :=
  match a with | .wr 2 r n _ => decide (r ≤ q) && decide (q < r + n) && decide (q ≠ 0) | _ => false

theorem foldl_w_read {n reg l : Nat} (hl : l < 32) (r : Regs) {q m : Nat} (hm : m < 32) :
    lget 0 (laneKey q m) ((List.range n).foldl (fun r i => wput (reg + i) l 0 r) r).w =
      if (reg ≤ q ∧ q < reg + n) ∧ l = m then 0 else lget 0 (laneKey q m) r.w := by
  induction n with
  | zero => rw [if_neg (by omega)]; rfl
  | succ n ih =>
    rw [List.range_succ, List.foldl_append]
    simp only [List.foldl_cons, List.foldl_nil, wput, lget_lset, laneKey_inj hl hm]
    simp only [wput] at ih
    rw [ih]
    by_cases h1 : l = m
    · by_cases h2 : reg + n = q
      · rw [if_pos ⟨h2, h1⟩, if_pos ⟨by omega, h1⟩]
      · rw [if_neg (by tauto)]
        by_cases h3 : reg ≤ q ∧ q < reg + n
        · rw [if_pos ⟨h3, h1⟩, if_pos ⟨by omega, h1⟩]
        · rw [if_neg (by tauto), if_neg (by omega)]
    · simp [h1]

theorem foldl_p_read {n reg l : Nat} (hl : l < 32) (r : Regs) {q m : Nat} (hm : m < 32) :
    lget false (laneKey q m) ((List.range n).foldl (fun r i => pput (reg + i) l false r) r).p =
      if (reg ≤ q ∧ q < reg + n ∧ q ≠ 0) ∧ l = m then false else lget false (laneKey q m) r.p := by
  induction n with
  | zero => rw [if_neg (by omega)]; rfl
  | succ n ih =>
    rw [List.range_succ, List.foldl_append]
    simp only [List.foldl_cons, List.foldl_nil]
    by_cases h0 : reg + n = 0
    · rw [show ∀ x, pput (reg + n) l false x = x from fun x => if_pos h0, ih]
      have : ((reg ≤ q ∧ q < reg + n ∧ q ≠ 0) ∧ l = m) ↔ ((reg ≤ q ∧ q < reg + (n + 1) ∧ q ≠ 0) ∧ l = m) := by omega
      simp only [this]
    · rw [show ∀ x, (pput (reg + n) l false x).p = lset false (laneKey (reg + n) l) false x.p from fun x => by unfold pput; rw [if_neg h0]]
      simp only [lget_lset, laneKey_inj hl hm, ih]
      by_cases h1 : l = m
      · by_cases h2 : reg + n = q
        · rw [if_pos ⟨h2, h1⟩, if_pos ⟨by omega, h1⟩]
        · rw [if_neg (by tauto)]
          by_cases h3 : reg ≤ q ∧ q < reg + n ∧ q ≠ 0
          · rw [if_pos ⟨h3, h1⟩, if_pos ⟨by omega, h1⟩]
          · rw [if_neg (by tauto), if_neg (by omega)]
      · simp [h1]

theorem foldl_w_p {n reg l : Nat} (r : Regs) :
    ((List.range n).foldl (fun r i => wput (reg + i) l 0 r) r).p = r.p := by
  induction n with
  | zero => rfl
  | succ n ih => rw [List.range_succ, List.foldl_append]; exact ih

theorem foldl_p_w {n reg l : Nat} (r : Regs) :
    ((List.range n).foldl (fun r i => pput (reg + i) l false r) r).w = r.w := by
  induction n with
  | zero => rfl
  | succ n ih =>
    rw [List.range_succ, List.foldl_append]
    simpa using ih

theorem zeroArg_w {l : Nat} (hl : l < 32) (a : Arg) (r : Regs) {q m : Nat} (hm : m < 32) :
    lget 0 (laneKey q m) (zeroArg l a r).w = if coversW q a ∧ l = m then 0 else lget 0 (laneKey q m) r.w := by
  unfold zeroArg coversW
  split
  · rw [foldl_w_read hl r hm]; simp
  · rw [foldl_p_w]; simp
  · split <;> simp_all

theorem zeroArg_p {l : Nat} (hl : l < 32) (a : Arg) (r : Regs) {q m : Nat} (hm : m < 32) :
    lget false (laneKey q m) (zeroArg l a r).p = if coversP q a ∧ l = m then false else lget false (laneKey q m) r.p := by
  unfold zeroArg coversP
  split
  · rw [foldl_w_p]; simp
  · rw [foldl_p_read hl r hm]; simp [and_assoc]
  · split <;> simp_all

theorem zeroArgs_w (args : List Arg) {l : Nat} (hl : l < 32) (r : Regs) {q m : Nat} (hm : m < 32) :
    lget 0 (laneKey q m) (args.foldl (fun r a => zeroArg l a r) r).w =
      if args.any (coversW q) ∧ l = m then 0 else lget 0 (laneKey q m) r.w := by
  induction args generalizing r with
  | nil => simp
  | cons a t ih =>
    rw [List.foldl_cons, ih, zeroArg_w hl a r hm, List.any_cons]
    by_cases h1 : l = m <;> by_cases h2 : coversW q a <;> by_cases h3 : t.any (coversW q) <;> simp_all

theorem zeroArgs_p (args : List Arg) {l : Nat} (hl : l < 32) (r : Regs) {q m : Nat} (hm : m < 32) :
    lget false (laneKey q m) (args.foldl (fun r a => zeroArg l a r) r).p =
      if args.any (coversP q) ∧ l = m then false else lget false (laneKey q m) r.p := by
  induction args generalizing r with
  | nil => simp
  | cons a t ih =>
    rw [List.foldl_cons, ih, zeroArg_p hl a r hm, List.any_cons]
    by_cases h1 : l = m <;> by_cases h2 : coversP q a <;> by_cases h3 : t.any (coversP q) <;> simp_all

/-- A w register after the zero policy. -/
theorem zeroRegs_w (args : List Arg) {ls : List Nat} (hl : ∀ l ∈ ls, l < 32) (r : Regs) {q m : Nat} (hm : m < 32) :
    lget 0 (laneKey q m) (zeroRegs args ls r).w = if args.any (coversW q) ∧ m ∈ ls then 0 else lget 0 (laneKey q m) r.w := by
  induction ls generalizing r with
  | nil => simp [zeroRegs]
  | cons a t ih =>
    rw [show zeroRegs args (a :: t) r = zeroRegs args t (args.foldl (fun r x => zeroArg a x r) r) from rfl]
    rw [ih (fun l h => hl l (by simp [h])), zeroArgs_w args (hl a (by simp)) r hm]
    have e : (a = m) = (m = a) := propext eq_comm
    by_cases h1 : args.any (coversW q) <;> by_cases h2 : m ∈ t <;> by_cases h3 : m = a <;> simp [h1, h2, h3, e]

/-- A p register after the zero policy. -/
theorem zeroRegs_p (args : List Arg) {ls : List Nat} (hl : ∀ l ∈ ls, l < 32) (r : Regs) {q m : Nat} (hm : m < 32) :
    lget false (laneKey q m) (zeroRegs args ls r).p =
      if args.any (coversP q) ∧ m ∈ ls then false else lget false (laneKey q m) r.p := by
  induction ls generalizing r with
  | nil => simp [zeroRegs]
  | cons a t ih =>
    rw [show zeroRegs args (a :: t) r = zeroRegs args t (args.foldl (fun r x => zeroArg a x r) r) from rfl]
    rw [ih (fun l h => hl l (by simp [h])), zeroArgs_p args (hl a (by simp)) r hm]
    have e : (a = m) = (m = a) := propext eq_comm
    by_cases h1 : args.any (coversP q) <;> by_cases h2 : m ∈ t <;> by_cases h3 : m = a <;> simp [h1, h2, h3, e]

/-- What a change of registers by instructions that write no p register keeps. -/
theorem zeroRegs_keeps {P : Regs → Prop} (args : List Arg) (ls : List Nat) {r : Regs} (h : P r)
    (hw : ∀ r k l v, (∃ a ∈ args, ∃ b n c, a = .wr 0 b n c) → P r → P (wput k l v r))
    (hp : ∀ r k l v, (∃ a ∈ args, ∃ b n c, a = .wr 2 b n c) → P r → P (pput k l v r)) : P (zeroRegs args ls r) := by
  have key : ∀ (l : Nat) (as : List Arg) (r : Regs), (∀ a ∈ as, a ∈ args) → P r → P (as.foldl (fun r a => zeroArg l a r) r) := by
    intro l as
    induction as with
    | nil => intro r _ h; exact h
    | cons a t ih =>
      intro r hs h
      refine ih _ (fun x hx => hs x (by simp [hx])) ?_
      show P (zeroArg l a r)
      unfold zeroArg
      split
      · exact foldl_keeps (fun r i h => hw r _ _ _ ⟨_, hs _ List.mem_cons_self, _, _, _, rfl⟩ h) _ h
      · exact foldl_keeps (fun r i h => hp r _ _ _ ⟨_, hs _ List.mem_cons_self, _, _, _, rfl⟩ h) _ h
      · exact h
  exact foldl_keeps (fun r l h => key l args r (fun _ h => h) h) ls h

theorem mem_inactive {s : State} {g l : Nat} :
    l ∈ lanesOf (s.iss.lanes &&& ~~~(active s g)) ↔ l < 32 ∧ s.iss.lanes.getLsbD l = true ∧ laneActive s g l = false := by
  rw [mem_lanesOf]
  simp only [BitVec.getLsbD_and, BitVec.getLsbD_not, getLsbD_active, Bool.and_eq_true, Bool.not_eq_true', Bool.and_eq_false_iff,
    decide_eq_true_eq, decide_eq_false_iff_not]
  tauto

/-- An instruction that runs ends as its body says (R339, R36). -/
theorem issue_runs {i : Instr} {s : State} {body : State → Res} (h : Runs i s) :
    issue i s body = .next (finish i (info (curPfx s) s.iss.hasPfx i) (active s (info (curPfx s) s.iss.hasPfx i).g) s (body s)) := by
  obtain ⟨h1, h2, h3, h0, -, -⟩ := h
  unfold issueOk at h2
  simp only [Bool.and_eq_true, Bool.not_eq_true'] at h2
  obtain ⟨⟨h4, h5⟩, h6⟩ := h2
  unfold issue
  simp [h1, h3, h4, h5, h6, h0]

/-- The pending marks that an instruction's destinations get (R59, R66). -/
def newMarks (i : Instr) (f : Info) (act dst : Word) (s : State) : List Mark :=
  let ls := if (curPfx s).zero then dst ||| (s.iss.lanes &&& ~~~act) else dst
  let till := s.clock + latency (laneCount act) i
  if till = s.clock then [] else f.args.filterMap fun a => match a with
    | .wr k r n _ =>
      let ls := if k = 1 ∨ k = 3 then act else ls
      if n = 0 ∨ k > 3 ∨ (k = 2 ∧ r = 0) ∨ ls = 0 then none else some { kind := k, reg := r, n := n, lanes := ls, till := till }
    | _ => none

/-- The registers with the marks of the issuing instruction's destinations. -/
def marked (i : Instr) (f : Info) (act dst : Word) (s : State) (r : Regs) : Regs :=
  { r with marks := r.marks ++ newMarks i f act dst s }

/-- Marking destinations changes registers only, and of these only the marks. -/
theorem markDests_eq (i : Instr) (f : Info) (act dst : Word) (s : State) :
    markDests i f act dst s = modRegs (marked i f act dst s) s := by
  have key : ∀ ms : List Mark, (if s.clock + latency (laneCount act) i = s.clock ∨ ms.isEmpty = true then s
      else modRegs (fun r => { r with marks := r.marks ++ ms }) s) =
      modRegs (fun r => { r with marks := r.marks ++ if s.clock + latency (laneCount act) i = s.clock then [] else ms }) s := by
    intro ms
    by_cases h : s.clock + latency (laneCount act) i = s.clock
    · rw [if_pos (.inl h), if_pos h]
      simp only [List.append_nil]
      exact (modRegs_id s).symm
    · rw [if_neg h]
      cases ms with
      | nil =>
        rw [if_pos (.inr rfl)]
        simp only [List.append_nil]
        exact (modRegs_id s).symm
      | cons m t => exact if_neg (fun hc => hc.elim h (by simp))
  exact key _

@[simp] theorem marked_modRegs (i : Instr) (f : Info) (act dst : Word) (F : Regs → Regs) (s : State) :
    marked i f act dst (modRegs F s) = marked i f act dst s := rfl

@[simp] theorem curPfx_modRegs (f : Regs → Regs) (s : State) : curPfx (modRegs f s) = curPfx s := rfl

/-- The registers with the marks of the issuing instruction's destinations. -/
def markIf (i : Instr) (s : State) (r : Regs) : Regs :=
  let act := active s (info (curPfx s) s.iss.hasPfx i).g
  marked i (info (curPfx s) s.iss.hasPfx i) act (destLanes i act s) s r

@[simp] theorem markIf_w (i : Instr) (s : State) (r : Regs) : (markIf i s r).w = r.w := rfl
@[simp] theorem markIf_p (i : Instr) (s : State) (r : Regs) : (markIf i s r).p = r.p := rfl
@[simp] theorem markIf_q (i : Instr) (s : State) (r : Regs) : (markIf i s r).q = r.q := rfl
@[simp] theorem markIf_bad (i : Instr) (s : State) (r : Regs) : (markIf i s r).bad = r.bad := rfl
@[simp] theorem restOfW_markIf (i : Instr) (s : State) (r : Regs) : restOfW (markIf i s r) = restOfW r := rfl
@[simp] theorem restOfP_markIf (i : Instr) (s : State) (r : Regs) : restOfP (markIf i s r) = restOfP r := rfl
@[simp] theorem restOfQ_markIf (i : Instr) (s : State) (r : Regs) : restOfQ (markIf i s r) = restOfQ r := rfl

/-- The state in which an instruction leaves the device whose body changed the registers by F. -/
theorem issue_modRegs {i : Instr} {s : State} {body : State → Res} {F : Regs → Regs} (h : Runs i s)
    (hb : body s = .next (modRegs F s)) :
    issue i s body = .next (advance s.iss.lanes (modRegs (fun r => zeroIf i s (markIf i s (F r))) s)) := by
  rw [issue_runs h, hb]
  unfold finish zeroIf
  dsimp only
  rw [markDests_eq, marked_modRegs, zeroPolicy_eq, modRegs_modRegs, curPfx_modRegs]
  cases hz : (curPfx s).zero <;> simp [modRegs_modRegs, markIf]

/-- The effect of going on, on one lane. -/
def stepLane (s : State) (x : Lane) : Lane :=
  { x with
    pc := nextPc s
    clause := if s.iss.last then none else some (s.iss.hoff, s.iss.hdr)
    bubble := max 0 (if s.iss.last then stallOf s.iss.hdr else 0) + 1
    watch := if s.iss.last then s.clock * 1024 + s.slot + 1 else x.watch
    hold := .none
    refetch := x.refetch && !s.iss.last
    group := 0 }

theorem advance_eq (ls : Word) (s : State) : advance ls s = modCur (modLanes ls (stepLane s)) s := by
  unfold advance moveLanes stepLane nextPc
  cases s.iss.last <;> rfl

@[simp] theorem advance_iss (ls : Word) (s : State) : (advance ls s).iss = s.iss := by rw [advance_eq]; rfl

/-- Registers changed, and the bundle gone on: everything it does. -/
theorem advance_modRegs {s : State} {F : Regs → Regs} (hw : (lfind s.iss.wk s.warps).isSome = true) (hs : s.iss.side = .lead) :
    let t := advance s.iss.lanes (modRegs F s)
    t.iss = s.iss ∧ regsOf t = F (regsOf s) ∧ movedOn s t ∧ keepsWarp s t ∧ keepsDevice s t := by
  have hw' : hasWarp s := hw
  intro t
  have ht : t = modCur (fun w => modLanes s.iss.lanes (stepLane s) (sideRegs .lead F w)) s := by
    show advance s.iss.lanes (modRegs F s) = _
    rw [advance_eq]
    unfold modRegs
    rw [modCur_modCur, hs]
    rfl
  have hc : curWarp t = modLanes s.iss.lanes (stepLane s) (sideRegs .lead F (curWarp s)) := by rw [ht, curWarp_modCur hw']
  have hi : t.iss = s.iss := by rw [ht]; rfl
  refine ⟨hi, ?_, ?_, ?_, ?_, ?_, ?_⟩
  · unfold regsOf; rw [hi, hc, hs]; rfl
  · intro l
    rw [hc]
    simp only [modLanes, sideRegs, lfind_lmap, Option.map_map]
    congr 1
    funext x
    simp only [Function.comp_apply]
    split <;> rfl
  · unfold keepsWarp; rw [hc]; rfl
  · rw [ht]; rfl
  · intro k hk; rw [ht]; exact warpOf_modCur_other hk
  · intro a; rw [ht]; rfl

/-- Registers before and after the zero policy: w registers. -/
theorem zeroIf_w {i : Instr} {s : State} (r : Regs) {q l : Nat} (hl : l < 32) :
    lget 0 (laneKey q l) (zeroIf i s r).w =
      if (curPfx s).zero = true ∧ (info (curPfx s) s.iss.hasPfx i).args.any (coversW q) = true ∧ s.iss.lanes.getLsbD l = true ∧
        laneActive s (info (curPfx s) s.iss.hasPfx i).g l = false then 0 else lget 0 (laneKey q l) r.w := by
  unfold zeroIf
  by_cases hz : (curPfx s).zero = true
  · rw [if_pos hz, zeroRegs_w _ (fun l h => (mem_lanesOf.1 h).1) r hl]
    simp only [mem_inactive, hl, hz, true_and]
  · simp [hz]

theorem zeroIf_p {i : Instr} {s : State} (r : Regs) {q l : Nat} (hl : l < 32) :
    lget false (laneKey q l) (zeroIf i s r).p =
      if (curPfx s).zero = true ∧ (info (curPfx s) s.iss.hasPfx i).args.any (coversP q) = true ∧ s.iss.lanes.getLsbD l = true ∧
        laneActive s (info (curPfx s) s.iss.hasPfx i).g l = false then false else lget false (laneKey q l) r.p := by
  unfold zeroIf
  by_cases hz : (curPfx s).zero = true
  · rw [if_pos hz, zeroRegs_p _ (fun l h => (mem_lanesOf.1 h).1) r hl]
    simp only [mem_inactive, hl, hz, true_and]
  · simp [hz]

/-- The zero policy changes w and p registers only, and of these only the kinds that the instruction writes. -/
theorem zeroIf_keeps {P : Regs → Prop} {i : Instr} {s : State} {r : Regs} (h : P r)
    (hw : ∀ r k l v, (∃ a ∈ (info (curPfx s) s.iss.hasPfx i).args, ∃ b n c, a = .wr 0 b n c) → P r → P (wput k l v r))
    (hp : ∀ r k l v, (∃ a ∈ (info (curPfx s) s.iss.hasPfx i).args, ∃ b n c, a = .wr 2 b n c) → P r → P (pput k l v r)) :
    P (zeroIf i s r) := by
  unfold zeroIf
  split
  · exact zeroRegs_keeps _ _ h hw hp
  · exact h

/-- The zero policy only heals failing words. -/
theorem zeroIf_bad (i : Instr) (s : State) (r : Regs) : ∀ e ∈ (zeroIf i s r).bad, e ∈ r.bad :=
  zeroIf_keeps (P := fun x => ∀ e ∈ x.bad, e ∈ r.bad) (fun _ h => h)
    (fun x k l v _ h e he => h e (wput_bad k l v x e he)) (fun x k l v _ h e he => h e (pput_bad k l v x e he))

theorem restOfP_pput (k l : Nat) (v : Bool) (r : Regs) : restOfP (pput k l v r) = restOfP r := by
  unfold pput; split <;> rfl

/-- An instruction of one w destination of n registers whose body writes them in its active lanes. -/
theorem doneW_of {i : Instr} {s : State} {body : State → Res} {F : Regs → Regs} {g d n : Nat} {v : Nat → Nat → Word}
    (h : Runs i s) (he : exec i s = issue i s body) (hb : body s = .next (modRegs F s))
    (hg : (info (curPfx s) s.iss.hasPfx i).g = g)
    (hc : ∀ q, (info (curPfx s) s.iss.hasPfx i).args.any (coversW q) = (decide (d ≤ q) && decide (q < d + n)))
    (hp : ¬ ∃ a ∈ (info (curPfx s) s.iss.hasPfx i).args, ∃ b n c, a = .wr 2 b n c)
    (hF : ∀ q l, l < 32 → lget 0 (laneKey q l) (F (regsOf s)).w =
      if d ≤ q ∧ q < d + n ∧ laneActive s g l = true then v (q - d) l else lget 0 (laneKey q l) (regsOf s).w)
    (ho : restOfW (F (regsOf s)) = restOfW (regsOf s)) (hs : ∀ e ∈ (F (regsOf s)).bad, e ∈ (regsOf s).bad) : doneW i s g d n v := by
  obtain ⟨h1, h2, h3, h4, h5⟩ := advance_modRegs (s := s) (F := fun r => zeroIf i s (markIf i s (F r))) h.2.2.2.2.2.1 h.2.2.2.1
  refine ⟨_, by rw [he, issue_modRegs h hb], ⟨fun q l hl => ?_, ?_, ?_⟩, h3, h4, h5⟩
  · unfold readW
    rw [h2, zeroIf_w _ hl, markIf_w, hF q l hl, hc, hg]
    unfold laneValue
    by_cases hq : d ≤ q ∧ q < d + n
    · by_cases ha : laneActive s g l = true
      · have := active_subset ha
        simp [hq, ha, this]
      · by_cases hb : s.iss.lanes.getLsbD l = true
        · simp [hq, ha, hb]
        · simp [hq, ha, hb]
    · have e1 : ¬ (d ≤ q ∧ q < d + n ∧ laneActive s g l = true) := fun x => hq ⟨x.1, x.2.1⟩
      have e2 : ¬ (d ≤ q ∧ q < d + n ∧ s.iss.lanes.getLsbD l = true) := fun x => hq ⟨x.1, x.2.1⟩
      have e3 : (decide (d ≤ q) && decide (q < d + n)) = false := by simpa using hq
      rw [if_neg e1, if_neg e2, e3]
      simp
  · rw [h2]
    exact zeroIf_keeps (P := fun r => restOfW r = restOfW (regsOf s)) ((restOfW_markIf ..).trans ho) (fun r _ _ _ _ h => h)
      (fun r _ _ _ hx _ => absurd hx hp)
  · intro e h
    rw [h2] at h
    exact hs e (by simpa using zeroIf_bad _ _ _ e h)

/-- An instruction of one p destination whose body writes it in its active lanes. -/
theorem doneP_of {i : Instr} {s : State} {body : State → Res} {F : Regs → Regs} {g d : Nat} {v : Nat → Bool}
    (h : Runs i s) (he : exec i s = issue i s body) (hb : body s = .next (modRegs F s))
    (hg : (info (curPfx s) s.iss.hasPfx i).g = g)
    (hc : ∀ q, (info (curPfx s) s.iss.hasPfx i).args.any (coversP q) = (decide (q = d) && decide (d ≠ 0)))
    (hp : ¬ ∃ a ∈ (info (curPfx s) s.iss.hasPfx i).args, ∃ b n c, a = .wr 0 b n c)
    (hF : ∀ q l, l < 32 → lget false (laneKey q l) (F (regsOf s)).p =
      if q = d ∧ d ≠ 0 ∧ laneActive s g l = true then v l else lget false (laneKey q l) (regsOf s).p)
    (ho : restOfP (F (regsOf s)) = restOfP (regsOf s)) (hs : ∀ e ∈ (F (regsOf s)).bad, e ∈ (regsOf s).bad) : doneP i s g d v := by
  obtain ⟨h1, h2, h3, h4, h5⟩ := advance_modRegs (s := s) (F := fun r => zeroIf i s (markIf i s (F r))) h.2.2.2.2.2.1 h.2.2.2.1
  refine ⟨_, by rw [he, issue_modRegs h hb], ⟨fun q l hl => ?_, ?_, ?_⟩, h3, h4, h5⟩
  · unfold readP
    rw [h2, zeroIf_p _ hl, markIf_p, hF q l hl, hc, hg]
    unfold laneValue
    by_cases hq : q = d
    · subst hq
      by_cases h0 : q = 0
      · simp [h0]
      · by_cases ha : laneActive s g l = true
        · have := active_subset ha
          simp [h0, ha, this]
        · have e : (q == 0) = false := by simpa using h0
          by_cases hb : s.iss.lanes.getLsbD l = true <;> cases hz : (curPfx s).zero <;> simp [h0, ha, hb, e]
    · simp [hq]
  · rw [h2]
    exact zeroIf_keeps (P := fun r => restOfP r = restOfP (regsOf s)) ((restOfP_markIf ..).trans ho) (fun r _ _ _ hx _ => absurd hx hp)
      (fun r _ _ _ _ h => (restOfP_pput ..).trans h)
  · intro e h
    rw [h2] at h
    exact hs e (by simpa using zeroIf_bad _ _ _ e h)

theorem range_lanes (m : Word) : ∀ l ∈ lanesOf m, l < 32 := fun _ h => (mem_lanesOf.1 h).1

/-- A lane-wise result of one w register. -/
theorem doneW_lanes {i : Instr} {s : State} {body : State → Res} {g d : Nat} {f : Nat → Word}
    (h : Runs i s) (he : exec i s = issue i s body) (hb : body s = .next (writeLanes (active s g) d f s))
    (hg : (info (curPfx s) s.iss.hasPfx i).g = g)
    (hc : ∀ q, (info (curPfx s) s.iss.hasPfx i).args.any (coversW q) = (decide (d ≤ q) && decide (q < d + 1)))
    (hp : ¬ ∃ a ∈ (info (curPfx s) s.iss.hasPfx i).args, ∃ b n c, a = .wr 2 b n c) : doneW i s g d 1 fun _ l => f l := by
  rw [writeLanes_eq] at hb
  refine doneW_of h he hb hg hc hp (fun q l hl => ?_) (congrArg (fun r : Regs => { r with marks := [] }) (wset_other _ _ _ _)) (wset_bad _ _ _ _)
  rw [wset_read (range_lanes _) _ _ _ hl]
  have e : (q = d) ↔ (d ≤ q ∧ q < d + 1) := by omega
  simp only [mem_lanesOf_active, e, hl, true_and, and_assoc]

/-- A lane-wise result of one pair. -/
theorem doneW_pairs {i : Instr} {s : State} {body : State → Res} {g d : Nat} {f : Nat → BitVec 64}
    (h : Runs i s) (he : exec i s = issue i s body) (hb : body s = .next (writeLanesD (active s g) d f s))
    (hg : (info (curPfx s) s.iss.hasPfx i).g = g)
    (hc : ∀ q, (info (curPfx s) s.iss.hasPfx i).args.any (coversW q) = (decide (d ≤ q) && decide (q < d + 2)))
    (hp : ¬ ∃ a ∈ (info (curPfx s) s.iss.hasPfx i).args, ∃ b n c, a = .wr 2 b n c) : doneW i s g d 2 (pairHalves f) := by
  rw [writeLanesD_eq] at hb
  refine doneW_of h he hb hg hc hp (fun q l hl => ?_) (congrArg (fun r : Regs => { r with marks := [] }) (dset_other _ _ _ _)) (dset_bad _ _ _ _)
  rw [dset_read (range_lanes _) _ _ _ hl]
  simp only [mem_lanesOf_active, hl, true_and, pairHalves]

/-- A lane-wise result of one p register. -/
theorem doneP_lanes {i : Instr} {s : State} {body : State → Res} {g d : Nat} {f : Nat → Bool}
    (h : Runs i s) (he : exec i s = issue i s body) (hb : body s = .next (writeLanesP (active s g) d f s))
    (hg : (info (curPfx s) s.iss.hasPfx i).g = g)
    (hc : ∀ q, (info (curPfx s) s.iss.hasPfx i).args.any (coversP q) = (decide (q = d) && decide (d ≠ 0)))
    (hp : ¬ ∃ a ∈ (info (curPfx s) s.iss.hasPfx i).args, ∃ b n c, a = .wr 0 b n c) : doneP i s g d f := by
  rw [writeLanesP_eq] at hb
  refine doneP_of h he hb hg hc hp (fun q l hl => ?_) (congrArg (fun r : Regs => { r with marks := [] }) (pset_other _ _ _ _)) (pset_bad _ _ _ _)
  rw [pset_read (range_lanes _) _ _ _ hl]
  simp only [mem_lanesOf_active, hl, true_and]

theorem doneW_congr {i : Instr} {s : State} {g d n : Nat} {v v' : Nat → Nat → Word} (h : doneW i s g d n v)
    (e : ∀ k l, k < n → v k l = v' k l) : doneW i s g d n v' := by
  obtain ⟨t, h1, ⟨h2, h3⟩, h4⟩ := h
  refine ⟨t, h1, ⟨fun r l hl => ?_, h3⟩, h4⟩
  rw [h2 r l hl]
  by_cases hd : d ≤ r ∧ r < d + n
  · rw [e (r - d) l (by omega)]
  · rw [if_neg (by tauto), if_neg (by tauto)]

theorem doneP_congr {i : Instr} {s : State} {g d : Nat} {v v' : Nat → Bool} (h : doneP i s g d v)
    (e : ∀ l, v l = v' l) : doneP i s g d v' := by rwa [show v' = v from (funext e).symm]

/-- A warp-uniform result of one q register (R350). -/
theorem doneQ_of {i : Instr} {s : State} {body : State → Res} {g d : Nat} {v : Word}
    (h : Runs i s) (he : exec i s = issue i s body) (hb : body s = uniformly g s fun s => .next (writeQ d v s))
    (hc : ¬ ∃ a ∈ (info (curPfx s) s.iss.hasPfx i).args, ∃ b n c, a = .wr 0 b n c)
    (hp : ¬ ∃ a ∈ (info (curPfx s) s.iss.hasPfx i).args, ∃ b n c, a = .wr 2 b n c) : doneQ i s g d v := by
  have hb' : body s = .next (modRegs (fun r => if active s g = 0 then r else { r with q := lset 0 d v r.q, bad := healed 1 d 0 r.bad }) s) := by
    rw [hb]
    unfold uniformly
    split
    · simp [modRegs_id]
    · simp; rfl
  have hz : ∀ r, zeroIf i s r = r := fun r => zeroIf_keeps (P := fun x => x = r) rfl
    (fun r _ _ _ hx _ => absurd hx hc) (fun r _ _ _ hx _ => absurd hx hp)
  obtain ⟨h1, h2, h3, h4, h5⟩ := advance_modRegs (s := s)
    (F := fun r => zeroIf i s (markIf i s (if active s g = 0 then r else { r with q := lset 0 d v r.q, bad := healed 1 d 0 r.bad })))
      h.2.2.2.2.2.1 h.2.2.2.1
  rw [hz] at h2
  refine ⟨_, by rw [he, issue_modRegs h hb'], ⟨fun r => ?_, ?_, ?_⟩, h3, h4, h5⟩
  · unfold readQ
    rw [h2, markIf_q]
    by_cases ha : active s g = 0
    · simp [ha]
    · rw [if_neg ha]
      show lget 0 r (lset 0 d v (regsOf s).q) = _
      rw [lget_lset]
      by_cases e : d = r
      · rw [if_pos e, if_pos ⟨e.symm, ha⟩]
      · rw [if_neg e, if_neg fun x => e x.1.symm]
  · rw [h2, restOfQ_markIf]
    split <;> rfl
  · intro e h
    rw [h2, markIf_bad] at h
    split at h
    · exact h
    · exact mem_healed h

end Sys2Proof.Machine
end

