-- ==== Sys2Proof/Laws/Control.lean ====
section
/-! SUPPORT. What instructions do that move lanes: a change of the issuing warp alone, and where its lanes then stand. -/

set_option Elab.async false

namespace Sys2Proof.Machine

/-- An instruction whose body has moved the lanes itself ends as its body says. -/
theorem issue_moved {i : Instr} {s t : State} {body : State → Res} (h : Runs i s) (hb : body s = .moved t) :
    issue i s body = .next t := by rw [issue_runs h, hb]; rfl

/-- A change of the issuing warp leaves everything else as it was. -/
theorem keepsDevice_modCur (G : Warp → Warp) (s : State) : keepsDevice s (modCur G s) :=
  ⟨rfl, fun _ hk => warpOf_modCur_other hk, fun _ => rfl⟩

theorem standing_modCur {G : Warp → Warp} {s : State} (h : hasWarp s) (l : Nat) :
    standing (modCur G s) l = (lfind l (G (curWarp s)).lanes).map fun x => (x.pc, x.clause, x.hold, x.exited) := by
  unfold standing; rw [curWarp_modCur h]

/-- The effect of a move on one lane (R38). -/
def moveLane (s : State) (pc : Word) (wait : Nat) (x : Lane) : Lane :=
  { x with
    pc := pc
    clause := none
    bubble := max wait (if s.iss.last then stallOf s.iss.hdr else 0) + 1
    watch := if s.iss.last then s.clock * 1024 + s.slot + 1 else x.watch
    hold := .none
    refetch := x.refetch && false
    group := 0 }

theorem moveLanes_header (ls pc : Word) (wait : Nat) (s : State) :
    moveLanes ls pc false wait s = modCur (modLanes ls (moveLane s pc wait)) s := rfl

/-- Lanes moved one by one. -/
def moveEach (s : State) (target : Nat → Word) (ls : List Nat) (w : Warp) : Warp :=
  ls.foldl (fun w l => modLanes (laneSet [l]) (moveLane s (target l) 1) w) w

theorem foldl_moveLanes (s u : State) (target : Nat → Word) (ls : List Nat) (h1 : u.iss = s.iss) (h2 : u.clock = s.clock)
    (h3 : u.slot = s.slot) :
    ls.foldl (fun t l => moveLanes (laneSet [l]) (target l) false 1 t) u = modCur (moveEach s target ls) u := by
  induction ls generalizing u with
  | nil => exact (modCur_id u).symm
  | cons a t ih =>
    rw [List.foldl_cons, moveLanes_header, ih (modCur _ u) h1 h2 h3, modCur_modCur]
    unfold moveEach
    have : moveLane u (target a) 1 = moveLane s (target a) 1 := by unfold moveLane; rw [h1, h2, h3]
    rw [this]
    rfl

/-- The warp after a branch (R38, R394). -/
def branchWarp (s : State) (act : Word) (target : Nat → Word) (w : Warp) : Warp :=
  moveEach s target (lanesOf act) (modLanes (s.iss.lanes &&& ~~~act) (moveLane s s.iss.hnext 1) w)

theorem branchLanes_eq (act : Word) (target : Nat → Word) (s : State) :
    branchLanes act target s = modCur (branchWarp s act target) s := by
  unfold branchLanes eachLane
  rw [moveLanes_header, foldl_moveLanes s (modCur _ s) target _ rfl rfl rfl, modCur_modCur]
  rfl

/-- A warp without its lanes. -/
def noLanes (w : Warp) : Warp := { w with lanes := [] }

theorem moveEach_rest (s : State) (target : Nat → Word) (ls : List Nat) (w : Warp) :
    noLanes (moveEach s target ls w) = noLanes w := by
  unfold moveEach
  induction ls generalizing w with
  | nil => rfl
  | cons a t ih => rw [List.foldl_cons, ih]; rfl

theorem branchWarp_rest (s : State) (act : Word) (target : Nat → Word) (w : Warp) :
    noLanes (branchWarp s act target w) = noLanes w := moveEach_rest _ _ _ _

theorem branchWarp_r (s : State) (act : Word) (target : Nat → Word) (w : Warp) : (branchWarp s act target w).r = w.r :=
  by
  show (noLanes (branchWarp s act target w)).r = (noLanes w).r
  rw [branchWarp_rest]

theorem moveEach_lane (s : State) (target : Nat → Word) (ls : List Nat) (h : ∀ l ∈ ls, l < 32) (w : Warp) (l : Nat) :
    (lfind l (moveEach s target ls w).lanes).map (fun x => (x.pc, x.clause, x.hold, x.exited)) =
      (lfind l w.lanes).map fun x =>
        if l ∈ ls then (target l, none, Hold.none, x.exited) else (x.pc, x.clause, x.hold, x.exited) := by
  unfold moveEach
  induction ls generalizing w with
  | nil => simp
  | cons a t ih =>
    have ha : a < 32 := h a List.mem_cons_self
    rw [List.foldl_cons, ih (fun l hl => h l (List.mem_cons_of_mem _ hl))]
    simp only [modLanes, lfind_lmap, Option.map_map]
    congr 1
    funext x
    simp only [Function.comp_apply, getLsbD_laneSet, List.mem_cons, List.not_mem_nil, or_false]
    by_cases h1 : l ∈ t
    · simp only [h1, if_true, or_true]
      split <;> rfl
    · by_cases h2 : l = a
      · subst h2; simp [h1, ha, moveLane]
      · simp [h1, h2]

theorem branchWarp_lane (s : State) (act : Word) (target : Nat → Word) (w : Warp) (l : Nat) :
    (lfind l (branchWarp s act target w).lanes).map (fun x => (x.pc, x.clause, x.hold, x.exited)) =
      (lfind l w.lanes).map fun x => if act.getLsbD l then atHeader (target l) x.exited
        else if s.iss.lanes.getLsbD l then atHeader s.iss.hnext x.exited else (x.pc, x.clause, x.hold, x.exited) := by
  unfold branchWarp
  rw [moveEach_lane s target _ (fun l h => (mem_lanesOf.1 h).1)]
  simp only [modLanes, lfind_lmap, Option.map_map]
  congr 1
  funext x
  simp only [Function.comp_apply, mem_lanesOf, BitVec.getLsbD_and, BitVec.getLsbD_not]
  by_cases h32 : l < 32
  · cases ha : act.getLsbD l
    · cases hb : s.iss.lanes.getLsbD l <;> simp [h32, atHeader, moveLane]
    · simp [h32, atHeader]
  · have h1 : act.getLsbD l = false := BitVec.getLsbD_of_ge _ _ (by omega)
    have h2 : s.iss.lanes.getLsbD l = false := BitVec.getLsbD_of_ge _ _ (by omega)
    simp [h1, h2]

/-- Where the lanes stand after a branch. -/
theorem places_branch {s : State} (hw : hasWarp s) (act : Word) (target : Nat → Word) (G : Warp → Warp)
    (hG : ∀ w, (G w).lanes = w.lanes) (hsub : ∀ l, act.getLsbD l = true → s.iss.lanes.getLsbD l = true) :
    places s (modCur (fun w => branchWarp s act target (G w)) s) fun l x =>
      if act.getLsbD l then atHeader (target l) x else atHeader s.iss.hnext x := by
  intro l
  rw [standing_modCur hw, branchWarp_lane s act target, hG]
  unfold standing
  rw [Option.map_map]
  cases hb : s.iss.lanes.getLsbD l
  · have : act.getLsbD l = false := by
      cases ha : act.getLsbD l
      · rfl
      · rw [hsub l ha] at hb; cases hb
    simp [this]
  · simp [Function.comp_def]

/-- Where the lanes stand after the bundle has gone on. -/
theorem places_step {s : State} (hw : hasWarp s) (G : Warp → Warp) (hG : ∀ w, (G w).lanes = w.lanes) :
    places s (modCur (fun w => modLanes s.iss.lanes (stepLane s) (G w)) s) fun _ x => onward s x := by
  intro l
  rw [standing_modCur hw]
  simp only [modLanes, lfind_lmap, hG, standing, Option.map_map]
  cases hb : s.iss.lanes.getLsbD l <;> simp [Function.comp_def, stepLane, onward]

end Sys2Proof.Machine
end

