-- ==== Sys2Proof/Laws/PerInstr.lean ====
section
/-! SUPPORT. Statements made per instruction, one lemma for each constructor: the opcode byte of an instruction's word is
assigned, and is no prefix's (R348, R351 to R359). -/

set_option Elab.async false

namespace Sys2Proof.Laws

/-- The opcode byte is the word's highest byte. -/
theorem opByte_eq (w : Word) : opByte w = w.toNat / 2 ^ 24 := by
  have := w.isLt
  simp only [opByte, BitVec.extractLsb'_toNat, Nat.shiftRight_eq_div_pow]; omega

/-- Dropping the lower field of a word and more drops it whole. -/
theorem toNat_append_div {n m : Nat} (x : BitVec n) (y : BitVec m) (k : Nat) (h : m ≤ k) :
    (x ++ y).toNat / 2 ^ k = x.toNat / 2 ^ (k - m) := by
  rw [BitVec.toNat_append, ← Nat.shiftLeft_add_eq_or_of_lt y.isLt, Nat.shiftLeft_eq,
    show 2 ^ k = 2 ^ m * 2 ^ (k - m) by rw [← pow_add]; congr 1; omega,
    ← Nat.div_div_eq_div_mul, Nat.mul_comm, Nat.mul_add_div (Nat.two_pow_pos m), Nat.div_eq_of_lt y.isLt, Nat.add_zero]

/-- The opcode byte of an instruction's word is assigned, and is no prefix's. -/
def Opcode.Statement (i : Instr) : Prop :=
  ∀ w, encode i = some w → (opClass (opByte w)).isSome = true ∧ opPrefix (opByte w) = false

/-- A word whose highest byte is an assigned opcode. -/
theorem Opcode.of_byte {i : Instr} {w : Word} {n : Nat} (e : encode i = some w) (h : w.toNat / 2 ^ 24 = n)
    (c : (opClass n).isSome = true ∧ opPrefix n = false) : Opcode.Statement i := by
  intro v hv
  obtain rfl : w = v := Option.some.inj (e.symm.trans hv)
  rw [opByte_eq, h]
  exact c

theorem Opcode.iadd (x0 x1 x2 x3) : Opcode.Statement (.iadd x0 x1 x2 x3) :=
  Opcode.of_byte rfl (by simp (disch := decide) only [toNat_append_div]; rfl) (by decide)
theorem Opcode.iaddD (x0 x1 x2 x3) : Opcode.Statement (.iaddD x0 x1 x2 x3) :=
  Opcode.of_byte rfl (by simp (disch := decide) only [toNat_append_div]; rfl) (by decide)
theorem Opcode.isub (x0 x1 x2 x3) : Opcode.Statement (.isub x0 x1 x2 x3) :=
  Opcode.of_byte rfl (by simp (disch := decide) only [toNat_append_div]; rfl) (by decide)
theorem Opcode.isubD (x0 x1 x2 x3) : Opcode.Statement (.isubD x0 x1 x2 x3) :=
  Opcode.of_byte rfl (by simp (disch := decide) only [toNat_append_div]; rfl) (by decide)
theorem Opcode.imul (x0 x1 x2 x3) : Opcode.Statement (.imul x0 x1 x2 x3) :=
  Opcode.of_byte rfl (by simp (disch := decide) only [toNat_append_div]; rfl) (by decide)
theorem Opcode.imulD (x0 x1 x2 x3) : Opcode.Statement (.imulD x0 x1 x2 x3) :=
  Opcode.of_byte rfl (by simp (disch := decide) only [toNat_append_div]; rfl) (by decide)
theorem Opcode.imulh (x0 x1 x2 x3) : Opcode.Statement (.imulh x0 x1 x2 x3) :=
  Opcode.of_byte rfl (by simp (disch := decide) only [toNat_append_div]; rfl) (by decide)
theorem Opcode.imulhU (x0 x1 x2 x3) : Opcode.Statement (.imulhU x0 x1 x2 x3) :=
  Opcode.of_byte rfl (by simp (disch := decide) only [toNat_append_div]; rfl) (by decide)
theorem Opcode.imad (x0 x1 x2 x3) : Opcode.Statement (.imad x0 x1 x2 x3) :=
  Opcode.of_byte rfl (by simp (disch := decide) only [toNat_append_div]; rfl) (by decide)
theorem Opcode.imin (x0 x1 x2 x3) : Opcode.Statement (.imin x0 x1 x2 x3) :=
  Opcode.of_byte rfl (by simp (disch := decide) only [toNat_append_div]; rfl) (by decide)
theorem Opcode.iminU (x0 x1 x2 x3) : Opcode.Statement (.iminU x0 x1 x2 x3) :=
  Opcode.of_byte rfl (by simp (disch := decide) only [toNat_append_div]; rfl) (by decide)
theorem Opcode.imax (x0 x1 x2 x3) : Opcode.Statement (.imax x0 x1 x2 x3) :=
  Opcode.of_byte rfl (by simp (disch := decide) only [toNat_append_div]; rfl) (by decide)
theorem Opcode.imaxU (x0 x1 x2 x3) : Opcode.Statement (.imaxU x0 x1 x2 x3) :=
  Opcode.of_byte rfl (by simp (disch := decide) only [toNat_append_div]; rfl) (by decide)
theorem Opcode.iabs (x0 x1 x2) : Opcode.Statement (.iabs x0 x1 x2) :=
  Opcode.of_byte rfl (by simp (disch := decide) only [toNat_append_div]; rfl) (by decide)
theorem Opcode.ishl (x0 x1 x2 x3) : Opcode.Statement (.ishl x0 x1 x2 x3) :=
  Opcode.of_byte rfl (by simp (disch := decide) only [toNat_append_div]; rfl) (by decide)
theorem Opcode.ishlD (x0 x1 x2 x3) : Opcode.Statement (.ishlD x0 x1 x2 x3) :=
  Opcode.of_byte rfl (by simp (disch := decide) only [toNat_append_div]; rfl) (by decide)
theorem Opcode.ishr (x0 x1 x2 x3) : Opcode.Statement (.ishr x0 x1 x2 x3) :=
  Opcode.of_byte rfl (by simp (disch := decide) only [toNat_append_div]; rfl) (by decide)
theorem Opcode.ishrS (x0 x1 x2 x3) : Opcode.Statement (.ishrS x0 x1 x2 x3) :=
  Opcode.of_byte rfl (by simp (disch := decide) only [toNat_append_div]; rfl) (by decide)
theorem Opcode.ishrD (x0 x1 x2 x3) : Opcode.Statement (.ishrD x0 x1 x2 x3) :=
  Opcode.of_byte rfl (by simp (disch := decide) only [toNat_append_div]; rfl) (by decide)
theorem Opcode.ishrDs (x0 x1 x2 x3) : Opcode.Statement (.ishrDs x0 x1 x2 x3) :=
  Opcode.of_byte rfl (by simp (disch := decide) only [toNat_append_div]; rfl) (by decide)
theorem Opcode.iext (x0 x1 x2 x3 x4) : Opcode.Statement (.iext x0 x1 x2 x3 x4) :=
  Opcode.of_byte rfl (by simp (disch := decide) only [toNat_append_div]; rfl) (by decide)
theorem Opcode.icmp (x0 x1 x2 x3 x4) : Opcode.Statement (.icmp x0 x1 x2 x3 x4) :=
  Opcode.of_byte rfl (by simp (disch := decide) only [toNat_append_div]; rfl) (by decide)
theorem Opcode.icmpD (x0 x1 x2 x3 x4) : Opcode.Statement (.icmpD x0 x1 x2 x3 x4) :=
  Opcode.of_byte rfl (by simp (disch := decide) only [toNat_append_div]; rfl) (by decide)
theorem Opcode.isel (x0 x1 x2 x3) : Opcode.Statement (.isel x0 x1 x2 x3) :=
  Opcode.of_byte rfl (by simp (disch := decide) only [toNat_append_div]; rfl) (by decide)
theorem Opcode.and (x0 x1 x2 x3) : Opcode.Statement (.and x0 x1 x2 x3) :=
  Opcode.of_byte rfl (by simp (disch := decide) only [toNat_append_div]; rfl) (by decide)
theorem Opcode.or (x0 x1 x2 x3) : Opcode.Statement (.or x0 x1 x2 x3) :=
  Opcode.of_byte rfl (by simp (disch := decide) only [toNat_append_div]; rfl) (by decide)
theorem Opcode.xor (x0 x1 x2 x3) : Opcode.Statement (.xor x0 x1 x2 x3) :=
  Opcode.of_byte rfl (by simp (disch := decide) only [toNat_append_div]; rfl) (by decide)
theorem Opcode.andn (x0 x1 x2 x3) : Opcode.Statement (.andn x0 x1 x2 x3) :=
  Opcode.of_byte rfl (by simp (disch := decide) only [toNat_append_div]; rfl) (by decide)
theorem Opcode.popc (x0 x1 x2) : Opcode.Statement (.popc x0 x1 x2) :=
  Opcode.of_byte rfl (by simp (disch := decide) only [toNat_append_div]; rfl) (by decide)
theorem Opcode.clz (x0 x1 x2) : Opcode.Statement (.clz x0 x1 x2) :=
  Opcode.of_byte rfl (by simp (disch := decide) only [toNat_append_div]; rfl) (by decide)
theorem Opcode.brev (x0 x1 x2) : Opcode.Statement (.brev x0 x1 x2) :=
  Opcode.of_byte rfl (by simp (disch := decide) only [toNat_append_div]; rfl) (by decide)
theorem Opcode.bfe (x0 x1 x2 x3) : Opcode.Statement (.bfe x0 x1 x2 x3) :=
  Opcode.of_byte rfl (by simp (disch := decide) only [toNat_append_div]; rfl) (by decide)
theorem Opcode.bfeS (x0 x1 x2 x3) : Opcode.Statement (.bfeS x0 x1 x2 x3) :=
  Opcode.of_byte rfl (by simp (disch := decide) only [toNat_append_div]; rfl) (by decide)
theorem Opcode.bfi (x0 x1 x2 x3) : Opcode.Statement (.bfi x0 x1 x2 x3) :=
  Opcode.of_byte rfl (by simp (disch := decide) only [toNat_append_div]; rfl) (by decide)
theorem Opcode.bdep (x0 x1 x2 x3) : Opcode.Statement (.bdep x0 x1 x2 x3) :=
  Opcode.of_byte rfl (by simp (disch := decide) only [toNat_append_div]; rfl) (by decide)
theorem Opcode.bext (x0 x1 x2 x3) : Opcode.Statement (.bext x0 x1 x2 x3) :=
  Opcode.of_byte rfl (by simp (disch := decide) only [toNat_append_div]; rfl) (by decide)
theorem Opcode.bperm (x0 x1 x2 x3) : Opcode.Statement (.bperm x0 x1 x2 x3) :=
  Opcode.of_byte rfl (by simp (disch := decide) only [toNat_append_div]; rfl) (by decide)
theorem Opcode.bpset (x0 x1) : Opcode.Statement (.bpset x0 x1) :=
  Opcode.of_byte rfl (by simp (disch := decide) only [toNat_append_div]; rfl) (by decide)
theorem Opcode.bmm8 (x0 x1 x2 x3) : Opcode.Statement (.bmm8 x0 x1 x2 x3) :=
  Opcode.of_byte rfl (by simp (disch := decide) only [toNat_append_div]; rfl) (by decide)
theorem Opcode.bytep (x0 x1 x2 x3) : Opcode.Statement (.bytep x0 x1 x2 x3) :=
  Opcode.of_byte rfl (by simp (disch := decide) only [toNat_append_div]; rfl) (by decide)
theorem Opcode.mov (x0 x1 x2) : Opcode.Statement (.mov x0 x1 x2) :=
  Opcode.of_byte rfl (by simp (disch := decide) only [toNat_append_div]; rfl) (by decide)
theorem Opcode.movD (x0 x1 x2) : Opcode.Statement (.movD x0 x1 x2) :=
  Opcode.of_byte rfl (by simp (disch := decide) only [toNat_append_div]; rfl) (by decide)
theorem Opcode.movi (x0 x1) : Opcode.Statement (.movi x0 x1) :=
  Opcode.of_byte rfl (by simp (disch := decide) only [toNat_append_div]; rfl) (by decide)
theorem Opcode.movhi (x0 x1) : Opcode.Statement (.movhi x0 x1) :=
  Opcode.of_byte rfl (by simp (disch := decide) only [toNat_append_div]; rfl) (by decide)
theorem Opcode.plop (x0 x1 x2 x3 x4) : Opcode.Statement (.plop x0 x1 x2 x3 x4) :=
  Opcode.of_byte rfl (by simp (disch := decide) only [toNat_append_div]; rfl) (by decide)
theorem Opcode.ptow (x0 x1) : Opcode.Statement (.ptow x0 x1) :=
  Opcode.of_byte rfl (by simp (disch := decide) only [toNat_append_div]; rfl) (by decide)
theorem Opcode.wtop (x0 x1) : Opcode.Statement (.wtop x0 x1) :=
  Opcode.of_byte rfl (by simp (disch := decide) only [toNat_append_div]; rfl) (by decide)
theorem Opcode.qadd (x0 x1 x2 x3) : Opcode.Statement (.qadd x0 x1 x2 x3) :=
  Opcode.of_byte rfl (by simp (disch := decide) only [toNat_append_div]; rfl) (by decide)
theorem Opcode.qsub (x0 x1 x2 x3) : Opcode.Statement (.qsub x0 x1 x2 x3) :=
  Opcode.of_byte rfl (by simp (disch := decide) only [toNat_append_div]; rfl) (by decide)
theorem Opcode.qmul (x0 x1 x2 x3) : Opcode.Statement (.qmul x0 x1 x2 x3) :=
  Opcode.of_byte rfl (by simp (disch := decide) only [toNat_append_div]; rfl) (by decide)
theorem Opcode.qlop (x0 x1 x2 x3) : Opcode.Statement (.qlop x0 x1 x2 x3) :=
  Opcode.of_byte rfl (by simp (disch := decide) only [toNat_append_div]; rfl) (by decide)
theorem Opcode.qshf (x0 x1 x2 x3) : Opcode.Statement (.qshf x0 x1 x2 x3) :=
  Opcode.of_byte rfl (by simp (disch := decide) only [toNat_append_div]; rfl) (by decide)
theorem Opcode.qcmp (x0 x1 x2 x3) : Opcode.Statement (.qcmp x0 x1 x2 x3) :=
  Opcode.of_byte rfl (by simp (disch := decide) only [toNat_append_div]; rfl) (by decide)
theorem Opcode.qmovi (x0 x1) : Opcode.Statement (.qmovi x0 x1) :=
  Opcode.of_byte rfl (by simp (disch := decide) only [toNat_append_div]; rfl) (by decide)
theorem Opcode.qmovhi (x0 x1) : Opcode.Statement (.qmovhi x0 x1) :=
  Opcode.of_byte rfl (by simp (disch := decide) only [toNat_append_div]; rfl) (by decide)
theorem Opcode.vtoq (x0 x1 x2) : Opcode.Statement (.vtoq x0 x1 x2) :=
  Opcode.of_byte rfl (by simp (disch := decide) only [toNat_append_div]; rfl) (by decide)
theorem Opcode.qtov (x0 x1 x2) : Opcode.Statement (.qtov x0 x1 x2) :=
  Opcode.of_byte rfl (by simp (disch := decide) only [toNat_append_div]; rfl) (by decide)
theorem Opcode.ladd (x0 x1 x2 x3) : Opcode.Statement (.ladd x0 x1 x2 x3) :=
  Opcode.of_byte rfl (by simp (disch := decide) only [toNat_append_div]; rfl) (by decide)
theorem Opcode.laddL16 (x0 x1 x2 x3) : Opcode.Statement (.laddL16 x0 x1 x2 x3) :=
  Opcode.of_byte rfl (by simp (disch := decide) only [toNat_append_div]; rfl) (by decide)
theorem Opcode.laddL8 (x0 x1 x2 x3) : Opcode.Statement (.laddL8 x0 x1 x2 x3) :=
  Opcode.of_byte rfl (by simp (disch := decide) only [toNat_append_div]; rfl) (by decide)
theorem Opcode.lsub (x0 x1 x2 x3) : Opcode.Statement (.lsub x0 x1 x2 x3) :=
  Opcode.of_byte rfl (by simp (disch := decide) only [toNat_append_div]; rfl) (by decide)
theorem Opcode.lsubL16 (x0 x1 x2 x3) : Opcode.Statement (.lsubL16 x0 x1 x2 x3) :=
  Opcode.of_byte rfl (by simp (disch := decide) only [toNat_append_div]; rfl) (by decide)
theorem Opcode.lsubL8 (x0 x1 x2 x3) : Opcode.Statement (.lsubL8 x0 x1 x2 x3) :=
  Opcode.of_byte rfl (by simp (disch := decide) only [toNat_append_div]; rfl) (by decide)
theorem Opcode.lmul (x0 x1 x2 x3) : Opcode.Statement (.lmul x0 x1 x2 x3) :=
  Opcode.of_byte rfl (by simp (disch := decide) only [toNat_append_div]; rfl) (by decide)
theorem Opcode.lmulL16 (x0 x1 x2 x3) : Opcode.Statement (.lmulL16 x0 x1 x2 x3) :=
  Opcode.of_byte rfl (by simp (disch := decide) only [toNat_append_div]; rfl) (by decide)
theorem Opcode.lmulL8 (x0 x1 x2 x3) : Opcode.Statement (.lmulL8 x0 x1 x2 x3) :=
  Opcode.of_byte rfl (by simp (disch := decide) only [toNat_append_div]; rfl) (by decide)
theorem Opcode.ldiv (x0 x1 x2 x3) : Opcode.Statement (.ldiv x0 x1 x2 x3) :=
  Opcode.of_byte rfl (by simp (disch := decide) only [toNat_append_div]; rfl) (by decide)
theorem Opcode.ldivL16 (x0 x1 x2 x3) : Opcode.Statement (.ldivL16 x0 x1 x2 x3) :=
  Opcode.of_byte rfl (by simp (disch := decide) only [toNat_append_div]; rfl) (by decide)
theorem Opcode.ldivL8 (x0 x1 x2 x3) : Opcode.Statement (.ldivL8 x0 x1 x2 x3) :=
  Opcode.of_byte rfl (by simp (disch := decide) only [toNat_append_div]; rfl) (by decide)
theorem Opcode.lmad (x0 x1 x2 x3) : Opcode.Statement (.lmad x0 x1 x2 x3) :=
  Opcode.of_byte rfl (by simp (disch := decide) only [toNat_append_div]; rfl) (by decide)
theorem Opcode.lmadL16 (x0 x1 x2 x3) : Opcode.Statement (.lmadL16 x0 x1 x2 x3) :=
  Opcode.of_byte rfl (by simp (disch := decide) only [toNat_append_div]; rfl) (by decide)
theorem Opcode.lmadL8 (x0 x1 x2 x3) : Opcode.Statement (.lmadL8 x0 x1 x2 x3) :=
  Opcode.of_byte rfl (by simp (disch := decide) only [toNat_append_div]; rfl) (by decide)
theorem Opcode.lmin (x0 x1 x2 x3) : Opcode.Statement (.lmin x0 x1 x2 x3) :=
  Opcode.of_byte rfl (by simp (disch := decide) only [toNat_append_div]; rfl) (by decide)
theorem Opcode.lminL16 (x0 x1 x2 x3) : Opcode.Statement (.lminL16 x0 x1 x2 x3) :=
  Opcode.of_byte rfl (by simp (disch := decide) only [toNat_append_div]; rfl) (by decide)
theorem Opcode.lminL8 (x0 x1 x2 x3) : Opcode.Statement (.lminL8 x0 x1 x2 x3) :=
  Opcode.of_byte rfl (by simp (disch := decide) only [toNat_append_div]; rfl) (by decide)
theorem Opcode.lmax (x0 x1 x2 x3) : Opcode.Statement (.lmax x0 x1 x2 x3) :=
  Opcode.of_byte rfl (by simp (disch := decide) only [toNat_append_div]; rfl) (by decide)
theorem Opcode.lmaxL16 (x0 x1 x2 x3) : Opcode.Statement (.lmaxL16 x0 x1 x2 x3) :=
  Opcode.of_byte rfl (by simp (disch := decide) only [toNat_append_div]; rfl) (by decide)
theorem Opcode.lmaxL8 (x0 x1 x2 x3) : Opcode.Statement (.lmaxL8 x0 x1 x2 x3) :=
  Opcode.of_byte rfl (by simp (disch := decide) only [toNat_append_div]; rfl) (by decide)
theorem Opcode.lcmp (x0 x1 x2 x3 x4) : Opcode.Statement (.lcmp x0 x1 x2 x3 x4) :=
  Opcode.of_byte rfl (by simp (disch := decide) only [toNat_append_div]; rfl) (by decide)
theorem Opcode.lcmpL16 (x0 x1 x2 x3 x4) : Opcode.Statement (.lcmpL16 x0 x1 x2 x3 x4) :=
  Opcode.of_byte rfl (by simp (disch := decide) only [toNat_append_div]; rfl) (by decide)
theorem Opcode.lcmpL8 (x0 x1 x2 x3 x4) : Opcode.Statement (.lcmpL8 x0 x1 x2 x3 x4) :=
  Opcode.of_byte rfl (by simp (disch := decide) only [toNat_append_div]; rfl) (by decide)
theorem Opcode.lscale (x0 x1 x2 x3) : Opcode.Statement (.lscale x0 x1 x2 x3) :=
  Opcode.of_byte rfl (by simp (disch := decide) only [toNat_append_div]; rfl) (by decide)
theorem Opcode.ldot4 (x0 x1 x2 x3) : Opcode.Statement (.ldot4 x0 x1 x2 x3) :=
  Opcode.of_byte rfl (by simp (disch := decide) only [toNat_append_div]; rfl) (by decide)
theorem Opcode.lsqrt (x0 x1 x2 x3) : Opcode.Statement (.lsqrt x0 x1 x2 x3) :=
  Opcode.of_byte rfl (by simp (disch := decide) only [toNat_append_div]; rfl) (by decide)
theorem Opcode.lrcp (x0 x1 x2 x3) : Opcode.Statement (.lrcp x0 x1 x2 x3) :=
  Opcode.of_byte rfl (by simp (disch := decide) only [toNat_append_div]; rfl) (by decide)
theorem Opcode.lsgn (x0 x1 x2 x3 x4) : Opcode.Statement (.lsgn x0 x1 x2 x3 x4) :=
  Opcode.of_byte rfl (by simp (disch := decide) only [toNat_append_div]; rfl) (by decide)
theorem Opcode.lclass (x0 x1 x2 x3) : Opcode.Statement (.lclass x0 x1 x2 x3) :=
  Opcode.of_byte rfl (by simp (disch := decide) only [toNat_append_div]; rfl) (by decide)
theorem Opcode.lexp2 (x0 x1 x2 x3) : Opcode.Statement (.lexp2 x0 x1 x2 x3) :=
  Opcode.of_byte rfl (by simp (disch := decide) only [toNat_append_div]; rfl) (by decide)
theorem Opcode.llog2 (x0 x1 x2 x3) : Opcode.Statement (.llog2 x0 x1 x2 x3) :=
  Opcode.of_byte rfl (by simp (disch := decide) only [toNat_append_div]; rfl) (by decide)
theorem Opcode.lsin (x0 x1 x2 x3) : Opcode.Statement (.lsin x0 x1 x2 x3) :=
  Opcode.of_byte rfl (by simp (disch := decide) only [toNat_append_div]; rfl) (by decide)
theorem Opcode.lcos (x0 x1 x2 x3) : Opcode.Statement (.lcos x0 x1 x2 x3) :=
  Opcode.of_byte rfl (by simp (disch := decide) only [toNat_append_div]; rfl) (by decide)
theorem Opcode.ltanh (x0 x1 x2 x3) : Opcode.Statement (.ltanh x0 x1 x2 x3) :=
  Opcode.of_byte rfl (by simp (disch := decide) only [toNat_append_div]; rfl) (by decide)
theorem Opcode.lnarrow (x0 x1 x2 x3 x4 x5) : Opcode.Statement (.lnarrow x0 x1 x2 x3 x4 x5) :=
  Opcode.of_byte rfl (by simp (disch := decide) only [toNat_append_div]; rfl) (by decide)
theorem Opcode.lwiden (x0 x1 x2 x3 x4 x5) : Opcode.Statement (.lwiden x0 x1 x2 x3 x4 x5) :=
  Opcode.of_byte rfl (by simp (disch := decide) only [toNat_append_div]; rfl) (by decide)
theorem Opcode.lcvi (x0 x1 x2 x3 x4) : Opcode.Statement (.lcvi x0 x1 x2 x3 x4) :=
  Opcode.of_byte rfl (by simp (disch := decide) only [toNat_append_div]; rfl) (by decide)
theorem Opcode.lcvx (x0 x1 x2 x3 x4) : Opcode.Statement (.lcvx x0 x1 x2 x3 x4) :=
  Opcode.of_byte rfl (by simp (disch := decide) only [toNat_append_div]; rfl) (by decide)
theorem Opcode.lcvf (x0 x1 x2 x3 x4) : Opcode.Statement (.lcvf x0 x1 x2 x3 x4) :=
  Opcode.of_byte rfl (by simp (disch := decide) only [toNat_append_div]; rfl) (by decide)
theorem Opcode.lcve (x0 x1 x2 x3 x4) : Opcode.Statement (.lcve x0 x1 x2 x3 x4) :=
  Opcode.of_byte rfl (by simp (disch := decide) only [toNat_append_div]; rfl) (by decide)
theorem Opcode.rand (x0 x1 x2 x3 x4) : Opcode.Statement (.rand x0 x1 x2 x3 x4) :=
  Opcode.of_byte rfl (by simp (disch := decide) only [toNat_append_div]; rfl) (by decide)
theorem Opcode.shflLane (x0 x1 x2 x3) : Opcode.Statement (.shflLane x0 x1 x2 x3) :=
  Opcode.of_byte rfl (by simp (disch := decide) only [toNat_append_div]; rfl) (by decide)
theorem Opcode.shflFlip (x0 x1 x2 x3) : Opcode.Statement (.shflFlip x0 x1 x2 x3) :=
  Opcode.of_byte rfl (by simp (disch := decide) only [toNat_append_div]; rfl) (by decide)
theorem Opcode.shflLower (x0 x1 x2 x3) : Opcode.Statement (.shflLower x0 x1 x2 x3) :=
  Opcode.of_byte rfl (by simp (disch := decide) only [toNat_append_div]; rfl) (by decide)
theorem Opcode.shflHigher (x0 x1 x2 x3) : Opcode.Statement (.shflHigher x0 x1 x2 x3) :=
  Opcode.of_byte rfl (by simp (disch := decide) only [toNat_append_div]; rfl) (by decide)
theorem Opcode.shwr (x0 x1 x2 x3) : Opcode.Statement (.shwr x0 x1 x2 x3) :=
  Opcode.of_byte rfl (by simp (disch := decide) only [toNat_append_div]; rfl) (by decide)
theorem Opcode.quadx (x0 x1 x2) : Opcode.Statement (.quadx x0 x1 x2) :=
  Opcode.of_byte rfl (by simp (disch := decide) only [toNat_append_div]; rfl) (by decide)
theorem Opcode.vote (x0 x1 x2 x3 x4 x5) : Opcode.Statement (.vote x0 x1 x2 x3 x4 x5) :=
  Opcode.of_byte rfl (by simp (disch := decide) only [toNat_append_div]; rfl) (by decide)
theorem Opcode.mjoin (x0) : Opcode.Statement (.mjoin x0) :=
  Opcode.of_byte rfl (by simp (disch := decide) only [toNat_append_div]; rfl) (by decide)
theorem Opcode.mleave (x0) : Opcode.Statement (.mleave x0) :=
  Opcode.of_byte rfl (by simp (disch := decide) only [toNat_append_div]; rfl) (by decide)
theorem Opcode.mwait (x0) : Opcode.Statement (.mwait x0) :=
  Opcode.of_byte rfl (by simp (disch := decide) only [toNat_append_div]; rfl) (by decide)
theorem Opcode.mread (x0 x1) : Opcode.Statement (.mread x0 x1) :=
  Opcode.of_byte rfl (by simp (disch := decide) only [toNat_append_div]; rfl) (by decide)
theorem Opcode.mset (x0 x1) : Opcode.Statement (.mset x0 x1) :=
  Opcode.of_byte rfl (by simp (disch := decide) only [toNat_append_div]; rfl) (by decide)
theorem Opcode.ld (x0 x1 x2 x3 x4) : Opcode.Statement (.ld x0 x1 x2 x3 x4) :=
  Opcode.of_byte rfl (by simp (disch := decide) only [toNat_append_div]; rfl) (by decide)
theorem Opcode.lda (x0 x1 x2 x3 x4) : Opcode.Statement (.lda x0 x1 x2 x3 x4) :=
  Opcode.of_byte rfl (by simp (disch := decide) only [toNat_append_div]; rfl) (by decide)
theorem Opcode.st (x0 x1 x2 x3 x4) : Opcode.Statement (.st x0 x1 x2 x3 x4) :=
  Opcode.of_byte rfl (by simp (disch := decide) only [toNat_append_div]; rfl) (by decide)
theorem Opcode.str (x0 x1 x2 x3 x4) : Opcode.Statement (.str x0 x1 x2 x3 x4) :=
  Opcode.of_byte rfl (by simp (disch := decide) only [toNat_append_div]; rfl) (by decide)
theorem Opcode.ldq (x0 x1 x2 x3 x4) : Opcode.Statement (.ldq x0 x1 x2 x3 x4) :=
  Opcode.of_byte rfl (by simp (disch := decide) only [toNat_append_div]; rfl) (by decide)
theorem Opcode.ldl (x0 x1 x2 x3 x4) : Opcode.Statement (.ldl x0 x1 x2 x3 x4) :=
  Opcode.of_byte rfl (by simp (disch := decide) only [toNat_append_div]; rfl) (by decide)
theorem Opcode.stl (x0 x1 x2 x3 x4) : Opcode.Statement (.stl x0 x1 x2 x3 x4) :=
  Opcode.of_byte rfl (by simp (disch := decide) only [toNat_append_div]; rfl) (by decide)
theorem Opcode.fenceAcqrel (x0) : Opcode.Statement (.fenceAcqrel x0) :=
  Opcode.of_byte rfl (by simp (disch := decide) only [toNat_append_div]; rfl) (by decide)
theorem Opcode.fenceSc (x0) : Opcode.Statement (.fenceSc x0) :=
  Opcode.of_byte rfl (by simp (disch := decide) only [toNat_append_div]; rfl) (by decide)
theorem Opcode.cctl (x0 x1 x2) : Opcode.Statement (.cctl x0 x1 x2) :=
  Opcode.of_byte rfl (by simp (disch := decide) only [toNat_append_div]; rfl) (by decide)
theorem Opcode.ifence : Opcode.Statement .ifence :=
  Opcode.of_byte rfl rfl (by decide)
theorem Opcode.atomAdd (x0 x1 x2 x3 x4 x5) : Opcode.Statement (.atomAdd x0 x1 x2 x3 x4 x5) :=
  Opcode.of_byte rfl (by simp (disch := decide) only [toNat_append_div]; rfl) (by decide)
theorem Opcode.atomMin (x0 x1 x2 x3 x4 x5) : Opcode.Statement (.atomMin x0 x1 x2 x3 x4 x5) :=
  Opcode.of_byte rfl (by simp (disch := decide) only [toNat_append_div]; rfl) (by decide)
theorem Opcode.atomMinu (x0 x1 x2 x3 x4 x5) : Opcode.Statement (.atomMinu x0 x1 x2 x3 x4 x5) :=
  Opcode.of_byte rfl (by simp (disch := decide) only [toNat_append_div]; rfl) (by decide)
theorem Opcode.atomMax (x0 x1 x2 x3 x4 x5) : Opcode.Statement (.atomMax x0 x1 x2 x3 x4 x5) :=
  Opcode.of_byte rfl (by simp (disch := decide) only [toNat_append_div]; rfl) (by decide)
theorem Opcode.atomMaxu (x0 x1 x2 x3 x4 x5) : Opcode.Statement (.atomMaxu x0 x1 x2 x3 x4 x5) :=
  Opcode.of_byte rfl (by simp (disch := decide) only [toNat_append_div]; rfl) (by decide)
theorem Opcode.atomAnd (x0 x1 x2 x3 x4 x5) : Opcode.Statement (.atomAnd x0 x1 x2 x3 x4 x5) :=
  Opcode.of_byte rfl (by simp (disch := decide) only [toNat_append_div]; rfl) (by decide)
theorem Opcode.atomOr (x0 x1 x2 x3 x4 x5) : Opcode.Statement (.atomOr x0 x1 x2 x3 x4 x5) :=
  Opcode.of_byte rfl (by simp (disch := decide) only [toNat_append_div]; rfl) (by decide)
theorem Opcode.atomXor (x0 x1 x2 x3 x4 x5) : Opcode.Statement (.atomXor x0 x1 x2 x3 x4 x5) :=
  Opcode.of_byte rfl (by simp (disch := decide) only [toNat_append_div]; rfl) (by decide)
theorem Opcode.atomExch (x0 x1 x2 x3 x4 x5) : Opcode.Statement (.atomExch x0 x1 x2 x3 x4 x5) :=
  Opcode.of_byte rfl (by simp (disch := decide) only [toNat_append_div]; rfl) (by decide)
theorem Opcode.atomCas (x0 x1 x2 x3 x4 x5) : Opcode.Statement (.atomCas x0 x1 x2 x3 x4 x5) :=
  Opcode.of_byte rfl (by simp (disch := decide) only [toNat_append_div]; rfl) (by decide)
theorem Opcode.atomIncw (x0 x1 x2 x3 x4) : Opcode.Statement (.atomIncw x0 x1 x2 x3 x4) :=
  Opcode.of_byte rfl (by simp (disch := decide) only [toNat_append_div]; rfl) (by decide)
theorem Opcode.atomAddb (x0 x1 x2 x3 x4) : Opcode.Statement (.atomAddb x0 x1 x2 x3 x4) :=
  Opcode.of_byte rfl (by simp (disch := decide) only [toNat_append_div]; rfl) (by decide)
theorem Opcode.atomLadd (x0 x1 x2 x3 x4) : Opcode.Statement (.atomLadd x0 x1 x2 x3 x4) :=
  Opcode.of_byte rfl (by simp (disch := decide) only [toNat_append_div]; rfl) (by decide)
theorem Opcode.redAdd (x0 x1 x2 x3 x4 x5) : Opcode.Statement (.redAdd x0 x1 x2 x3 x4 x5) :=
  Opcode.of_byte rfl (by simp (disch := decide) only [toNat_append_div]; rfl) (by decide)
theorem Opcode.redMin (x0 x1 x2 x3 x4 x5) : Opcode.Statement (.redMin x0 x1 x2 x3 x4 x5) :=
  Opcode.of_byte rfl (by simp (disch := decide) only [toNat_append_div]; rfl) (by decide)
theorem Opcode.redMinu (x0 x1 x2 x3 x4 x5) : Opcode.Statement (.redMinu x0 x1 x2 x3 x4 x5) :=
  Opcode.of_byte rfl (by simp (disch := decide) only [toNat_append_div]; rfl) (by decide)
theorem Opcode.redMax (x0 x1 x2 x3 x4 x5) : Opcode.Statement (.redMax x0 x1 x2 x3 x4 x5) :=
  Opcode.of_byte rfl (by simp (disch := decide) only [toNat_append_div]; rfl) (by decide)
theorem Opcode.redMaxu (x0 x1 x2 x3 x4 x5) : Opcode.Statement (.redMaxu x0 x1 x2 x3 x4 x5) :=
  Opcode.of_byte rfl (by simp (disch := decide) only [toNat_append_div]; rfl) (by decide)
theorem Opcode.redAnd (x0 x1 x2 x3 x4 x5) : Opcode.Statement (.redAnd x0 x1 x2 x3 x4 x5) :=
  Opcode.of_byte rfl (by simp (disch := decide) only [toNat_append_div]; rfl) (by decide)
theorem Opcode.redOr (x0 x1 x2 x3 x4 x5) : Opcode.Statement (.redOr x0 x1 x2 x3 x4 x5) :=
  Opcode.of_byte rfl (by simp (disch := decide) only [toNat_append_div]; rfl) (by decide)
theorem Opcode.redXor (x0 x1 x2 x3 x4 x5) : Opcode.Statement (.redXor x0 x1 x2 x3 x4 x5) :=
  Opcode.of_byte rfl (by simp (disch := decide) only [toNat_append_div]; rfl) (by decide)
theorem Opcode.redLadd (x0 x1 x2 x3 x4) : Opcode.Statement (.redLadd x0 x1 x2 x3 x4) :=
  Opcode.of_byte rfl (by simp (disch := decide) only [toNat_append_div]; rfl) (by decide)
theorem Opcode.midx (x0 x1 x2) : Opcode.Statement (.midx x0 x1 x2) :=
  Opcode.of_byte rfl (by simp (disch := decide) only [toNat_append_div]; rfl) (by decide)
theorem Opcode.mloop (x0 x1) : Opcode.Statement (.mloop x0 x1) :=
  Opcode.of_byte rfl (by simp (disch := decide) only [toNat_append_div]; rfl) (by decide)
theorem Opcode.mclr (x0 x1) : Opcode.Statement (.mclr x0 x1) :=
  Opcode.of_byte rfl (by simp (disch := decide) only [toNat_append_div]; rfl) (by decide)
theorem Opcode.mscl (x0 x1) : Opcode.Statement (.mscl x0 x1) :=
  Opcode.of_byte rfl (by simp (disch := decide) only [toNat_append_div]; rfl) (by decide)
theorem Opcode.mstat (x0 x1 x2) : Opcode.Statement (.mstat x0 x1 x2) :=
  Opcode.of_byte rfl (by simp (disch := decide) only [toNat_append_div]; rfl) (by decide)
theorem Opcode.tdesc (x0 x1) : Opcode.Statement (.tdesc x0 x1) :=
  Opcode.of_byte rfl (by simp (disch := decide) only [toNat_append_div]; rfl) (by decide)
theorem Opcode.tstate (x0 x1) : Opcode.Statement (.tstate x0 x1) :=
  Opcode.of_byte rfl (by simp (disch := decide) only [toNat_append_div]; rfl) (by decide)
theorem Opcode.trel (x0) : Opcode.Statement (.trel x0) :=
  Opcode.of_byte rfl (by simp (disch := decide) only [toNat_append_div]; rfl) (by decide)
theorem Opcode.cpyin (x0 x1) : Opcode.Statement (.cpyin x0 x1) :=
  Opcode.of_byte rfl (by simp (disch := decide) only [toNat_append_div]; rfl) (by decide)
theorem Opcode.cpyout (x0 x1) : Opcode.Statement (.cpyout x0 x1) :=
  Opcode.of_byte rfl (by simp (disch := decide) only [toNat_append_div]; rfl) (by decide)
theorem Opcode.cpyx (x0 x1) : Opcode.Statement (.cpyx x0 x1) :=
  Opcode.of_byte rfl (by simp (disch := decide) only [toNat_append_div]; rfl) (by decide)
theorem Opcode.cpyp (x0 x1) : Opcode.Statement (.cpyp x0 x1) :=
  Opcode.of_byte rfl (by simp (disch := decide) only [toNat_append_div]; rfl) (by decide)
theorem Opcode.hbind (x0 x1 x2) : Opcode.Statement (.hbind x0 x1 x2) :=
  Opcode.of_byte rfl (by simp (disch := decide) only [toNat_append_div]; rfl) (by decide)
theorem Opcode.hstat (x0 x1 x2) : Opcode.Statement (.hstat x0 x1 x2) :=
  Opcode.of_byte rfl (by simp (disch := decide) only [toNat_append_div]; rfl) (by decide)
theorem Opcode.bra (x0 x1) : Opcode.Statement (.bra x0 x1) :=
  Opcode.of_byte rfl (by simp (disch := decide) only [toNat_append_div]; rfl) (by decide)
theorem Opcode.brx (x0 x1) : Opcode.Statement (.brx x0 x1) :=
  Opcode.of_byte rfl (by simp (disch := decide) only [toNat_append_div]; rfl) (by decide)
theorem Opcode.call (x0 x1) : Opcode.Statement (.call x0 x1) :=
  Opcode.of_byte rfl (by simp (disch := decide) only [toNat_append_div]; rfl) (by decide)
theorem Opcode.ret (x0) : Opcode.Statement (.ret x0) :=
  Opcode.of_byte rfl (by simp (disch := decide) only [toNat_append_div]; rfl) (by decide)
theorem Opcode.exit (x0) : Opcode.Statement (.exit x0) :=
  Opcode.of_byte rfl (by simp (disch := decide) only [toNat_append_div]; rfl) (by decide)
theorem Opcode.trap (x0) : Opcode.Statement (.trap x0) :=
  Opcode.of_byte rfl (by simp (disch := decide) only [toNat_append_div]; rfl) (by decide)
theorem Opcode.tret (x0) : Opcode.Statement (.tret x0) :=
  Opcode.of_byte rfl (by simp (disch := decide) only [toNat_append_div]; rfl) (by decide)
theorem Opcode.bkpt (x0) : Opcode.Statement (.bkpt x0) :=
  Opcode.of_byte rfl (by simp (disch := decide) only [toNat_append_div]; rfl) (by decide)
theorem Opcode.nop (x0) : Opcode.Statement (.nop x0) :=
  Opcode.of_byte rfl (by simp (disch := decide) only [toNat_append_div]; rfl) (by decide)
theorem Opcode.yield (x0) : Opcode.Statement (.yield x0) :=
  Opcode.of_byte rfl (by simp (disch := decide) only [toNat_append_div]; rfl) (by decide)
theorem Opcode.bar (x0) : Opcode.Statement (.bar x0) :=
  Opcode.of_byte rfl (by simp (disch := decide) only [toNat_append_div]; rfl) (by decide)
theorem Opcode.bardrop (x0 x1) : Opcode.Statement (.bardrop x0 x1) :=
  Opcode.of_byte rfl (by simp (disch := decide) only [toNat_append_div]; rfl) (by decide)
theorem Opcode.pbar (x0 x1) : Opcode.Statement (.pbar x0 x1) :=
  Opcode.of_byte rfl (by simp (disch := decide) only [toNat_append_div]; rfl) (by decide)
theorem Opcode.waitc (x0 x1) : Opcode.Statement (.waitc x0 x1) :=
  Opcode.of_byte rfl (by simp (disch := decide) only [toNat_append_div]; rfl) (by decide)
theorem Opcode.rgsig (x0 x1 x2 x3) : Opcode.Statement (.rgsig x0 x1 x2 x3) :=
  Opcode.of_byte rfl (by simp (disch := decide) only [toNat_append_div]; rfl) (by decide)
theorem Opcode.rgwait (x0 x1 x2 x3 x4) : Opcode.Statement (.rgwait x0 x1 x2 x3 x4) :=
  Opcode.of_byte rfl (by simp (disch := decide) only [toNat_append_div]; rfl) (by decide)
theorem Opcode.trigger (x0) : Opcode.Statement (.trigger x0) :=
  Opcode.of_byte rfl (by simp (disch := decide) only [toNat_append_div]; rfl) (by decide)
theorem Opcode.tfork (x0 x1 x2) : Opcode.Statement (.tfork x0 x1 x2) :=
  Opcode.of_byte rfl (by simp (disch := decide) only [toNat_append_div]; rfl) (by decide)
theorem Opcode.tjoin (x0 x1) : Opcode.Statement (.tjoin x0 x1) :=
  Opcode.of_byte rfl (by simp (disch := decide) only [toNat_append_div]; rfl) (by decide)
theorem Opcode.tpoll (x0 x1) : Opcode.Statement (.tpoll x0 x1) :=
  Opcode.of_byte rfl (by simp (disch := decide) only [toNat_append_div]; rfl) (by decide)
theorem Opcode.sread (x0 x1) : Opcode.Statement (.sread x0 x1) :=
  Opcode.of_byte rfl (by simp (disch := decide) only [toNat_append_div]; rfl) (by decide)
theorem Opcode.swrite (x0 x1) : Opcode.Statement (.swrite x0 x1) :=
  Opcode.of_byte rfl (by simp (disch := decide) only [toNat_append_div]; rfl) (by decide)
theorem Opcode.loadSectorReturn (x0 x1 x2) : Opcode.Statement (.loadSectorReturn x0 x1 x2) :=
  fun _ h => nomatch h
theorem Opcode.storeAck (x0) : Opcode.Statement (.storeAck x0) :=
  fun _ h => nomatch h
theorem Opcode.pageWalkComplete (x0 x1 x2 x3) : Opcode.Statement (.pageWalkComplete x0 x1 x2 x3) :=
  fun _ h => nomatch h
theorem Opcode.lightFault (x0 x1) : Opcode.Statement (.lightFault x0 x1) :=
  fun _ h => nomatch h
theorem Opcode.faultResolve (x0 x1) : Opcode.Statement (.faultResolve x0 x1) :=
  fun _ h => nomatch h
theorem Opcode.sideLogReplay (x0) : Opcode.Statement (.sideLogReplay x0) :=
  fun _ h => nomatch h
theorem Opcode.l2LineWriteback (x0 x1) : Opcode.Statement (.l2LineWriteback x0 x1) :=
  fun _ h => nomatch h
theorem Opcode.linkRecoveryStart (x0) : Opcode.Statement (.linkRecoveryStart x0) :=
  fun _ h => nomatch h
theorem Opcode.linkRecoveryEnd (x0) : Opcode.Statement (.linkRecoveryEnd x0) :=
  fun _ h => nomatch h
theorem Opcode.peerUnreachable (x0) : Opcode.Statement (.peerUnreachable x0) :=
  fun _ h => nomatch h
theorem Opcode.patrolScrubRow (x0) : Opcode.Statement (.patrolScrubRow x0) :=
  fun _ h => nomatch h
theorem Opcode.copyStart (x0 x1) : Opcode.Statement (.copyStart x0 x1) :=
  fun _ h => nomatch h
theorem Opcode.hullerCellFire (x0 x1) : Opcode.Statement (.hullerCellFire x0 x1) :=
  fun _ h => nomatch h
theorem Opcode.copyComplete (x0 x1) : Opcode.Statement (.copyComplete x0 x1) :=
  fun _ h => nomatch h
theorem Opcode.hbindComplete (x0) : Opcode.Statement (.hbindComplete x0) :=
  fun _ h => nomatch h
theorem Opcode.matrixOpStart (x0) : Opcode.Statement (.matrixOpStart x0) :=
  fun _ h => nomatch h
theorem Opcode.midxComplete (x0) : Opcode.Statement (.midxComplete x0) :=
  fun _ h => nomatch h
theorem Opcode.mclrComplete (x0) : Opcode.Statement (.mclrComplete x0) :=
  fun _ h => nomatch h
theorem Opcode.mloopComplete (x0) : Opcode.Statement (.mloopComplete x0) :=
  fun _ h => nomatch h
theorem Opcode.mloopNanStop (x0) : Opcode.Statement (.mloopNanStop x0) :=
  fun _ h => nomatch h
theorem Opcode.forkPoint (x0) : Opcode.Statement (.forkPoint x0) :=
  fun _ h => nomatch h
theorem Opcode.joinMerge (x0) : Opcode.Statement (.joinMerge x0) :=
  fun _ h => nomatch h
theorem Opcode.copyOnWrite (x0 x1 x2) : Opcode.Statement (.copyOnWrite x0 x1 x2) :=
  fun _ h => nomatch h
theorem Opcode.revisionSpaceTimeout (x0 x1) : Opcode.Statement (.revisionSpaceTimeout x0 x1) :=
  fun _ h => nomatch h
theorem Opcode.twinCompare (x0) : Opcode.Statement (.twinCompare x0) :=
  fun _ h => nomatch h
theorem Opcode.assuredCheckpoint (x0) : Opcode.Statement (.assuredCheckpoint x0) :=
  fun _ h => nomatch h
theorem Opcode.queueDoorbell (x0 x1) : Opcode.Statement (.queueDoorbell x0 x1) :=
  fun _ h => nomatch h
theorem Opcode.waitWordPoll : Opcode.Statement .waitWordPoll :=
  fun _ h => nomatch h
theorem Opcode.dispatchDecision : Opcode.Statement .dispatchDecision :=
  fun _ h => nomatch h
theorem Opcode.warpStopped (x0) : Opcode.Statement (.warpStopped x0) :=
  fun _ h => nomatch h
theorem Opcode.forcedStop (x0) : Opcode.Statement (.forcedStop x0) :=
  fun _ h => nomatch h
theorem Opcode.blockSave (x0) : Opcode.Statement (.blockSave x0) :=
  fun _ h => nomatch h
theorem Opcode.blockEnd (x0) : Opcode.Statement (.blockEnd x0) :=
  fun _ h => nomatch h
theorem Opcode.gridCompletion (x0) : Opcode.Statement (.gridCompletion x0) :=
  fun _ h => nomatch h
theorem Opcode.hangWatchdog (x0) : Opcode.Statement (.hangWatchdog x0) :=
  fun _ h => nomatch h
theorem Opcode.barrierTimeout (x0 x1) : Opcode.Statement (.barrierTimeout x0 x1) :=
  fun _ h => nomatch h
theorem Opcode.podBarrierTimeout (x0 x1) : Opcode.Statement (.podBarrierTimeout x0 x1) :=
  fun _ h => nomatch h
theorem Opcode.powerLimitExceeded : Opcode.Statement .powerLimitExceeded :=
  fun _ h => nomatch h
theorem Opcode.thermalShutdown : Opcode.Statement .thermalShutdown :=
  fun _ h => nomatch h
theorem Opcode.perstnRise : Opcode.Statement .perstnRise :=
  fun _ h => nomatch h
theorem Opcode.firmwareVerification (x0) : Opcode.Statement (.firmwareVerification x0) :=
  fun _ h => nomatch h
theorem Opcode.port0LinkTraining : Opcode.Statement .port0LinkTraining :=
  fun _ h => nomatch h
theorem Opcode.memoryTraining : Opcode.Statement .memoryTraining :=
  fun _ h => nomatch h
theorem Opcode.hostWindowAccess (x0 x1 x2 x3) : Opcode.Statement (.hostWindowAccess x0 x1 x2 x3) :=
  fun _ h => nomatch h
theorem Opcode.deviceResetWrite (x0) : Opcode.Statement (.deviceResetWrite x0) :=
  fun _ h => nomatch h
theorem Opcode.l2wb (x0) : Opcode.Statement (.l2wb x0) :=
  fun _ h => nomatch h
theorem Opcode.l2wbDone : Opcode.Statement .l2wbDone :=
  fun _ h => nomatch h
theorem Opcode.queueControlWrite (x0 x1) : Opcode.Statement (.queueControlWrite x0 x1) :=
  fun _ h => nomatch h
theorem Opcode.tlbinv (x0 x1) : Opcode.Statement (.tlbinv x0 x1) :=
  fun _ h => nomatch h
theorem Opcode.tlbinvDone (x0) : Opcode.Statement (.tlbinvDone x0) :=
  fun _ h => nomatch h
theorem Opcode.contextSuspend (x0 x1) : Opcode.Statement (.contextSuspend x0 x1) :=
  fun _ h => nomatch h
theorem Opcode.contextEndRequest (x0 x1) : Opcode.Statement (.contextEndRequest x0 x1) :=
  fun _ h => nomatch h
theorem Opcode.fqrdWrite (x0 x1) : Opcode.Statement (.fqrdWrite x0 x1) :=
  fun _ h => nomatch h
theorem Opcode.eqrdWrite (x0 x1) : Opcode.Statement (.eqrdWrite x0 x1) :=
  fun _ h => nomatch h
theorem Opcode.fqsizeWrite (x0 x1) : Opcode.Statement (.fqsizeWrite x0 x1) :=
  fun _ h => nomatch h
theorem Opcode.eqsizeWrite (x0 x1) : Opcode.Statement (.eqsizeWrite x0 x1) :=
  fun _ h => nomatch h
theorem Opcode.revisionStackPush (x0 x1 x2) : Opcode.Statement (.revisionStackPush x0 x1 x2) :=
  fun _ h => nomatch h
theorem Opcode.contextCounterClear (x0 x1 x2) : Opcode.Statement (.contextCounterClear x0 x1 x2) :=
  fun _ h => nomatch h
theorem Opcode.hintshortClear (x0 x1) : Opcode.Statement (.hintshortClear x0 x1) :=
  fun _ h => nomatch h
theorem Opcode.channelCounterClear (x0 x1 x2) : Opcode.Statement (.channelCounterClear x0 x1 x2) :=
  fun _ h => nomatch h
theorem Opcode.registerWrite (x0 x1) : Opcode.Statement (.registerWrite x0 x1) :=
  fun _ h => nomatch h
theorem Opcode.partoff (x0 x1) : Opcode.Statement (.partoff x0 x1) :=
  fun _ h => nomatch h
theorem Opcode.partoffDone : Opcode.Statement .partoffDone :=
  fun _ h => nomatch h
theorem Opcode.partfmt (x0 x1 x2) : Opcode.Statement (.partfmt x0 x1 x2) :=
  fun _ h => nomatch h
theorem Opcode.partfmtDone : Opcode.Statement .partfmtDone :=
  fun _ h => nomatch h
theorem Opcode.parton (x0 x1) : Opcode.Statement (.parton x0 x1) :=
  fun _ h => nomatch h
theorem Opcode.scrubset (x0 x1 x2 x3) : Opcode.Statement (.scrubset x0 x1 x2 x3) :=
  fun _ h => nomatch h
theorem Opcode.retire (x0 x1) : Opcode.Statement (.retire x0 x1) :=
  fun _ h => nomatch h
theorem Opcode.budget (x0 x1 x2) : Opcode.Statement (.budget x0 x1 x2) :=
  fun _ h => nomatch h
theorem Opcode.resume (x0 x1) : Opcode.Statement (.resume x0 x1) :=
  fun _ h => nomatch h
theorem Opcode.histread (x0 x1 x2) : Opcode.Statement (.histread x0 x1 x2) :=
  fun _ h => nomatch h
theorem Opcode.schedset (x0 x1) : Opcode.Statement (.schedset x0 x1) :=
  fun _ h => nomatch h
theorem Opcode.huskexp (x0 x1 x2 x3) : Opcode.Statement (.huskexp x0 x1 x2 x3) :=
  fun _ h => nomatch h
theorem Opcode.huskimp (x0 x1 x2 x3) : Opcode.Statement (.huskimp x0 x1 x2 x3) :=
  fun _ h => nomatch h
theorem Opcode.lateact (x0 x1 x2) : Opcode.Statement (.lateact x0 x1 x2) :=
  fun _ h => nomatch h
theorem Opcode.codemove (x0 x1 x2 x3) : Opcode.Statement (.codemove x0 x1 x2 x3) :=
  fun _ h => nomatch h
theorem Opcode.codemoveCopy : Opcode.Statement .codemoveCopy :=
  fun _ h => nomatch h
theorem Opcode.powerset (x0 x1) : Opcode.Statement (.powerset x0 x1) :=
  fun _ h => nomatch h
theorem Opcode.ident (x0 x1) : Opcode.Statement (.ident x0 x1) :=
  fun _ h => nomatch h
theorem Opcode.attest (x0 x1 x2) : Opcode.Statement (.attest x0 x1 x2) :=
  fun _ h => nomatch h
theorem Opcode.fwload (x0 x1 x2) : Opcode.Statement (.fwload x0 x1 x2) :=
  fun _ h => nomatch h
theorem Opcode.mailboxUnassigned (x0 x1) : Opcode.Statement (.mailboxUnassigned x0 x1) :=
  fun _ h => nomatch h
theorem Opcode.illegalInstruction (x0) : Opcode.Statement (.illegalInstruction x0) :=
  fun _ h => nomatch h
theorem Opcode.perstnFall : Opcode.Statement .perstnFall :=
  fun _ h => nomatch h
theorem Opcode.supplyLoss : Opcode.Statement .supplyLoss :=
  fun _ h => nomatch h
theorem Opcode.supplyReturn : Opcode.Statement .supplyReturn :=
  fun _ h => nomatch h
theorem Opcode.linkRestore (x0) : Opcode.Statement (.linkRestore x0) :=
  fun _ h => nomatch h
theorem Opcode.storageError (x0) : Opcode.Statement (.storageError x0) :=
  fun _ h => nomatch h
theorem Opcode.powerBelowLimit : Opcode.Statement .powerBelowLimit :=
  fun _ h => nomatch h

end Sys2Proof.Laws
end

