-- ==== Sys2Proof/Tests/Slice0.lean ====
section
/-! SUPPORT. Tests: ill-formed terms, words and results that the spec prints, and for the statements' hypotheses a state and
operands that meet them. -/

set_option Elab.async false

namespace Sys2Proof.Tests

open Sys2Proof.Machine

/-! ## Well-formedness -/

/-- One ill-formed term for each check of `Instr.wf`. -/
theorem test_wf_refuses :
    ([.qadd 0 0 1 1, .qsub 0 0 1 1, .qmul 0 0 1 1, .qlop 0 0 0 5, .qlop 0 0 1 4, .qshf 0 0 0 3, .lcmp 7 0 0 0 0, .lcmpL16 7 0 0 0 0,
      .lcmpL8 7 0 0 0 0, .lscale 0 0 0 3, .lsqrt 0 0 3 0, .lrcp 0 0 3 0, .lsgn 0 0 3 0 0, .lsgn 0 0 0 3 0, .lclass 0 0 3 0,
      .lexp2 0 0 3 0, .llog2 0 0 3 0, .lsin 0 0 3 0, .lcos 0 0 3 0, .ltanh 0 0 3 0, .lnarrow 0 0 2 0 1 0, .lwiden 0 0 2 1 0 0] :
      List Instr).all (fun i => !i.wf) = true := by decide

/-- The same for the other families. -/
theorem test_wf_refuses_more :
    ([.lcvi 0 0 0 3 0, .lcvx 0 0 0 3 0, .lcvf 0 0 5 0 0, .lcvf 0 0 0 3 0, .lcve 0 0 5 0 0, .rand 0 0 0 1 0, .rand 0 0 1 3 0,
      .rand 1 0 2 0 0, .rand 0 0 3 0 0, .quadx 0 0 7, .vote 4 0 0 0 0 0, .vote 0 1 0 0 0 0, .vote 1 0 0 0 1 0, .ld 0 0 0 7 0,
      .ld 0 0 0 4 5, .lda 0 0 0 4 5, .st 0 0 0 7 0, .str 0 0 0 4 5, .ldq 0 0 0 3 0, .ldl 0 0 4 4 0, .stl 0 0 2 4 0,
      .fenceAcqrel 5, .fenceSc 5, .cctl 0 0 5, .cctl 1 0 1] : List Instr).all (fun i => !i.wf) = true := by decide

/-- The same for atomics, copies, rings and special registers. -/
theorem test_wf_refuses_rest :
    ([.atomAdd 0 0 0 0 0 5, .atomMin 0 0 0 0 0 5, .atomMinu 0 0 0 0 0 5, .atomMax 0 0 0 0 0 5, .atomMaxu 0 0 0 0 0 5, .atomAnd 0 0 0 0 0 5,
      .atomOr 0 0 0 0 0 5, .atomXor 0 0 0 0 0 5, .atomExch 0 0 0 0 0 5, .atomCas 0 0 0 0 0 5, .atomIncw 0 0 0 0 5, .atomAddb 0 0 0 0 5,
      .atomLadd 0 0 0 0 5, .redAdd 0 0 0 0 0 5, .redMin 0 0 0 0 0 5, .redMinu 0 0 0 0 0 5, .redMax 0 0 0 0 0 5, .redMaxu 0 0 0 0 0 5,
      .redAnd 0 0 0 0 0 5, .redOr 0 0 0 0 0 5, .redXor 0 0 0 0 0 5, .redLadd 0 0 0 0 5, .hbind 1 1 0, .hstat 0 1 1, .hstat 0 2 0,
      .bardrop 1 1, .rgsig 0 1 0 0, .rgsig 1 0 1 0, .rgwait 0 0 1 0 0, .sread 0 0x11, .swrite 0 0x10] : List Instr).all
      (fun i => !i.wf) = true := by decide

/-! ## Words that the spec prints -/

/-- The clause that chapter 14 works through: IADD, LMUL, QADD, BRA. -/
theorem test_words_clause :
    decodeWord 0x01080818#32 = .ok (.iadd 4 2 3 0) ∧ decodeWord 0x460A1030#32 = .ok (.lmul 5 4 6 0) ∧
    decodeWord 0x30041080#32 = .ok (.qadd 1 1 2 0) ∧ decodeWord 0xE0FFFFD1#32 = .ok (.bra 0x1FFFFA 1) ∧
    headerOf 0xAA0008BD#32 = ⟨5, 5, 0, 2, 2, 15, 1⟩ ∧ pfxOf 0xF8A00200#32 = ⟨2, true, 0, 0, false, true, false, 0⟩ := by decide +kernel

/-- Integer, bit and uniform instructions, as their entries print them. -/
theorem test_words_integer :
    decodeWord 0x19080818#32 = .ok (.and 4 2 3 0) ∧ decodeWord 0x1C02043B#32 = .ok (.andn 1 1 7 3) ∧
    decodeWord 0x20060868#32 = .ok (.bfe 3 2 3 8) ∧ decodeWord 0x16460828#32 = .ok (.icmp 2 3 2 5 0) ∧
    decodeWord 0x18081432#32 = .ok (.isel 4 5 6 2) ∧ decodeWord 0x2B06ABCD#32 = .ok (.movi 3 0x0ABCD) ∧
    decodeWord 0x2C061234#32 = .ok (.movhi 3 0x1234) ∧ decodeWord 0x2D060410#32 = .ok (.plop 0 3 1 2 0) ∧
    decodeWord 0x2E080000#32 = .ok (.ptow 4 0) ∧ decodeWord 0x2F001000#32 = .ok (.wtop 4 0) ∧
    decodeWord 0x30041005#32 = .ok (.qadd 1 1 0 5) ∧ decodeWord 0x350810C2#32 = .ok (.qcmp 2 1 3 2) ∧
    decodeWord 0x360FFFFB#32 = .ok (.qmovi 3 0x3FFFB) ∧ decodeWord 0x39121000#32 = .ok (.qtov 9 4 0) := by decide +kernel

/-- Logarithmic, cross-lane and mask instructions. -/
theorem test_words_log :
    decodeWord 0x420A0818#32 = .ok (.laddL8 5 2 3 0) ∧ decodeWord 0x4E0A0818#32 = .ok (.lmadL8 5 2 3 0) ∧
    decodeWord 0x58060BFA#32 = .ok (.lscale 3 2 0xFE 2) ∧ decodeWord 0x59100818#32 = .ok (.ldot4 8 2 3 0) ∧
    decodeWord 0x690C0028#32 = .ok (.rand 6 0 1 1 0) ∧ decodeWord 0x69001040#32 = .ok (.rand 0 4 2 0 0) ∧
    decodeWord 0x710A1030#32 = .ok (.shflFlip 5 4 6 0) ∧ decodeWord 0x740A1030#32 = .ok (.shwr 5 4 6 0) ∧
    decodeWord 0x750A1005#32 = .ok (.quadx 5 4 5) ∧ decodeWord 0x762D0800#32 = .ok (.vote 1 6 1 2 0 0) ∧
    decodeWord 0x76000438#32 = .ok (.vote 0 0 0 1 7 0) ∧ decodeWord 0x7B1C1000#32 = .ok (.mread 7 1) ∧
    decodeWord 0x7C001180#32 = .ok (.mset 1 6) := by decide +kernel

/-- Memory, tile, copy and matrix instructions. -/
theorem test_words_memory :
    decodeWord 0x801418E0#32 = .ok (.ld 10 6 3 4 0) ∧ decodeWord 0x81080863#32 = .ok (.lda 4 2 1 4 3) ∧
    decodeWord 0x841010B0#32 = .ok (.ldq 8 4 2 6 0) ∧ decodeWord 0x850C049B#32 = .ok (.ldl 6 1 2 3 3) ∧
    decodeWord 0x8700000B#32 = .ok (.fenceSc 3) ∧ decodeWord 0x950818C3#32 = .ok (.atomAddb 4 6 3 0 3) ∧
    decodeWord 0x97100C83#32 = .ok (.redAdd 8 3 2 0 0 3) ∧ decodeWord 0xC0105000#32 = .ok (.midx 4 5 0) ∧
    decodeWord 0xC41C1005#32 = .ok (.mstat 7 1 5) ∧ decodeWord 0xC8088000#32 = .ok (.tdesc 2 8) ∧
    decodeWord 0xD1400001#32 = .ok (.cpyout 16 1) ∧ decodeWord 0xD8100000#32 = .ok (.hbind 4 0 0) := by decide +kernel

/-- Control instructions. -/
theorem test_words_control :
    decodeWord 0xE4000001#32 = .ok (.exit 1) ∧ decodeWord 0xE5000007#32 = .ok (.trap 7) ∧ decodeWord 0xEB000010#32 = .ok (.bardrop 1 0) ∧
    decodeWord 0xEC000011#32 = .ok (.pbar 1 1) ∧ decodeWord 0xED000003#32 = .ok (.waitc 0 3) ∧ decodeWord 0xEF080015#32 = .ok (.rgwait 1 0 0 2 5) ∧
    decodeWord 0xF1282100#32 = .ok (.tfork 10 2 4) ∧ decodeWord 0xF2280000#32 = .ok (.tjoin 10 0) ∧ decodeWord 0xF32CA000#32 = .ok (.tpoll 11 10) ∧
    decodeWord 0xF4080020#32 = .ok (.sread 4 0x20) ∧ decodeWord 0xF5001421#32 = .ok (.swrite 5 0x21) := by decide +kernel
/-! ## A small machine -/

/-- One warp of 32 lanes that issues the only slot of a clause at offset 0; segment 3 is mapped, readable and writable, of 4 KiB. -/
def small : State :=
  let s := State.reset.withFetchWord 32 0x01080818
  { s with
    iss := { live := true, bid := 1, wk := 1, lanes := 0xFFFFFFFF, pc := 4, next := 8, hnext := 8, hdr := slotHeader 0x01080818, last := true }
    tlb := [(tlbKey 0 0 0 12 0x20000, { pa := 0x20000, r := true, w := true, x := false, dirty := true, rev := false, own := false, pte := 0 })]
    grids := lmap (fun _ (g : Grid) => { g with
      segs := [{}, {}, {}, { limit := 0xFFF, base := 0x20000, valid := true, w := true, r := true }] }) s.grids
    blocks := lmap (fun _ (b : Block) => { b with alloc := [1024, 1024, 1024, 1024, 1024], tilesN := 8 }) s.blocks
    warps := lmap (fun _ (w : Warp) => { w with
      lanes := lmap (fun _ (x : Lane) => { x with pc := 4, clause := some (0, slotHeader 0x01080818) }) w.lanes }) s.warps }

/-- The small machine with a prefix word on its instruction. -/
def smallPfx (p : Word) : State := { small with iss := { small.iss with hasPfx := true, pfx := p, next := 12 } }

/-- The small machine whose bundle has no active lane: its guard is false. -/
def smallNone : State := smallPfx 0xF8200000

/-- The same with only lane 0 in the bundle. -/
def smallOne : State := { small with iss := { small.iss with lanes := 1 } }

/-- Registers of lane 0 set. -/
def withW (l : List (Nat × Word)) (s : State) : State := l.foldl (fun s e => writeW e.1 0 e.2 s) s

/-- Uniform registers set. -/
def withQ (l : List (Nat × Word)) (s : State) : State := l.foldl (fun s e => writeQ e.1 e.2 s) s

/-- A change of the warp. -/
def warpWith (f : Warp → Warp) (s : State) : State := modWarp 1 f s

/-- A change of the block. -/
def blkWith (f : Block → Block) (s : State) : State := modBlk 1 f s

/-- The value that one step leaves in a w register of lane 0. -/
def w0After (i : Instr) (s : State) (r : Nat) : Option Nat :=
  match exec i s with
  | .next t => some (readW t r 0).toNat
  | _ => none

/-- The flags that one step raises. -/
def flagsAfter (i : Instr) (s : State) : Option Nat :=
  match exec i s with
  | .next t => some (curBlk t).flagsNow.toNat
  | _ => none

/-! ## Results that the spec prints -/

/-- ANDN, BDEP, BEXT, BFE, BFE.s and BYTEP: the examples of chapter 15. -/
theorem test_bits :
    w0After (.andn 1 1 7 0) (withW [(1, 0xFF0F), (7, 0x0F0F)] smallOne) 1 = some 0xF000 ∧
    w0After (.bdep 1 2 3 0) (withW [(2, 0x0B), (3, 0xF0)] smallOne) 1 = some 0xB0 ∧
    w0After (.bext 1 2 3 0) (withW [(2, 0xB0), (3, 0xF0)] smallOne) 1 = some 0x0B ∧
    w0After (.bfe 3 2 3 8) (withW [(2, 0xFA00)] smallOne) 3 = some 0xA ∧
    w0After (.bfeS 3 2 3 8) (withW [(2, 0xFA00)] smallOne) 3 = some 0xFFFFFFFA ∧
    w0After (.bytep 1 2 3 0) (withW [(1, 0x8740), (2, 0x44332211), (3, 0x88776655)] smallOne) 1 = some 0x885511 := by decide +kernel

/-- LADD.l8: slots with a sum, an exact cancellation, an overflow and an underflow. -/
theorem test_ladd :
    w0After (.laddL8 5 2 3 0) (withW [(2, 0x211F1008), (3, 0xA0189008)] smallOne) 5 = some 0x40604010 ∧
    flagsAfter (.laddL8 5 2 3 0) (withW [(2, 0x211F1008), (3, 0xA0189008)] smallOne) = some 3 := by decide +kernel

/-- LMUL.l16 and LDIV.l16. -/
theorem test_lmul :
    w0After (.lmulL16 5 2 3 0) (withW [(2, 0x1F000200), (3, 0x02003E00)] smallOne) 5 = some 0x60000000 ∧
    w0After (.ldivL16 5 2 3 0) (withW [(2, 0x1F000200), (3, 0x02003E00)] smallOne) 5 = some 0x1D000400 ∧
    flagsAfter (.ldivL16 5 2 3 0) (withW [(2, 0x1F000200), (3, 0x02003E00)] smallOne) = some 0 := by decide +kernel

/-- LMAD.l8 keeps its product unrounded; LDOT4. -/
theorem test_lmad :
    (w0After (.lmadL8 5 2 3 0) (withW [(2, 0x18), (3, 0x88), (5, 0x1F)] smallOne) 5).map (· % 256) = some 0x83 ∧
    w0After (.ldot4 8 2 3 0) (withW [(2, 0x88080000), (3, 0x08080808), (8, 0x00800000)] smallOne) 8 = some 0x00C00000 := by decide +kernel

/-- LSIN, LCOS, LEXP2, LLOG2 and LTANH on L8 operands. -/
theorem test_log_functions :
    (w0After (.lsin 5 2 2 0) (withW [(2, 0x28)] smallOne) 5).map (· % 256) = some 0x3C ∧
    (w0After (.lcos 5 2 2 0) (withW [(2, 0x30)] smallOne) 5).map (· % 256) = some 0x40 ∧
    (w0After (.lexp2 5 2 2 0) (withW [(2, 0x80)] smallOne) 5).map (· % 256) = some 0x38 ∧
    (w0After (.llog2 5 2 2 0) (withW [(2, 0x20)] smallOne) 5).map (· % 256) = some 0x90 ∧
    (w0After (.ltanh 5 2 2 0) (withW [(2, 0x00)] smallOne) 5).map (· % 256) = some 0x3D := by decide +kernel

/-- LCVI and LCVX, with their flags; LNARROW and LWIDEN. -/
theorem test_conversions :
    w0After (.lcvi 7 6 0 2 0) (withW [(6, 0x64FA)] smallOne) 7 = some 0x40406095 ∧
    w0After (.lcvx 8 7 0 2 0) (withW [(7, 0x40406095)] smallOne) 8 = some 0x7FFA ∧
    w0After (.lnarrow 8 1 0 0 2 0) (withW [(1, 0x00500000), (8, 0)] smallOne) 8 = some 0x0A ∧
    w0After (.lwiden 9 8 1 2 0 0) (withW [(8, 0x030A)] smallOne) 9 = some 0x00180000 := by decide +kernel

/-- The wrapping counter, the bounded sum and compare-and-exchange. -/
theorem test_atomic_results :
    (rmwNew .incw 32 5 10 0).1 = 6 ∧ (rmwNew .incw 32 10 10 0).1 = 0 ∧ (rmwNew .incw 32 3 0 0).1 = 0 ∧
    (rmwNew .incw 32 0xFFFFFFFF 0xFFFFFFFF 0).1 = 0 ∧ (rmwNew .addb 32 8 3 10).1 = 10 ∧ (rmwNew .addb 32 12 3 10).1 = 12 ∧
    (rmwNew .addb 32 0xFFFFFFF0 0x20 0xFFFFFFFF).1 = 0xFFFFFFFF ∧ (rmwNew .cas 32 7 9 5).1 = 7 := by decide +kernel

/-- TRAP 7 in lanes 0 to 3, as chapter 18 shows it: the trap registers, and where the lanes stand. -/
theorem test_trap :
    (match exec (.trap 7) { smallPfx 0xF8400000 with warps := (eachLane 0xF (fun l s => writeP 1 l true s) small).warps } with
      | .next t => some ((curWarp t).tcause.toNat, (curWarp t).tpc.toNat, (curWarp t).taddr.toNat, (curWarp t).trapLanes.toNat)
      | _ => none) = some (0x11, 8, 7, 0xF) := by decide +kernel

/-! ## States that meet the statements' hypotheses -/

/-- IntegerArithmetic, ShiftsAndSelection, ComparesAndPredicates. -/
theorem wit_integer : ∀ i ∈ ([.iadd 1 2 3 0, .iaddD 2 4 6 0, .isub 1 2 3 0, .isubD 2 4 6 0, .imul 1 2 3 0, .imulD 2 4 6 0, .imulh 1 2 3 0,
    .imulhU 1 2 3 0, .imad 1 2 3 0, .imin 1 2 3 0, .iminU 1 2 3 0, .imax 1 2 3 0, .imaxU 1 2 3 0, .iabs 1 2 0, .ishl 1 2 3 0, .ishlD 2 4 6 0,
    .ishr 1 2 3 0, .ishrS 1 2 3 0, .ishrD 2 4 6 0, .ishrDs 2 4 6 0, .iext 1 2 0 1 7, .iext 2 4 1 0 7, .isel 1 2 3 1, .icmp 2 1 2 3 0,
    .icmpD 2 1 2 4 0, .qcmp 1 2 3 2, .plop 0 1 2 3 0, .ptow 1 0, .wtop 1 0] : List Instr), Runs i small := by
  unfold Runs; decide +kernel

/-- IntegerArithmetic: an odd register of a pair form. -/
theorem wit_integer_odd : small.iss.live = true ∧ isAssured small = false ∧ (lfind small.iss.wk small.warps).isSome = true ∧ mayTrap small ∧
    honoured (curPfx small) small.iss.hasPfx (.iaddD 127 126 2 0) = true ∧ (127#7).toNat % 2 = 1 := by
  unfold mayTrap; decide +kernel

/-- LogicAndMoves, BitInstructions, UniformInstructions, CrossLane. -/
theorem wit_logic : (∀ i ∈ ([.and 1 2 3 0, .or 1 2 3 0, .xor 1 2 3 0, .andn 1 2 3 0, .mov 1 2 0, .movD 2 4 0, .movi 1 5, .movhi 1 5, .popc 1 2 0,
    .clz 1 2 0, .brev 1 2 0, .bfe 1 2 31 31, .bfeS 1 2 31 31, .bfi 1 2 3 4, .bytep 1 2 3 0, .bdep 1 2 3 0, .bext 1 2 3 0, .bmm8 2 4 6 0,
    .bperm 2 4 3 0, .bpset 52 3, .qadd 63 2 3 0, .qsub 1 2 3 0, .qmul 1 2 3 0, .qlop 1 2 3 3, .qlop 1 2 0 4, .qshf 1 2 3 2, .qmovi 1 5,
    .qmovhi 1 5, .qtov 1 2 0, .vtoq 1 2 0, .shflLane 1 2 3 0, .shflFlip 1 2 3 0, .shflLower 1 2 3 0, .shflHigher 1 2 3 0, .quadx 1 2 6,
    .shwr 1 2 3 0] : List Instr), Runs i small) ∧ active small 0 ≠ 0 ∧
    ∀ l, l < 32 → laneActive small 0 l = true → isHelper small l = false → readW small 2 l = readW small 2 (lowestLane (active small 0)) := by
  unfold Runs; refine ⟨by decide +kernel, by decide +kernel, fun l h _ _ => ?_⟩
  exact (by decide +kernel : ∀ l < 32, readW small 2 l = readW small 2 (lowestLane (active small 0))) l h

/-- PackedArithmetic, LogFunctions, LogCompares, Conversions, RandomNumbers. -/
theorem wit_log : (∀ i ∈ ([.ladd 1 2 3 0, .laddL16 1 2 3 0, .laddL8 1 2 3 0, .lsub 1 2 3 0, .lsubL16 1 2 3 0, .lsubL8 1 2 3 0, .lmul 1 2 3 0,
    .lmulL16 1 2 3 0, .lmulL8 1 2 3 0, .ldiv 1 2 3 0, .ldivL16 1 2 3 0, .ldivL8 1 2 3 0, .lmin 1 2 3 0, .lminL16 1 2 3 0, .lminL8 1 2 3 0,
    .lmax 1 2 3 0, .lmaxL16 1 2 3 0, .lmaxL8 1 2 3 0, .lmad 1 2 3 0, .lmadL16 1 2 3 0, .lmadL8 1 2 3 0, .ldot4 1 2 3 0, .lscale 1 2 255 2,
    .lsqrt 1 2 2 0, .lrcp 1 2 2 0, .lexp2 1 2 2 0, .llog2 1 2 2 0, .lsin 1 2 2 0, .lcos 1 2 2 0, .ltanh 1 2 2 0, .lcmp 6 1 2 3 0,
    .lcmpL16 6 1 2 3 0, .lcmpL8 6 1 2 3 0, .lsgn 1 2 1 2 0, .lclass 1 2 2 0, .lwiden 1 2 3 2 0 0, .lnarrow 1 2 3 0 2 0, .lcvi 1 2 1 2 0,
    .lcvx 1 2 1 2 0, .lcvf 1 2 4 2 0, .lcve 1 2 4 2 0, .rand 1 0 0 0 0, .rand 1 0 1 2 0, .rand 0 2 2 0 0] : List Instr), Runs i small) ∧
    (curBlk small).trapen = 0 := by
  unfold Runs; exact ⟨by decide +kernel, rfl⟩

/-- With no trap enabled, no flag traps. -/
theorem wit_noTrap (g : Nat) (fl : Nat → Nat) : noTrap small g fl := by
  intro l _ _ _
  show Nat.land (fl l) 0 = 0
  exact Nat.and_zero _

/-- ArithmeticTrap: an overflow with its trap enabled; a handler stands. -/
theorem wit_arithmeticTrap :
    let s := blkWith (fun b => { b with trapen := 1 }) (withW [(2, 0x1FFFFFFF), (3, 0x1FFFFFFF)] small);
    Runs (.ladd 5 2 3 0) s ∧ (curWarp s).bid = s.iss.bid ∧ (curWarp s).inHandler = false ∧ (handlerOf s s.iss.bid).isSome = true ∧
      laneActive s 0 0 = true ∧ isHelper s 0 = false ∧
      Nat.land (slotwise fL32 fun k => logAdd fL32 (curPfx s).sat (slotVal fL32 k (readW s 2 0)) (slotVal fL32 k (readW s 3 0))).2
        ((curBlk s).trapen.toNat % 32) ≠ 0 := by
  unfold Runs; decide +kernel

/-- Branches, NopAndYield. -/
theorem wit_branches : (∀ i ∈ ([.bra 0x1FFFFF 0, .call 2 0, .brx 2 0, .ret 0, .nop 0, .yield 0, .exit 0] : List Instr), Runs i small) ∧
    (∀ l, l < 32 → laneActive small 0 l = true → (readW small 2 l).toNat % 4 = 0) ∧ small.iss.last = true := by
  unfold Runs; refine ⟨by decide +kernel, fun l h _ => ?_, rfl⟩
  exact (by decide +kernel : ∀ l < 32, (readW small 2 l).toNat % 4 = 0) l h

/-- NopAndYield: the warp of the last issue has yielded. -/
theorem wit_yield : let s := (fun x : State => { x with lastWarp := [(0, 1)] }) (warpWith (fun w => { w with yielded := true }) small);
    lfind 0 s.lastWarp = some 1 ∧ (warpOf s 1).yielded = true ∧ ∀ e ∈ [((1 : Nat), ([] : List Bundle))], (warpOf s e.1).pass < 256 := by
  decide +kernel

/-- NopAndYield: no active lane. -/
theorem wit_none : (∀ i ∈ ([.bar 15, .pbar 0 3, .bardrop 0 15, .rgsig 0 0 7 7, .rgwait 1 0 0 7 7, .mset 11 63, .mwait 11, .waitc 11 63,
    .swrite 1 0x30, .trigger 0] : List Instr), Runs i smallNone) ∧ active smallNone 0 = 0 := by
  unfold Runs; decide +kernel

/-- The small machine without a handler, and inside its handler. -/
def smallNoHandler : State := { small with grids := lmap (fun _ (g : Grid) => { g with pkt := { g.pkt with handler := 0xFFFFFFFF } }) small.grids }

/-- The small machine inside its handler. -/
def smallInHandler : State := warpWith (fun w => { w with inHandler := true, trapLanes := 0xFFFFFFFF }) small

/-- TakingAnException: outside a handler with one and with none, and inside one. -/
theorem wit_exception : ∀ s ∈ [small, smallNoHandler, smallInHandler],
    (lfind s.iss.wk s.warps).isSome = true ∧ (curBlk s).cls ≠ 2 ∧ (curWarp s).bid = s.iss.bid := by
  decide +kernel

/-- The cases of TakingAnException that these states stand for. -/
theorem wit_exception_cases : (curWarp small).inHandler = false ∧ (handlerOf small small.iss.bid).isSome = true ∧
    (curWarp smallInHandler).inHandler = true ∧ handlerOf smallNoHandler 1 = none := by
  decide +kernel

/-- SoftwareTraps, with active lanes and without; TrapReturn outside a handler. -/
theorem wit_traps : (∀ i ∈ ([.trap 1023, .bkpt 1023, .tret 0] : List Instr), Runs i small) ∧ (∀ i ∈ ([.trap 0, .bkpt 0] : List Instr), Runs i smallNone) ∧
    active smallNone 0 = 0 ∧ active small 0 ≠ 0 ∧ (curWarp small).bid = small.iss.bid ∧ (handlerOf small small.iss.bid).isSome = true := by
  unfold Runs; decide +kernel

/-- TrapReturn inside a handler, without and with a deferred cause. -/
theorem wit_tret : ∀ s ∈ [warpWith (fun w => { w with inHandler := true, trapLanes := 0xFFFFFFFF }) small,
      warpWith (fun w => { w with inHandler := true, trapLanes := 0xFFFFFFFF, deferred := [(0x24, 5)] }) small],
    Runs (.tret 0) s ∧ (curWarp s).inHandler = true ∧ active s 0 ≠ 0 ∧ (handlerOf s s.iss.bid).isSome = true ∧
      ∀ e ∈ (curWarp s).deferred, e.1 < 256 := by
  unfold Runs; decide +kernel

/-- Barriers, CountersAndRings, MasksAndExit: nothing outstanding. -/
theorem wit_barriers : (∀ i ∈ ([.bar 15, .pbar 0 3, .pbar 1 3, .bardrop 0 15, .bardrop 1 0, .trigger 0, .waitc 0 0, .rgsig 0 0 7 7, .rgsig 1 2 0 0,
    .rgwait 0 0 0 7 7, .mjoin 0, .mleave 11, .mwait 1, .mread 63 11, .mset 11 63] : List Instr), Runs i small) ∧ active small 0 ≠ 0 ∧
    (curWarp small).rsc = 0 ∧ (curWarp small).loads = [] ∧ (curWarp small).num < 32 ∧ lfind 0 (curWarp small).cerr = none ∧
    lget 0 0 (curWarp small).cntSeen ≤ 0 := by
  unfold Runs; decide +kernel

/-- Barriers, CountersAndRings: a store outstanding; a counter above its bound, and one with an error. -/
theorem wit_waits : (let s := warpWith (fun w => { w with rsc := 1 }) small;
      Runs (.bar 0) s ∧ Runs (.rgsig 0 0 0 0) s ∧ active s 0 ≠ 0 ∧ (curWarp s).rsc ≠ 0) ∧
    (let s := warpWith (fun w => { w with cnt := [(11, 1)], cntSeen := [(11, 1)] }) small;
      Runs (.waitc 11 0) s ∧ active s 0 ≠ 0 ∧ lfind 11 (curWarp s).cerr = none ∧ (0#6).toNat < lget 0 11 (curWarp s).cntSeen) ∧
    (let s := warpWith (fun w => { w with cerr := [(11, 0x0D, 3)] }) small;
      Runs (.waitc 11 0) s ∧ (curWarp s).bid = s.iss.bid ∧ active s 0 ≠ 0 ∧ (curWarp s).inHandler = false ∧
        (handlerOf s s.iss.bid).isSome = true ∧ ∀ e ∈ lfind 11 (curWarp s).cerr, e.1 < 256) := by
  unfold Runs; decide +kernel

/-- SpecialRegisters. -/
theorem wit_special : (∀ n ∈ ([0x000, 0x001, 0x002, 0x003, 0x004, 0x005, 0x006, 0x007, 0x008, 0x009, 0x010, 0x012, 0x020, 0x021, 0x022, 0x023,
      0x024, 0x030, 0x031, 0x032, 0x033, 0x034, 0x035] : List (BitVec 10)), Runs (.sread 2 n) small) ∧
    (∀ n ∈ ([0x020, 0x021, 0x030, 0x031, 0x032, 0x033, 0x034, 0x035] : List (BitVec 10)), Runs (.swrite 2 n) small) ∧ active small 0 ≠ 0 ∧
    (let s := warpWith (fun w => { w with loads := [{ id := 1, dst := 0, nreg := 1, width := 4, lanes := 1, accs := [], seg := 3 }] }) small;
      Runs (.sread 2 0x020) s ∧ (curWarp s).loads ≠ [] ∧ active s 0 ≠ 0) := by
  unfold Runs; decide +kernel

/-- Votes. -/
theorem wit_votes : ∀ i ∈ ([.vote 0 0 0 1 7 0, .vote 1 15 1 2 0 0, .vote 2 1 0 2 0 0, .vote 3 1 0 2 0 0] : List Instr), Runs i small := by
  unfold Runs; decide +kernel

/-- A load of lane 0 that has found its place. -/
def oneLoad : LoadOp :=
  { id := 7, dst := 4, nreg := 1, width := 4, lanes := 1, accs := [{ lane := 0, off := 0, va := 0x20000, size := 4, pa := some 0x20000 }], seg := 3 }

/-- The small machine with that load outstanding. -/
def smallLoad : State := warpWith (fun w => { w with loads := [oneLoad] }) small

/-- The small machine with an atomic outstanding. -/
def smallAtom : State := warpWith (fun w => { w with loads := [{ oneLoad with rmw := some .add }] }) small

/-- A store of lane 0 in flight. -/
def oneStore : StoreOp :=
  { id := 8, wk := 1, bid := 1, core := 0, ctx := 0, rev := 0
    accs := [{ lane := 0, off := 0, va := 0x20000, size := 4, pa := some 0x20000, data := [1, 2, 3, 4] }] }

/-- LoadIssue: accesses allowed and mapped; none active; an acquire under way. -/
theorem wit_loads : (∀ i ∈ ([.ld 4 0 3 4 0, .lda 4 0 3 4 4, .ldq 4 0 3 4 0] : List Instr), Runs i small) ∧ mayAccess small false ∧
    ordinaryAccs small 3 0 4 ≠ [] ∧ accessible small 3 .read 0 (ordinaryAccs small 3 0 4) ∧
    (∀ i ∈ ([.ld 4 0 3 4 0, .lda 4 0 3 4 4] : List Instr), Runs i smallNone) ∧ active smallNone 0 = 0 := by
  unfold Runs mayAccess mayRelease noStl accessible; decide +kernel

/-- LoadIssue: an acquire under way; the access of LDQ. -/
theorem wit_loads_more : (let s := warpWith (fun w => { w with acquiring := true }) small;
      Runs (.ld 4 0 3 4 0) s ∧ active s 0 ≠ 0 ∧ (curWarp s).acquiring = true) ∧
    active small 0 &&& ~~~(helpers small (active small 0)) ≠ 0 ∧
    accessible small 3 .read 0 [{ lane := 0, off := 0, size := 4, va := 0x20000 }] := by
  unfold Runs accessible; decide +kernel

/-- LoadIssue, AtomicIssue: every active lane is a helper. -/
theorem wit_helpers : let s := warpWith (fun w => { w with lanes := lmap (fun _ (x : Lane) => { x with helper := true }) w.lanes }) small
    (∀ i ∈ ([.ld 4 0 3 4 0, .lda 4 0 3 4 4, .ldq 4 0 3 4 0, .atomAdd 4 0 3 0 3 4, .atomCas 4 0 3 0 0 4, .atomLadd 4 0 3 0 4] : List Instr),
      Runs i s) ∧ mayAccess s true ∧ onlyHelpers s := by
  unfold Runs mayAccess mayRelease noStl onlyHelpers; decide +kernel

/-- StoreIssue. -/
theorem wit_stores : (∀ i ∈ ([.st 4 0 3 4 0, .str 4 0 3 4 4] : List Instr), Runs i small) ∧ mayAccess small true ∧ active small 0 ≠ 0 ∧
    (∀ e ∈ small.side, e.wk ≠ small.iss.wk) ∧ accessible small 3 .write 1 (ordinaryData small 3 0 4 4) ∧ Runs (.st 4 0 3 4 0) smallNone ∧
    (let s := warpWith (fun w => { w with rsc := 1 }) small; Runs (.str 4 0 3 4 4) s ∧ active s 0 ≠ 0 ∧ (curWarp s).rsc ≠ 0) := by
  unfold Runs mayAccess mayRelease noStl accessible; decide +kernel

/-- AtomicIssue. -/
theorem wit_atomics : (∀ i ∈ ([.atomAdd 4 0 3 0 3 4, .atomMin 4 0 3 0 0 4, .atomMinu 4 0 3 0 0 4, .atomMax 4 0 3 0 0 4, .atomMaxu 4 0 3 0 0 4,
      .atomAnd 4 0 3 0 0 4, .atomOr 4 0 3 0 0 4, .atomXor 4 0 3 0 0 4, .atomExch 4 0 3 1 0 4, .atomCas 4 0 3 0 0 4, .atomIncw 4 0 3 0 4,
      .atomAddb 4 0 3 0 4, .atomLadd 4 0 3 0 4] : List Instr), Runs i small) ∧ mayAccess small true ∧ ordinaryData small 3 0 4 4 ≠ [] ∧
    ordinaryData small 3 0 4 8 ≠ [] ∧ accessible small 3 .readWrite 2 (ordinaryData small 3 0 4 4) ∧
    accessible small 3 .readWrite 2 (ordinaryData small 3 0 4 8) := by
  unfold Runs mayAccess mayRelease noStl accessible; decide +kernel

/-- ReductionIssue. -/
theorem wit_reductions : (∀ i ∈ ([.redAdd 4 0 3 0 1 4, .redMin 4 0 3 0 0 4, .redMinu 4 0 3 0 0 4, .redMax 4 0 3 0 0 4, .redMaxu 4 0 3 0 0 4,
      .redAnd 4 0 3 0 0 4, .redOr 4 0 3 1 0 4, .redXor 4 0 3 0 0 4, .redLadd 4 0 3 0 4] : List Instr), Runs i small) ∧ mayAccess small true ∧
    active small 0 ≠ 0 ∧ small.side = [] ∧ accessible small 3 .readWrite 2 (ordinaryData small 3 0 4 4) ∧
    accessible small 3 .readWrite 2 (ordinaryData small 3 0 4 8) := by
  unfold Runs mayAccess mayRelease noStl accessible; decide +kernel

/-- The small machine with other segments 3 and 4. -/
def withSeg (g : Seg) (s : State) : State := { s with grids := lmap (fun _ (x : Grid) => { x with segs := [{}, {}, {}, g] }) s.grids }

/-- The offset of lane 0, in a lane's register and in a uniform one. -/
def at0 (v : Word) (s : State) : State := withQ [(0, v)] (withW [(0, v)] s)

/-- The forms of a global access, of the widths of 4 and 16 bytes, and of 4 and 8 bytes for atomics and reductions. -/
def forms (s : State) : List Global := globals s 4 0 4 0 3 4 0 4 0 0 0 ++ globals s 4 0 4 0 3 6 0 4 1 1 3

/-- AccessChecks: the forms, and what they need. -/
theorem wit_checks : (∀ e ∈ forms small, Runs e.ins small ∧ mayAccess small e.release ∧ e.accs ≠ []) ∧ mayTrap small ∧
    (handlerOf small small.iss.bid).isSome = true := by
  unfold Runs mayAccess mayRelease noStl mayTrap; decide +kernel

/-- AccessChecks: a misaligned address. -/
theorem wit_misaligned : let s := at0 1 small
    ∀ e ∈ forms s, ∃ a ∈ e.accs, a.va % a.size ≠ 0 ∧ ∀ b ∈ e.accs, ¬ b.lane < a.lane := by
  decide +kernel

/-- AccessChecks: an offset beyond the segment, aligned. -/
theorem wit_beyond : let s := at0 0x1000 small
    ∀ e ∈ forms s, (∀ b ∈ e.accs, b.va % b.size = 0) ∧ ∃ a ∈ e.accs, (∀ b ∈ e.accs, ¬ b.lane < a.lane) ∧
      (segOf s 3).limit < a.off + a.size - 1 := by
  decide +kernel

/-- AccessChecks: every earlier check passes at the segment's last bytes, in a segment without permission, in a locked range, and in
a segment with both. -/
theorem wit_permission : (let s := at0 0xFF0 (withSeg { limit := 0xFFF, base := 0x20000, valid := true } small);
      ∀ e ∈ forms s, (∀ b ∈ e.accs, b.va % b.size = 0 ∧ b.va < 2 ^ 56 ∧ b.off + b.size - 1 ≤ (segOf s 3).limit) ∧ (segOf s 3).valid = true ∧
        ¬ ((e.want = .write ∨ (segOf s 3).r = true) ∧ (e.want = .read ∨ (segOf s 3).w = true))) ∧
    (let s := at0 0xFF0 { small with locks := [{ core := 0, bid := 1, op := 9, space := 5, lo := 0x20FF3, hi := 0x20FF4, write := false }] };
      ∀ e ∈ forms s, (∀ b ∈ e.accs, b.va % b.size = 0 ∧ b.va < 2 ^ 56 ∧ b.off + b.size - 1 ≤ (segOf s 3).limit) ∧
        (segOf s 3).valid = true ∧ (segOf s 3).r = true ∧ (segOf s 3).w = true ∧ ∃ a ∈ e.accs, (∀ b ∈ e.accs, ¬ b.lane < a.lane) ∧
        ∃ l ∈ s.locks, l.bid = s.iss.bid ∧ l.space = 5 ∧ a.va < l.hi ∧ l.lo < a.va + a.size) := by
  decide +kernel

/-- What checks 5 and 6 of R159 answer of a form's first access. -/
def firstReach (s : State) (e : Global) : Option Reach :=
  (reachAll (curBlk s).core (curBlk s).ctx (revOf s s.iss.bid) (segOf s 3) e.want e.kind e.accs s).2.head?.map (·.2)

/-- AccessChecks: a page without permission, a table entry that is none, a page whose class is weaker than the segment's. -/
theorem wit_translation :
    (let s := { small with tlb := lmap (fun _ (t : Trans) => { t with r := false, w := false }) small.tlb };
      ∀ e ∈ forms s, firstCheck s 3 e.want e.accs = none ∧ (match firstReach s e with | some (.refused v) => v == 8 | _ => false) = true) ∧
    (let s := withSeg { limit := 0xFFF, base := 0x20000, valid := true, w := true, r := true, cls := 2 } small;
      ∀ e ∈ forms s, firstCheck s 3 e.want e.accs = none ∧ (match firstReach s e with | some .weak => true | _ => false) = true) := by
  decide +kernel

/-- AbsentPages: segment 4 lies in a page that no table maps; lane 0 issues. -/
def smallAbsent : State := { smallOne with grids := lmap (fun _ (g : Grid) => { g with
  segs := g.segs ++ [{ limit := 0xFFF, base := 0x30000, valid := true, w := true, r := true }] }) small.grids }

/-- AbsentPages. -/
theorem wit_absent : Runs (.ld 5 0 4 4 0) smallAbsent ∧ Runs (.st 5 0 4 4 0) smallAbsent ∧ mayAccess smallAbsent false ∧ active smallAbsent 0 ≠ 0 ∧
    smallAbsent.side = [] ∧ firstCheck smallAbsent 4 .read (ordinaryAccs smallAbsent 4 0 4) = none ∧
    firstCheck smallAbsent 4 .write (ordinaryData smallAbsent 4 0 5 4) = none := by
  unfold Runs mayAccess mayRelease noStl; decide +kernel

/-- AbsentPages: the walk finds no page. -/
theorem wit_absent_walk : ∀ e ∈ (reachAll 0 0 0 (segOf smallAbsent 4) .read 0 (ordinaryAccs smallAbsent 4 0 4) smallAbsent).2,
    (match e.2 with | .wait _ _ => true | _ => false) = true := by
  decide +kernel

/-- LocalStores: an access that passes and one that traps, at the end of the store. -/
theorem wit_local : (∀ i ∈ ([.ldl 4 0 0 4 7, .stl 4 0 1 6 7] : List Instr), Runs i small) ∧ (curWarp small).acquiring = false ∧
    (curBlk small).bad = [] ∧ helpers small (active small 0) = 0 ∧
    localCheck small 0 ((lanesOf (active small 0)).map (localAccess small 0 4 7)) = none ∧
    localCheck small 1 ((lanesOf (active small 0)).map (localAccess small 0 16 7)) = none ∧
    (let s := withW [(0, 1024)] small; (localCheck s 0 ((lanesOf (active s 0)).map (localAccess s 0 4 7))).isSome = true) := by
  unfold Runs; decide +kernel

/-- LocalStores: a misaligned address, one beyond the store, and one in a locked range. -/
theorem wit_localTraps : mayTrap small ∧ noStl small ∧ (handlerOf small small.iss.bid).isSome = true ∧
    (let s := withW [(0, 1)] small;
      let accs := (lanesOf (active s 0)).map (localAccess s 0 4 7);
      ∃ a ∈ accs, a.va % 4 ≠ 0 ∧ ∀ b ∈ accs, ¬ b.lane < a.lane) ∧
    (let s := withW [(0, 1024)] small;
      let accs := (lanesOf (active s 0)).map (localAccess s 0 4 0);
      (∀ a ∈ accs, a.va % 4 = 0) ∧ ∃ a ∈ accs, (curBlk s).alloc.getD 0 0 < a.va + 4 ∧ ∀ b ∈ accs, ¬ b.lane < a.lane) ∧
    (let s := { small with locks := [{ core := 0, bid := 1, op := 9, space := 0, lo := 31, hi := 32, write := true }] };
      let accs := (lanesOf (active s 0)).map (localAccess s 0 4 7);
      (∀ a ∈ accs, a.va % 4 = 0 ∧ a.va + 4 ≤ (curBlk s).alloc.getD 0 0) ∧ ∃ a ∈ accs, (∀ b ∈ accs, ¬ b.lane < a.lane) ∧
        ∃ l ∈ s.locks, l.bid = s.iss.bid ∧ l.space = 0 ∧ a.va < l.hi ∧ l.lo < a.va + 4) := by
  unfold mayTrap noStl; decide +kernel

/-- FencesAndCaches. -/
theorem wit_fences : (∀ i ∈ ([.fenceAcqrel 4, .fenceSc 0, .cctl 0 3 4, .cctl 0 0 1, .ifence] : List Instr), Runs i small) ∧ active small 0 ≠ 0 ∧
    (curWarp small).rsc = 0 ∧ (curWarp small).loads = [] ∧ (curWarp small).acquiring = false ∧ (segOf small 3).r = true ∧
    (∀ a ∈ ordinaryAccs small 3 0 1, offSegment (segOf small 3) 3 a = false) ∧
    (let s := warpWith (fun w => { w with rsc := 1 }) small; Runs (.fenceSc 4) s ∧ (curWarp s).rsc ≠ 0) := by
  unfold Runs; decide +kernel

/-- LoadCompletion: a plain load returns. -/
theorem wit_loadReturn : loadOf smallLoad 1 7 = some oneLoad ∧ followLoad smallLoad 1 oneLoad = oneLoad ∧ loadReady smallLoad 1 oneLoad 0x1000 = true ∧ undamaged smallLoad ∧
    (lfind 1 smallLoad.warps).isSome = true ∧ (linkState smallLoad (32 * 0x1000)).unreachable = false ∧ poisoned smallLoad 0x1000 = false ∧
    lfind (l1Key (blkOf smallLoad (warpOf smallLoad 1).bid).core 0x1000) smallLoad.l1 = none ∧ (∀ a ∈ oneLoad.accs, a.part = 0) ∧ oneLoad.exposed = 0 ∧
    (blkOf smallLoad (warpOf smallLoad 1).bid).badLines = [] := by
  unfold undamaged; decide +kernel

/-- LoadCompletion: loads of one access, wide, narrow and uniform. -/
theorem wit_loadRegs : oneLoad.accs.length = 1 ∧ oneLoad.uniform = false ∧ 4 ≤ oneLoad.size ∧
    (let o := { oneLoad with size := 2, signed := true, accs := [{ lane := 31, off := 0, va := 0, size := 2, data := [0xFF, 0xFF] }] };
      o.accs.length = 1 ∧ ∀ a ∈ o.accs, a.lane < 32 ∧ leNat a.data < 2 ^ (8 * o.size)) ∧
    (let o := { oneLoad with uniform := true, size := 16 }; o.uniform = true ∧ 4 ≤ o.size) := by
  decide +kernel

/-- PerformedAtHome: an atomic. -/
theorem wit_atomHome : (loadOf smallAtom 1 7).isSome = true ∧ (∀ o ∈ loadOf smallAtom 1 7, o.rmw = some .add ∧ followLoad smallAtom 1 o = o ∧ loadReady smallAtom 1 o 0x1000 = true ∧ o.exposed = 0 ∧
      o.accs.length = 1 ∧ ∀ a ∈ o.accs, a.pa = some 0x20000 ∧ a.size = 4) ∧ undamaged smallAtom ∧ (blkOf smallAtom 1).cls ≠ 2 ∧
    lfind 0x1000 smallAtom.resvs = none ∧ (blkOf smallAtom (warpOf smallAtom 1).bid).badLines = [] ∧ (∀ x ∈ lfind 0 (warpOf smallAtom 1).lanes, x.helper = false) := by
  unfold undamaged; decide +kernel

/-- PerformedAtHome: a store and a reduction. -/
theorem wit_storeHome : ∀ o ∈ [oneStore, { oneStore with rmw := some .add }],
    let s := (fun x : State => { x with stores := [o] }) small
    (s.stores.find? fun t => t.id == 8) = some o ∧ o.wb = false ∧ o.vpn = 0 ∧ storeReady s o = true ∧ undamaged s ∧ (blkOf s o.bid).cls ≠ 2 ∧
      (lfind o.wk s.warps).isSome = true ∧ (linkState s 0x20000).unreachable = false ∧ poisoned s 0x1000 = false ∧ lfind 0x1000 s.resvs = none ∧ o.exposed = 0 ∧ (∀ u ∈ s.stores, u.id ≠ 8 → sameCount o u = false) ∧
      o.accs.length = 1 ∧ ∀ a ∈ o.accs, a.size = 4 ∧ a.pa = some (32 * 0x1000) := by
  unfold undamaged; decide +kernel

/-- AnsweredPages: a load that waits for a fault that has gone, in a page that is mapped now. -/
theorem wit_walk : let o := { oneLoad with accs := [{ lane := 0, off := 0, va := 0x20000, size := 4, wait := 5 }] }
    let s := warpWith (fun w => { w with loads := [o] }) small
    s.warps = [(1, warpOf s 1)] ∧ (warpOf s 1).loads = [o] ∧ faultWaits s 5 = false ∧ (blkOf s (warpOf s 1).bid).cls ≠ 2 ∧
      (placeOf (reach 0 0 (revOf s 1) ((gridOf s 1).segs.getD 3 {}) .read 0 0x20000 s).2).isSome = true := by
  decide +kernel

/-- AnsweredPages: a side-log entry of a page that is mapped now. -/
theorem wit_replay : let e : SideEntry := { id := 9, wk := 1, bid := 1, core := 0, ctx := 0, rev := 0, vpn := 0x20, accs := [{ lane := 0, off := 0x10, va := 0x20010, size := 4, data := [1, 2, 3, 4] }], seg := (segOf small 3) }
    let s := (fun x : State => { x with side := [e] }) small
    (s.side.find? fun e => e.id == 9) = some e ∧ replayReady s e = true ∧ (blkOf s e.bid).cls ≠ 2 ∧
      (placeOf (reach e.core e.ctx e.rev e.seg .write 1 (headVa e.accs) s).2).isSome = true := by
  decide +kernel

/-- AnsweredPages: a fault that the host answers, mapped or unresolvable, and a light fault. -/
theorem wit_fault : let s := (fun x : State => { x with faults := [{ key := 1, ctx := 0, rev := 0, vpn := 0x30, kind := 5, seq := 4 },
      { key := 2, ctx := 0, rev := 0, vpn := 0x31, kind := 8 }] }) small
    (s.faults.find? fun f => f.ctx == 0 && decide (f.kind ≤ 5) && !f.dead && f.seq == (4#64).toNat % 2 ^ 32).isSome = true ∧
    (4#64).getLsbD 32 = false ∧ (0x100000004#64).getLsbD 32 = true ∧ (0x100000004#64).toNat % 2 ^ 32 = 4 ∧
    (s.faults.any fun f => f.ctx == 0 && f.vpn == 0x31FFF / 4096 && f.kind == 8) = true := by
  decide +kernel

/-- LinesAndLinks: a line that is sound and not tracked; a link in each state. -/
theorem wit_lines : undamaged small ∧ (∀ i < 4, poisoned small (4 * 5 + i) = false ∧ tracked small (32 * (4 * 5 + i)) = false) ∧
    (lget {} 3 small.links).recovery = none ∧ (lget {} 3 small.links).unreachable = false ∧
    (let s := (fun x : State => { x with links := [(3, { recovery := some 0 })], clock := 60000000 }) small;
      (lget {} 3 s.links).recovery = some 0 ∧ 0 + 50000000 ≤ timeOf s) ∧
    (let s := (fun x : State => { x with links := [(3, { recovery := some 0 })], clock := 59999998 }) small;
      (lget {} 3 s.links).recovery = some 0 ∧ timeOf s < 0 + 50000000) := by
  unfold undamaged; decide +kernel

/-- Word 0 of a tile entry, word 1 of a tile entry: store, format, rows, columns; base, pitch in bytes (R146). -/
def tw0 (sp fmt rows cols : Nat) : Word := BitVec.ofNat 32 (sp * 2 ^ 29 + fmt * 2 ^ 26 + (rows - 1) * 2 ^ 14 + (cols - 1) * 2 ^ 2)

/-- Word 1 of a tile entry: base and pitch in bytes (R146). -/
def tw1 (base pitch : Nat) : Word := BitVec.ofNat 32 (base / 32 * 2 ^ 18 + pitch / 16 * 2 ^ 4)

/-- The small machine with A in tile 1, B in tile 2 and C in tile 3, each 32 by 32 elements and ready, and 16 bytes of sb in
tile 4; q4 to q7 hold the descriptor of a loop over them. -/
def tiled : State :=
  withQ [(4, 0x03081000), (5, 0), (6, 0), (7, 0)] (blkWith (fun b => { b with
    alloc := [1024, 1024, 1024, 4096, 1024]
    tiles :=
      [(1, { w0 := tw0 1 0 32 32, w1 := tw1 0 32, state := 2 }), (2, { w0 := tw0 2 0 32 32, w1 := tw1 0 32, state := 2 }),
      (3, { w0 := tw0 3 2 32 32, w1 := tw1 0 128, state := 2 }), (4, { w0 := tw0 0 0 1 16, w1 := tw1 32 16, state := 2, rdcnt := 1 })] }) smallOne)

/-- The tiled machine with tile 3 in another state. -/
def tiledC (st : Nat) : State := blkWith (fun b => { b with tiles := lset {} 3 { tileAt b 3 with state := st } b.tiles }) tiled

/-- TileInstructions: TDESC on a free entry, a busy one, one that is ready, and beyond the table; words that are not a geometry. -/
theorem wit_tdesc :
    (let s := withQ [(10, tw0 4 4 1 16), (11, tw1 992 16)] tiled;
      (∀ t ∈ [(5 : BitVec 6), 4, 8], Runs (.tdesc t 10) s) ∧ active s 0 ≠ 0 ∧ mayTrap s ∧
      (geoOf (readQ s 10) (readQ s 11)).sp < 5 ∧ readQ s 10 &&& 3 = 0 ∧ readQ s 11 &&& 15 = 0 ∧ (curBlk s).tilesN = 8 ∧
      geometryOk (curBlk s) (geoOf (readQ s 10) (readQ s 11)) = true ∧ (tileAt (curBlk s) 5).state = 0 ∧ tileBusy (curBlk s) 5 = false ∧
      (tileAt (curBlk s) 4).state = 2) ∧
    (let s := withQ [(10, tw0 4 4 1 33), (11, tw1 992 48)] (tiledC 1);
      Runs (.tdesc 3 10) s ∧ tileBusy (curBlk s) 3 = true ∧ geometryOk (curBlk s) (geoOf (readQ s 10) (readQ s 11)) = false) ∧
    5 ≤ (geoOf (tw0 5 0 1 1) (tw1 0 16)).sp ∧ (1#32) &&& 3 ≠ 0 := by
  unfold Runs mayTrap; decide +kernel

/-- TileInstructions: TSTATE, TREL, MSCL and MSTAT on entries of each state. -/
theorem wit_tiles : (∀ i ∈ ([.tstate 1 7, .trel 4, .trel 3, .trel 5, .mscl 4 5, .mstat 1 1 3, .mstat 1 0 5] : List Instr), Runs i tiled) ∧
    active tiled 0 ≠ 0 ∧ mayTrap tiled ∧ tileKnown (curBlk tiled) 3 = true ∧ (tileAt (curBlk tiled) 3).state = 2 ∧
    (tileAt (curBlk tiled) 3).rdcnt = 0 ∧ tileKnown (curBlk tiled) 4 = true ∧ (tileAt (curBlk tiled) 4).rdcnt ≠ 0 ∧
    tileKnown (curBlk tiled) 5 = false ∧ (tileAt (curBlk (tiledC 0)) 3).state = 0 ∧ tileBusy (curBlk (tiledC 3)) 3 = true := by
  unfold Runs mayTrap; decide +kernel

/-- MatrixIssue: MIDX over the whole of sb's start, one index too many, an odd address, and beyond sb. -/
theorem wit_midx : (∀ e ∈ ([(0, 512), (0, 1), (0, 513), (1, 1), (0, 0), (1022, 2)] : List (Nat × Nat)),
      Runs (.midx 8 9 0) (withQ [(8, BitVec.ofNat 32 e.1), (9, BitVec.ofNat 32 e.2)] tiled)) ∧ active tiled 0 ≠ 0 ∧ mayTrap tiled ∧
    (curBlk tiled).alloc.getD 0 0 = 1024 ∧ matrixHeld (counterOf 0 tiled) [{ core := 0, bid := 1, space := 0, lo := 0, hi := 1024, write := false }] tiled = false ∧
    (let s := warpWith (fun w => { w with cnt := [(0, 63)], cntSeen := [(0, 63)] }) tiled;
      matrixHeld (counterOf 0 s) [] s = true) := by
  unfold Runs mayTrap; decide +kernel

/-- MatrixIssue: MCLR of C, of a busy C, and of tiles that are not C. -/
theorem wit_mclr : (∀ t ∈ [(3 : BitVec 6), 1, 5], Runs (.mclr t 0) tiled) ∧ tileKnown (curBlk tiled) 3 = true ∧ (geoAt (curBlk tiled) 3).sp = 3 ∧
    (geoAt (curBlk tiled) 3).fmt = 2 ∧ tileBusy (curBlk tiled) 3 = false ∧
    matrixHeld (counterOf 0 tiled) [tileRange tiled tiled.iss.bid 3 true] tiled = false ∧ Runs (.mclr 3 0) (tiledC 1) ∧
    tileBusy (curBlk (tiledC 1)) 3 = true ∧ (geoAt (curBlk tiled) 1).sp ≠ 3 := by
  unfold Runs; decide +kernel

/-- MatrixIssue: MLOOP on its tiles, with C busy, with bad fields, and with an operand tile that is not one. -/
theorem wit_mloop : (let ws := (List.range 4).map fun i => readQ tiled (4 + i)
      let d := loopDesc ws;
      Runs (.mloop 4 0) tiled ∧ loopFieldsOk ws (curGrid tiled).pkt.pod = true ∧ d.pod = false ∧ loopTilesOk d (curBlk tiled) = true ∧
      loopTileHeld d (curBlk tiled) = false ∧ matrixHeld (counterOf 0 tiled) (loopRanges d (loopMembers d 1 tiled) tiled) tiled = false ∧
      Runs (.mloop 4 0) (tiledC 1) ∧ loopMembers d 1 (tiledC 1) = [1] ∧ loopTilesOk d (blkOf (tiledC 1) 1) = true ∧
      loopTileHeld d (blkOf (tiledC 1) 1) = true) ∧
    (let s := withQ [(4, 0x03081001)] tiled;
      Runs (.mloop 4 0) s ∧ loopFieldsOk ((List.range 4).map fun i => readQ s (4 + i)) (curGrid s).pkt.pod = false) ∧
    (let s := withQ [(4, 0x03082000)] tiled;
      Runs (.mloop 4 0) s ∧ loopFieldsOk ((List.range 4).map fun i => readQ s (4 + i)) (curGrid s).pkt.pod = true ∧
      loopTilesOk (loopDesc ((List.range 4).map fun i => readQ s (4 + i))) (curBlk s) = false) := by
  unfold Runs; decide +kernel

/-- MatrixIssue: no lane is active, with room in the counter and without. -/
theorem wit_matrix_none : (∀ i ∈ [Instr.midx 4 5 0, .mclr 4 0, .mloop 4 0], Runs i smallNone ∧
      Runs i (warpWith (fun w => { w with cnt := [(0, 63)], cntSeen := [(0, 63)] }) smallNone)) ∧ active smallNone 0 = 0 ∧
    lget 0 (counterOf 0 smallNone) (curWarp smallNone).cntSeen < 63 ∧
    (let s := warpWith (fun w => { w with cnt := [(0, 63)], cntSeen := [(0, 63)] }) smallNone;
      63 ≤ lget 0 (counterOf 0 s) (curWarp s).cntSeen) := by
  unfold Runs; decide +kernel

/-- The small machine with a matrix operation of tile 3 started. -/
def matting (k : MatKind) (a b : Nat) (started : Bool) : State :=
  let op : MatOp := { id := 3, kind := k, bid := 1, wk := 1, core := 0, cnt := 0, pc := 4, a := a, b := b, started := started }
  { tiled with mats := [{ op with desc := [0x03081010, 0, 0, 0], members := [1] }] }

/-- MatrixUnit, MatrixProduct: each kind of operation under way. -/
theorem wit_matrixUnit :
    (∀ op ∈ (matting .midx 0 4 false).mats.find? (fun m => m.core == 0), op.started = false ∧ matrixNext (matting .midx 0 4 false) op = true) ∧
    ((matting .midx 0 4 false).mats.find? (fun m => m.core == 0)).isSome = true ∧
    (∀ e ∈ [(MatKind.midx, 0, 4), (.mclr, 3, 0), (.mloop, 0, 0)], let s := matting e.1 e.2.1 e.2.2 true;
      (matrixRunning s 0 e.1).isSome = true ∧ ∀ op ∈ matrixRunning s 0 e.1, (blkOf s op.bid).bad = [] ∧ op.members = [op.bid] ∧
        (lfind op.bid s.blocks).isSome = true ∧ (blkOf s op.bid).cls ≠ 2 ∧ (lfind op.wk s.warps).isSome = true ∧
        (warpOf s op.wk).bid = op.bid ∧ blockEnded s op.bid = false) ∧
    (let g := geoAt (curBlk tiled) 3;
      4 * g.cols ≤ g.pitch ∧ g.base + g.rows * g.pitch ≤ 2 ^ 20 ∧ g.fmt = 2 ∧ geometryOk (curBlk tiled) g = true) ∧
    (let d := loopDesc [0x03081000, 0, 0, 0];
      d.ntrap = false ∧ d.pod = false ∧ loopTilesOk d (curBlk tiled) = true ∧ (curBlk tiled).alloc.getD 3 0 ≤ 2 ^ 20) := by
  decide +kernel

/-- MatrixUnit: a loop with ntrap whose first element of A is a NaN stops. -/
theorem wit_matrixStop : let s := blkWith (fun b => { b with ls := lset 0 (1 * 2 ^ 20) 0x41 b.ls }) (matting .mloop 0 0 true)
    ∀ op ∈ matrixRunning s 0 .mloop, op.prog = [] ∧ op.struck = [] ∧ (memberLoop op 1 (blkOf s 1).latch (blkOf s 1)).p.stop.isSome = true := by
  decide +kernel

/-- The tiled machine with page 0x20 mapped and a tensor table at 0x20000: slots 1 and 2 hold vectors of 16 L8 elements at 0x20200 and 0x20300; tile
5 is 16 bytes of ab. -/
def copier : State :=
  let s := blkWith (fun b => { b with tiles := b.tiles ++ [(5, { w0 := tw0 1 0 1 16, w1 := tw1 32 16 })] }) tiled
  let tens := fun (base : Nat) => leBytes 8 0x9000 ++ leBytes 8 base ++ leBytes 4 16 ++ leBytes 4 1 ++ leBytes 4 1 ++ leBytes 4 1 ++ leBytes 4 1 ++ leBytes 4 1
  { s with
    tlb := []
    ctxs := lmod 0 (fun (c : Ctx) => { c with tensbase := 0x20000, tenscount := 3 }) s.ctxs
    mem := Memory.write (Memory.write (Memory.write s.mem 0x5100 (leBytes 8 0x813D)) 0x20040 (tens 0x20200)) 0x20080 (tens 0x20300) }

/-- The words of a copy descriptor in q16 to q23: word 0, tile, word 7. -/
def copyWords (w0 tile w7 : Nat) (s : State) : State :=
  withQ [(16, BitVec.ofNat 32 w0), (17, BitVec.ofNat 32 (tile * 2 ^ 26)), (18, 0), (19, 0), (20, 0), (21, 0), (22, 0), (23, BitVec.ofNat 32 w7)] s

/-- The words that a copy reads. -/
def copyWs (s : State) : List Word := (List.range 8).map fun i => readQ s (16 + i)

/-- CopyIssue: CPYIN of slot 1 into tile 5. -/
theorem wit_cpyin : let s := copyWords 1 5 0 copier
    let d := copyDesc (copyWs s)
    Runs (.cpyin 16 0) s ∧ active s 0 ≠ 0 ∧ descOk .cpyin (copyWs s) (curGrid s).pkt.pod = true ∧ (tensorRead s 1).isSome = true ∧
      (∀ x ∈ tensorRead s 1, tilesPass .cpyin d x.1 {} (some [1]) 1 s = true ∧ x.1.fmt ≠ 14) ∧ d.path < 8 ∧ d.gat = false ∧
      copyMembers .cpyin d 1 s = some [1] ∧ copyTileHeld .cpyin d [1] s = false ∧
      ∀ x ∈ tensorRead s 1, copyHeld (counterOf 0 s) d.queue (copyRanges .cpyin d x.1 {} x.2 [1] 1 s) s = false := by
  unfold Runs; decide +kernel

/-- CopyIssue: CPYOUT of tile 4 to slot 1. -/
theorem wit_cpyout : let s := copyWords 1 4 0 copier
    let d := copyDesc (copyWs s)
    Runs (.cpyout 16 0) s ∧ active s 0 ≠ 0 ∧ descOk .cpyout (copyWs s) (curGrid s).pkt.pod = true ∧ (tensorRead s 1).isSome = true ∧
      (∀ x ∈ tensorRead s 1, tilesPass .cpyout d {} x.1 (some []) 1 s = true ∧
        copyHeld (counterOf 0 s) d.queue (copyRanges .cpyout d {} x.1 x.2 [] 1 s) s = false) ∧ copyTileHeld .cpyout d [] s = false := by
  unfold Runs; decide +kernel

/-- CopyIssue: CPYX of tile 4 to tile 5 of the same block. -/
theorem wit_cpyx : let s := copyWords 5 4 0 copier
    let d := copyDesc (copyWs s)
    Runs (.cpyx 16 0) s ∧ active s 0 ≠ 0 ∧ descOk .cpyx (copyWs s) (curGrid s).pkt.pod = true ∧ copyMembers .cpyx d 1 s = some [1] ∧
      tilesPass .cpyx d {} {} (some [1]) 1 s = true ∧ copyTileHeld .cpyx d [1] s = false ∧
      copyHeld (counterOf 0 s) d.queue (copyRanges .cpyx d {} {} none [1] 1 s) s = false := by
  unfold Runs; decide +kernel

/-- CopyIssue: CPYP of slot 1 to slot 2; HBIND. -/
theorem wit_cpyp : let s := copyWords 1 0 2 copier
    let d := copyDesc (copyWs s)
    Runs (.cpyp 16 0) s ∧ active s 0 ≠ 0 ∧ descOk .cpyp (copyWs s) (curGrid s).pkt.pod = true ∧ undamaged s ∧
      (∀ h ∈ [1, 2], (tensorRead s h).isSome = true ∧ ∀ x ∈ tensorRead s h, x.1.cls = 0 ∧ peerClassBad s.iss.bid x.1 s = false) ∧
      (∀ x ∈ tensorRead s 1, ∀ y ∈ tensorRead s 2, tilesPass .cpyp d x.1 y.1 (some []) 1 s = true ∧
        copyHeld (counterOf 0 s) d.queue (copyRanges .cpyp d x.1 y.1 y.2 [] 1 s) s = false) ∧
      Runs (.hbind 4095 1 0) s ∧ Runs (.hbind 0 0 1) s ∧ copyHeld (counterOf 0 s) 3 [] s = false := by
  unfold Runs undamaged; decide +kernel

/-- CopyIssue: descriptors that are refused; no active lane; HSTAT. -/
theorem wit_copyRefused : (∀ e ∈ ([(.cpyin 16 0, .cpyin), (.cpyout 16 0, .cpyout), (.cpyx 16 0, .cpyx), (.cpyp 16 0, .cpyp)] : List (Instr × CopyKind)),
      Runs e.1 (withQ [(17, 8)] copier) ∧ descOk e.2 ((List.range 8).map fun i => readQ (withQ [(17, 8)] copier) (16 + i)) 1 = false) ∧
    active copier 0 ≠ 0 ∧ mayTrap copier ∧ (handlerOf copier copier.iss.bid).isSome = true ∧
    (∀ i ∈ [Instr.cpyin 16 0, .cpyout 16 0, .cpyx 16 0, .cpyp 16 0, .hbind 16 0 0], Runs i smallNone) ∧ active smallNone 0 = 0 ∧
    (∀ i ∈ [Instr.hstat 1 0 1, .hstat 1 1 0, .hstat 1 2 0, .hstat 1 1 1], Runs i copier) := by
  unfold Runs mayTrap; decide +kernel

/-- CopyIssue: a handle beyond the tensor table; a bound path without a binding, and with one in flight. -/
theorem wit_copyTraps :
    (let s := copyWords 3 5 0 copier;
      Runs (.cpyin 16 0) s ∧ descOk .cpyin (copyWs s) (curGrid s).pkt.pod = true ∧ (readTensor (curBlk s).ctx 3 s).2.1 = .bad ∧ mayTrap s) ∧
    (let s := withQ [(17, BitVec.ofNat 32 (5 * 2 ^ 26 + 8 * 2 ^ 20))] (copyWords 1 5 0 copier);
      let op : CopyOp := { id := 3, kind := .hbind, bid := 1, wk := 1, core := 0, queue := 3, cnt := 0 };
      Runs (.cpyin 16 0) s ∧ descOk .cpyin (copyWs s) (curGrid s).pkt.pod = true ∧ (copyDesc (copyWs s)).path = 8 ∧
      bindingInFlight s s.iss.bid = false ∧ boundPort s s.iss.bid 8 = false ∧ (tensorRead s 1).isSome = true ∧ mayTrap s ∧
      (let u := (fun x : State => { x with copies := [op] }) s; Runs (.cpyin 16 0) u ∧ active u 0 ≠ 0 ∧ bindingInFlight u u.iss.bid = true) ∧
      (let u := (fun x : State => { x with fabs := [(0, { blocks := [1], image := { cells := [], ports := 0x100, routes := [(0x48, 0x80)] } })] })
        (blkWith (fun b => { b with bind := some 0 }) s);
        bindingInFlight u u.iss.bid = false ∧ boundPort u u.iss.bid 8 = true)) := by
  unfold Runs mayTrap; decide +kernel

/-- CopyIssue: no lane is active, with a counter that is full. -/
theorem wit_copyIdle : let s := warpWith (fun w => { w with cnt := [(0, 63)], cntSeen := [(0, 63)] }) smallNone
    (∀ i ∈ [Instr.cpyin 16 0, .cpyout 16 0, .cpyx 16 0, .cpyp 16 0, .hbind 16 0 0], Runs i s) ∧ active s 0 = 0 ∧
      63 ≤ lget 0 (counterOf 0 s) (curWarp s).cntSeen := by
  unfold Runs; decide +kernel

/-- A tensor of n L8 elements. -/
def vec (n base : Nat) : Tensor := { base := base, dims := [n, 1, 1, 1, 1], strs := [1, 0, 0, 0, 0] }

/-- A copy under way at the head of queue 0. -/
def copying (k : CopyKind) (w0 tile : Nat) (ms : List Nat) : State :=
  let op : CopyOp := { id := 3, kind := k, bid := 1, wk := 1, core := 0, queue := 0, cnt := 0, started := true }
  { copier with copies := [{ op with src := vec (if k = .cpyp then 2 else 16) 0x20200, dst := vec (if k = .cpyp then 2 else 16) 0x20300, members := ms, desc := copyWs (copyWords w0 tile 0 copier) }] }

/-- CopyResults: TLBs that hold nothing hold nothing stale. -/
theorem wit_noStale (ctx : Nat) (s : State) (h : s.tlb = []) : noStale ctx s := by
  intro e he
  rw [h] at he
  cases he

/-- CopyResults: CPYIN. -/
theorem wit_cpyinRuns : let s := copying .cpyin 1 5 [1]
    (copyHead s 0 0).isSome = true ∧ undamaged s ∧ s.tlb = [] ∧ ∀ op ∈ copyHead s 0 0, copyRuns s op ∧ op.members = [op.bid] ∧
      (let d := copyDesc op.desc;
        let g := geoAt (blkOf s op.bid) d.tile;
        d.gat = false ∧ d.path < 7 ∧ d.rnd < 5 ∧ geometryOk (blkOf s op.bid) g = true ∧ tileBits g.fmt ≠ 4 ∧
        (∀ n ∈ (blkOf s op.bid).alloc, n ≤ 2 ^ 20) ∧ fmtBits op.src.fmt = tileBits g.fmt ∧
        ∀ i < g.rows, ∀ j < g.cols, insideTensor op.src [j, i, 0, 0, 0] = true ∧ (elemOf s op.bid op.src [j, i, 0, 0, 0]).isSome = true) := by
  unfold undamaged copyRuns; decide +kernel

/-- CopyResults: CPYOUT. -/
theorem wit_cpyoutRuns : let s := copying .cpyout 1 4 []
    (copyHead s 0 0).isSome = true ∧ undamaged s ∧ s.tlb = [] ∧ ∀ op ∈ copyHead s 0 0, copyRuns s op ∧
      (let d := copyDesc op.desc;
        let g := geoAt (blkOf s op.bid) d.tile;
        d.gat = false ∧ d.path < 7 ∧ d.rnd < 5 ∧ 8 ≤ fmtBits op.dst.fmt ∧
        (let es := ((List.range (g.rows * g.cols)).map fun n => ([d.org.getD 0 0 + n % g.cols, d.org.getD 1 0 + n / g.cols, d.org.getD 2 0,
            d.org.getD 3 0, d.org.getD 4 0], pathCode d (tileFmt g.fmt) op.dst.fmt (elemAt (blkOf s op.bid) g (n / g.cols) (n % g.cols)))).filter
              fun e => insideTensor op.dst e.1;
          es.length = 16 ∧ (bytesTo s op.bid op.dst es).isSome = true)) := by
  unfold undamaged copyRuns; decide +kernel

/-- CopyResults: CPYP. -/
theorem wit_cpypRuns : let s := copying .cpyp 1 0 []
    (copyHead s 0 0).isSome = true ∧ undamaged s ∧ s.tlb = [] ∧ ∀ op ∈ copyHead s 0 0, copyRuns s op ∧
      (let d := copyDesc op.desc;
        d.path < 7 ∧ d.rnd < 5 ∧ 8 ≤ fmtBits op.dst.fmt ∧ op.src.dims.length = 5 ∧ op.src.dims = op.dst.dims ∧
        (let es := (tensorPlaces op.src).mapM fun p => p.bind fun i => (elemOf s op.bid op.src i).map fun v => (i, pathCode d op.src.fmt op.dst.fmt v);
          es.isSome = true ∧ ∀ l ∈ es, (bytesTo s op.bid op.dst l).isSome = true)) := by
  unfold undamaged copyRuns; decide +kernel

/-- CopyResults: CPYX. -/
theorem wit_cpyxRuns : let s := copying .cpyx 5 4 [1]
    (copyHead s 0 0).isSome = true ∧ ∀ op ∈ copyHead s 0 0, copyRuns s op ∧ op.members = [1] ∧
      (let d := copyDesc op.desc;
        let g := geoAt (blkOf s op.bid) d.tile;
        let h := geoAt (blkOf s 1) (d.w0 % 64);
        h.rows = g.rows ∧ h.cols = g.cols ∧ h.fmt = g.fmt ∧ geometryOk (blkOf s 1) h = true ∧ tileBits g.fmt ≠ 4 ∧ d.w0 % 64 ≠ d.tile) := by
  unfold copyRuns; decide +kernel

/-- A graph of one cell that passes its input, entered at port 8. -/
def passGraph : Graph := { cells := [(0, { op := 0, fin := 0, fout := 0, rnd := 0, sat := false, k := 0, p := 0 })], ports := 0x100, routes := [(0x48, 0), (0, 0x80)] }

/-- A bound copy whose cell holds a beat, or has a token to pass on. -/
def firing (inq : List Beat) (st : OpState) : State :=
  let op : CopyOp := { id := 3, kind := .cpyin, bid := 1, wk := 1, core := 0, queue := 0, cnt := 0, started := true, fab := some 0, fed := true }
  let op := { op with ops := [(0, st)], inq := [(0, inq)], members := [1], src := vec 16 0x20200, desc := copyWs (copyWords 1 5 0 copier) }
  { copier with copies := [op], fabs := [(0, { blocks := [1], image := passGraph })] }

/-- HullerUnit: copies that may start, with and without a fault answered. -/
theorem wit_copyStart : let s := fun (k : CopyKind) => (fun x : State => { x with copies := x.copies.map fun c => { c with started := false } }) (copying k 1 5 [1])
    ∀ k ∈ [CopyKind.cpyin, .cpyout, .cpyx, .cpyp, .hbind], (copyHead (s k) 0 0).isSome = true ∧ ∀ op ∈ copyHead (s k) 0 0, op.started = false ∧ op.auto = false ∧
      op.kind = k ∧ faultWaits (s k) op.wait = false ∧ (copyDesc op.desc).path < 8 ∧ hbindMayStart (s .hbind) op = true ∧
      (lfind op.bid (s k).blocks).isSome = true := by
  decide +kernel

/-- HullerUnit: a cell takes a beat, and passes one on. -/
theorem wit_fire : (let s := firing [{ toks := [{ bits := 64 }] }] {};
      (∀ op ∈ s.copies.find? (fun c => c.id == 3), op.started = true ∧ op.fab.isSome = true ∧ op.fed = true ∧ faultWaits s op.wait = false ∧
        (lfind 0 (graphOf s op).cells).isSome = true ∧ (lfind 0 op.ops).isSome = true ∧ nextFire s (graphOf s op) op 0 = .take false ∧
        turnOf s (op.core / 12) 0 = op.fab.map (· % 4) ∧ (∀ x ∈ lfind 0 op.ops, x.fin = false ∧ x.o0 = [] ∧ x.o1 = []) ∧
        ∀ c ∈ lfind 0 (graphOf s op).cells, c.op = 0) ∧ (s.copies.find? fun c => c.id == 3).isSome = true) ∧
    (let s := firing [] { q0 := [{ bits := 64 }] };
      (∀ op ∈ s.copies.find? (fun c => c.id == 3), nextFire s (graphOf s op) op 0 = .pass ∧ routeTo (graphOf s op) 0 = some 0x80 ∧ op.err = none ∧
        turnOf s (op.core / 12) 0 = op.fab.map (· % 4) ∧ (∀ c ∈ lfind 0 (graphOf s op).cells, usesSecond c = false) ∧
        ∀ w ∈ exitWidths s op, 64 % w = 0) ∧ (s.copies.find? fun c => c.id == 3).isSome = true) := by
  decide +kernel

/-- A binding under way on a machine whose object holds one graph image, at 0x10200. -/
def binding (graph : Option Nat) (fab : SMap Fab) : State :=
  let op : CopyOp := { id := 3, kind := .hbind, bid := 1, wk := 1, core := 0, queue := 3, cnt := 0, started := true }
  let image := leBytes 8 0x0000000100014847 ++ leBytes 8 2 ++ leBytes 8 0x100 ++ leBytes 4 0xA6F83A69
  { copier with
    copies := [{ op with graph := graph }]
    fabs := fab
    grids := lmap (fun _ (g : Grid) => { g with obj := { g.obj with graphs := 0x100, ngraphs := 1 } }) copier.grids
    mem := Memory.write (Memory.write (Memory.write copier.mem 0x10100 (leBytes 8 (328 * 2 ^ 32 + 0x200))) 0x10200 image) 0x10340
      (leBytes 4 0x48000000 ++ leBytes 4 0x00800000) }

/-- HullerUnit: HBIND of none, of a graph another block holds, of a graph to load, and of an index beyond the table. -/
theorem wit_hbind :
    (∀ s ∈ [binding none [], binding (some 0) [(1, { blocks := [2], image := passGraph })], binding (some 1) []], (copyHead s 0 3).isSome = true ∧
      ∀ op ∈ copyHead s 0 3, op.kind = .hbind ∧ op.auto = false ∧ op.started = true ∧ op.err = none ∧ faultWaits s op.wait = false ∧
        (lfind op.bid s.blocks).isSome = true ∧ (lfind op.wk s.warps).isSome = true ∧ (warpOf s op.wk).bid = op.bid ∧ blockEnded s op.bid = false ∧
        (gridOf s (blkOf s op.bid).gid).obj.ngraphs = 1) ∧
    (sameImage (binding (some 0) [(1, { blocks := [2], image := passGraph })]) 1 0).isSome = true ∧
    sameImage (binding (some 0) []) 1 0 = none ∧ freeFab (binding (some 0) []) 0 = some 0 := by
  decide +kernel

/-- The image's bytes. -/
def imageBytes : List Nat :=
  [0x47, 0x48, 1, 0, 1, 0, 0, 0, 2, 0, 0, 0, 0, 0, 0, 0, 0, 1, 0, 0, 0, 0, 0, 0, 0x69, 0x3A, 0xF8, 0xA6] ++ List.replicate 294 0 ++
    [0, 0x48, 0, 0, 0x80, 0]

/-- HullerUnit: the bytes are an image. -/
theorem wit_imageParse : parseGraph imageBytes = some passGraph := by
  set_option maxRecDepth 100000 in decide +kernel

/-- HullerUnit: the image that HBIND loads. -/
theorem wit_image : undamaged (binding (some 0) []) ∧
    (match (readImage 1 0 (binding (some 0) [])).2 with | .ok (some bs, false) => bs | _ => []) = imageBytes := by
  unfold undamaged; set_option maxRecDepth 100000 in decide +kernel

/-- The small machine with q4, q5 naming a packet and q6, q7 a record, and a fork slot held by another task. -/
def forking (f : Fork) : State := withQ [(4, 0x20000), (5, 0), (6, 0x20100), (7, 0), (8, 0x00300005)] { copier with forks := [(5, f)] }

/-- The fork slot 5 at generation 3. -/
def slot5 : Fork := { gen := 3, state := 2, parent := 1, child := 2 }

/-- Forks: TFORK, without a request and with one answered, refused or open. -/
theorem wit_tfork : let s := forking slot5
    Runs (.tfork 1 4 6) s ∧ active s 0 ≠ 0 ∧ mayTrap s ∧ (handlerOf s s.iss.bid).isSome = true ∧ forkReqOf s s.iss.wk s.iss.pc = none ∧
      pairHigh s 4 = false ∧ pairHigh s 6 = false ∧ pairAddr s 4 % 256 = 0 ∧ pairAddr s 6 % 64 = 0 ∧ (curWarp s).rsc = 0 ∧ (curWarp s).loads = [] ∧
      ∀ r ∈ [({ wk := 1, pc := 4, packet := 0, record := 0, order := 1 } : ForkReq), { wk := 1, pc := 4, packet := 0, record := 0, order := 1, done := some 5 },
        { wk := 1, pc := 4, packet := 0, record := 0, order := 1, refuse := some (0x0F, 0) }],
        forkReqOf ((fun x : State => { x with forkReqs := [r] }) s) s.iss.wk s.iss.pc = some r := by
  unfold Runs mayTrap; decide +kernel

/-- Forks: TPOLL and TJOIN of a fork that has completed, of one already claimed, and of a stale handle. -/
theorem wit_tjoin : (∀ f ∈ [slot5, { slot5 with claim := some (2, 0, 1) }, { slot5 with state := 0 }, { slot5 with gen := 4 }],
      Runs (.tpoll 1 8) (forking f) ∧ Runs (.tjoin 8 0) (forking f)) ∧ (handleFork (readQ (forking slot5) 8) (forking slot5)).isSome = true ∧
    (let s := forking slot5;
      active s 0 ≠ 0 ∧ mayTrap s ∧ lget 0 (counterOf 0 s) (curWarp s).cntSeen < 63 ∧ (curWarp s).rsc = 0 ∧ (curWarp s).loads = [] ∧
      forksPending s (curBlk s).ctx = false) ∧
    handleFork (readQ (forking { slot5 with gen := 4 }) 8) (forking { slot5 with gen := 4 }) = none := by
  unfold Runs mayTrap; decide +kernel

/-- A TFORK that waits for its fork point: the warp is held at its instruction, and a packet stands at 0x20000. -/
def atForkPoint (depth : Nat) : State :=
  let s := forking slot5
  { s with
    iss := {}
    grids := lmap (fun _ (g : Grid) => { g with depth := depth }) s.grids
    warps := lmap (fun _ (w : Warp) => { w with lanes := lmap (fun _ (x : Lane) => { x with pc := 4, hold := .none }) w.lanes }) s.warps
    forkReqs := [{ wk := 1, pc := 4, packet := 0x20000, record := 0, order := 1 }] }

/-- Forks: the fork point, with room and at depth 8. -/
theorem wit_forkPoint : ∀ dep ∈ [0, 8], let s := atForkPoint dep
    (s.forkReqs.find? fun r => r.wk == 1 && r.done.isNone && r.refuse.isNone).isSome = true ∧ freeFork s = some 1 ∧
      ∀ r ∈ s.forkReqs, standsAt s r = true ∧ nextReq s r = true ∧ writesDone s 0 (gridOf s (curBlk s).gid).fork = true ∧
        (forkRegions 0 s).2.toOption.isSome = true ∧ (forkAddrs 0 [(r.packet, false)] (forkRegions 0 s).1).2.toOption.isSome = true ∧
        (devReadVirt 0 r.packet false 2 256 (forkAddrs 0 [(r.packet, false)] (forkRegions 0 s).1).1).2.toOption.isSome = true ∧
        (gridOf s (blkOf s (warpOf s r.wk).bid).gid).depth = dep := by
  decide +kernel

/-- The copying machine with a fork slot 5 of revision 0 whose region is page 0x20, a stack of revision space with one page,
and pages of the revisions. -/
def revising (f : Fork) (revs : SMap RevPage) (stack : Nat) : State :=
  let regs : List Region := [{ type := 3, width := 2, cls := 0, pages := 1, vpn := 0x20 }]
  { copier with
    iss := {}
    forks := [(5, { f with regions := regs, anc := [(0x20, 0x20000)] })]
    revmap := revs
    ctxs := lmod 0 (fun (c : Ctx) => { c with stackBase := [(0, 0x30000)], stackCount := lset 0 0 stack [] }) copier.ctxs
    mem := Memory.write copier.mem 0x30000 (leBytes 8 0x40000) }

/-- Revisions: a first write with a page of revision space and without one, and on a page that is the revision's own by then. -/
theorem wit_copyOnWrite : (∀ n ∈ [0, 1],
    let s := (fun x : State => { x with faults := [{ key := 7, ctx := 0, rev := 5, vpn := 0x20, kind := 9 }] }) (revising { state := 1, parent := 1 } [] n)
    let s1 := (governing 0 5 s).1
    (∀ f ∈ s.faults.find? fun f => f.ctx == 0 && f.rev == 5 && f.vpn == 0x20 && (f.kind == 9 || f.kind == 10), f.kind = 9) ∧
      (s.faults.find? fun f => f.ctx == 0 && f.rev == 5 && f.vpn == 0x20 && (f.kind == 9 || f.kind == 10)).isSome = true ∧
      (match (governing 0 5 s).2 with | .ok rs => (regionFor rs 0x20).any fun g => g.cls == 0 | _ => false) = true ∧
      ownsPage 0 5 0x20 s1 = false ∧ viewPage 0 5 0x20 s1 = some 0x20000 ∧ lget 0 0 (ctxOf s1 0).stackCount = n ∧ undamaged s ∧
      (n = 1 → leNat (physRead s1 (lget 0 0 (ctxOf s1 0).stackBase) 8) = 0x40000 ∧ pageUsable s1 0x40000 = true) ∧
      ∀ i < 128, poisoned s (0x20000 / 32 + i) = false ∧ paOnline s (0x40000 + 32 * i) = true) ∧
    (let s := (fun x : State => { x with faults := [{ key := 7, ctx := 0, rev := 5, vpn := 0x20, kind := 10 }] })
        (revising { state := 1, parent := 1 } [(5 * 2 ^ 44 + 0x20, { pa := 0x40000, own := true })] 0);
      ownsPage 0 5 0x20 (governing 0 5 s).1 = true ∧ (s.faults.find? fun f => f.ctx == 0 && f.rev == 5 && f.vpn == 0x20 && (f.kind == 9 || f.kind == 10)).isSome = true) := by
  unfold undamaged; decide +kernel

/-- Revisions: the host pushes a page; operands of a merge that both sides changed. -/
theorem wit_stackPush : hostReady copier = true ∧ (63 < 64 ∧ 2 < 3) ∧
    ∀ w ∈ [0, 1, 2], 0xFF < 2 ^ (8 * 2 ^ w) ∧ 1 < 2 ^ (8 * 2 ^ w) ∧ 0 < 2 ^ (8 * 2 ^ w) := by
  decide +kernel

/-- Revisions: a join of a child that copied nothing, one page, and a page that the parent copied too. -/
theorem wit_join : let f : Fork := { state := 2, parent := 1, child := 2, claim := some (1, 0, 1) }
    (∀ s ∈ [revising f [] 0, revising f [(5 * 2 ^ 44 + 0x20, { pa := 0x40000, own := true })] 0,
        revising { f with parentCopied := [0x20] } [(0x20, { pa := 0x50000, own := true }), (5 * 2 ^ 44 + 0x20, { pa := 0x40000, own := true })] 0],
      (lfind 5 s.forks).isSome = true ∧ undamaged s ∧ ∀ g ∈ lfind 5 s.forks, joinReady s g = true ∧ g.record = 0 ∧ g.status = 0 ∧ g.parentRev = 0 ∧ ∀ x ∈ g.claim, x.2.1 < 12) ∧
    (let s := revising f [] 0;
      ∀ g ∈ lfind 5 s.forks, childCopied 5 g s = [] ∧ g.parentCopied = []) ∧
    (let s := revising f [(5 * 2 ^ 44 + 0x20, { pa := 0x40000, own := true })] 0;
      ∀ g ∈ lfind 5 s.forks, childCopied 5 g s = [(0x20, 0x40000)] ∧ g.parentCopied = []) ∧
    (let s := revising { f with parentCopied := [0x20] } [(0x20, { pa := 0x50000, own := true }), (5 * 2 ^ 44 + 0x20, { pa := 0x40000, own := true })] 0;
      ∀ g ∈ lfind 5 s.forks, childCopied 5 g s = [(0x20, 0x40000)] ∧ g.parentCopied = [0x20] ∧ (regionFor g.regions 0x20).isSome = true ∧
        viewPage 0 0 0x20 s = some 0x50000 ∧ ancPage g 0x20 s = some 0x20000 ∧ s.resvs = [] ∧ (∀ i < 128, paOnline s (0x50000 + 32 * i) = true) ∧
        frozenFor 5 g 0x20 0x50000 s = false ∧ (∀ r ∈ regionFor g.regions 0x20, r.width ≤ 2) ∧
        (∀ i < 128, poisoned s (0x50000 / 32 + i) = false ∧ poisoned s (0x40000 / 32 + i) = false ∧ poisoned s (0x20000 / 32 + i) = false) ∧
        ∀ c < 4, lget 0 c (ctxOf s 0).stackBase + 8 * lget 0 c (ctxOf s 0).stackCount + 16 ≤ 0x50000) := by
  unfold undamaged; decide +kernel

/-- The grid of the copying machine, all of whose blocks have exited. -/
def gridDone (record : Nat) (fs : SMap Fork) : State :=
  { copier with
    grids := lmap (fun _ (g : Grid) => { g with done := true, pkt := { g.pkt with record := record } }) copier.grids
    forks := fs }

/-- Revisions: a grid without children, with a record and without, and a grid with one child. -/
theorem wit_completion : (∀ s ∈ [gridDone 0 [], gridDone 0x20100 []], (lfind 1 s.grids).isSome = true ∧ children s 1 = [] ∧ undamaged s ∧
      ∀ g ∈ lfind 1 s.grids, g.final = none ∧ g.done = true ∧ g.pkt.signal = 0 ∧ (completionWrites g.ctx g.pkt g.queue 0 0 s).2 = true) ∧
    (match (completionDest 0 0x20100 (gridDone 0x20100 [])).2 with | .key k => some k | _ => none) = some 0x20100 ∧
    children (gridDone 0 [(5, { state := 1, parent := 1 })]) 1 ≠ [] := by
  unfold undamaged; decide +kernel

/-- The small machine as an Assured block with a checkpoint and a journal of a register and of bytes of sb, whose lead and twin have
an action of a kind to compare. -/
def comparing (k : CmpKind) (twin : List Word) : State :=
  let s := warpWith (fun w => { w with
      cmps := [{ id := 5, iss := small.iss, instr := .st 4 0 3 4 0, kind := k, act := 1, ops := [2, 3], twin := some (1, twin), puts := [(0, 4, [7])] }] }) small
  let s := blkWith (fun b => { b with
      cls := 2
      journal := [(2 * (1 * 128 + 4), List.replicate 32 9), (2 ^ 60 + 1, List.replicate 32 8)] }) s
  { s with
    iss := {}
    ckpts := [(1, { blk := blkOf s 1, warps := s.warps })] }

/-- AssuredBlocks: the twin agrees, in each kind of action, and differs. -/
theorem wit_twin : (∀ k ∈ [CmpKind.held, .read, .stl, .flight], let s := comparing k [2, 3]
      (lfind 1 s.warps).isSome = true ∧ ((warpOf s 1).cmps.find? fun c => c.twin.isSome && !c.agreed).isSome = true ∧
      ∀ c ∈ (warpOf s 1).cmps, c.twin = some (c.act, c.ops) ∧ c.kind = k ∧ (lfind c.iss.bid s.blocks).isSome = true ∧
        ∀ o ∈ (warpOf s 1).loads, o.await ≠ c.id) ∧
    (let s := comparing .held [2, 4];
      let b := blkOf s (warpOf s 1).bid;
      (∀ c ∈ (warpOf s 1).cmps, c.twin.isSome = true ∧ c.agreed = false ∧ c.twin ≠ some (c.act, c.ops)) ∧
      b.exposed = false ∧ b.badLog = [] ∧ b.tries < 2 ∧ 2 ≤ (ctxOf s b.ctx).ebud ∧ (lfind (warpOf s 1).bid s.blocks).isSome = true ∧
      keysRise b.journal = true ∧
      (∀ e ∈ b.journal, e.2.length = 32 ∧ (2 ^ 60 ≤ e.1 → e.1 % 2 ^ 20 < 8192) ∧ (e.1 < 2 ^ 60 → (lfind (e.1 / 256) s.warps).isSome = true)) ∧
      (lfind (warpOf s 1).bid s.ckpts).isSome = true ∧ ∀ c ∈ lfind (warpOf s 1).bid s.ckpts, (c.warps.map (fun e => e.1)).Nodup) := by
  decide +kernel

/-- AssuredBlocks: every warp stands at a barrier. -/
theorem wit_checkpoint :
    let u := warpWith (fun w => { w with lanes := lmap (fun _ (x : Lane) => { x with hold := .bar 0 }) w.lanes }) small
    let s := blkWith (fun b => { b with cls := 2, bars := [(0, { arrived := 1, first := some 0 })] }) u
    (lfind 1 s.blocks).isSome = true ∧ (blkOf s 1).cls = 2 ∧ (blkOf s 1).stopAt = none ∧ checkpointReady s 1 = true ∧
      keysRise s.warps = true ∧ (blkOf s 1).badLines = [] ∧ frozenPages s 1 = [] ∧ fullBarriers s 1 false 16 ≠ [] := by
  decide +kernel

/-- The small machine stopped, with its lanes held by a load that faults, or all exited. -/
def stopping (stopped exited : Bool) : State :=
  let o : LoadOp := { id := 7, dst := 4, nreg := 1, width := 4, lanes := 1, accs := [{ lane := 0, off := 0, va := 0x30000, size := 4, wait := 5 }], seg := 3 }
  let s := blkWith (fun b => { b with stopAt := if exited then none else some 0 }) small
  let s := warpWith (fun w => { w with stopped := stopped, loads := if exited then [] else [o], idle := 1200000000 }) s
  { s with
    iss := {}
    clock := 120000
    faults := [{ key := 5, ctx := 0, rev := 0, vpn := 0x30, kind := 0 }]
    warps := lmap (fun _ (w : Warp) => { w with lanes := lmap (fun _ (x : Lane) => { x with hold := .load 7, exited := exited }) w.lanes }) s.warps }

/-- StoppingAndEnding: a warp that may stop, one whose 100 µs are over, a block to save, and one whose warps have ended. -/
theorem wit_stopping : (let s := stopping false false;
      (lfind 1 s.warps).isSome = true ∧ (blkOf s 1).stopAt = some 0 ∧ ((warpOf s 1).lanes.all fun e => laneStopped s 1 e.2) = true ∧
      (warpOf s 1).loads.all (loadFaulting s) = true ∧ 0 + 120000 ≤ s.clock ∧ (warpOf s 1).stopped = false ∧ (blkOf s 1).moveStop = false) ∧
    (let s := warpWith (fun w => { w with loads := [], lanes := lmap (fun _ (x : Lane) => { x with hold := .bar 1 }) w.lanes }) (stopping false false);
      (blkOf s 1).stopAt = some 0 ∧ 0 + 120000 ≤ s.clock ∧ (warpOf s 1).forced = false ∧
        ((warpOf s 1).lanes.all fun e => laneStopped s 1 e.2) = true) ∧
    (let s := warpWith (fun w => { w with loads := [], lanes := lmap (fun _ (x : Lane) => { x with hold := .none }) w.lanes }) (stopping false false);
      ((warpOf s 1).lanes.all fun e => laneStopped s 1 e.2) = false) ∧
    (let s := stopping true false;
      (blkOf s 1).podTag = 0xFFFFF ∧ (blkOf s 1).stopAt.isSome = true ∧ saveReady s 1 = true ∧ (blkOf s 1).cls ≠ 2) ∧
    (let s := stopping false true;
      endReady s 1 = true ∧ (blkOf s 1).cls ≠ 2 ∧ (lfind (blkOf s 1).gid s.grids).isSome = true) := by
  decide +kernel

/-- StoppingAndEnding: the watchdogs at the ends of their times. -/
theorem wit_watchdogs : (let s := stopping false false;
      ((warpOf s 1).lanes.any fun e => !e.2.exited) = true ∧ (gridOf s (blkOf s 1).gid).pkt.hangtime = 0 ∧ 1000 * 1200000 ≤ (warpOf s 1).idle) ∧
    (let b : Barrier := { arrived := 1, timer := 120000000, first := some 0 };
      let s := blkWith (fun x => { x with bars := [(15, b)], pbars := [(3, b)] }) small;
      (lget {} 15 (blkOf s 1).bars).first.isSome = true ∧ (lget {} 15 (blkOf s 1).bars).arrived ≠ 0 ∧ (gridOf s (blkOf s 1).gid).pkt.bartime = 0 ∧
      100000 * 1200 ≤ (lget {} 15 (blkOf s 1).bars).timer ∧ (warpOf s ((blkOf s 1).wks.getD 0 0)).bid = 1 ∧ (blkOf s 1).podTag = 0xFFFFF ∧
      (lget {} 3 (blkOf s 1).pbars).first.isSome = true ∧ 100000 * 1200 ≤ (lget {} 3 (blkOf s 1).pbars).timer) := by
  decide +kernel

/-- FencesAndCaches: the line of a CCTL, in local memory; an offset beyond its segment, and a segment that may not be read. -/
theorem wit_cctl : (∀ p ∈ [(0 : BitVec 3), 1, 2, 3, 4], Runs (.cctl 0 3 p) copier) ∧ undamaged copier ∧ mayTrap copier ∧
    (∃ a ∈ ordinaryAccs copier 3 0 1, (cctlLine copier a).2 = some 0x20000) ∧ isLocal (0x20000 + 96) = true ∧
    (∀ i < 4, poisoned copier (0x20000 / 32 + i) = false) ∧
    (let s := withW [(0, 0x1000)] small;
      ∃ a ∈ ordinaryAccs s 3 0 1, offSegment (segOf s 3) 3 a = true ∧ ∀ b ∈ ordinaryAccs s 3 0 1, ¬ b.lane < a.lane) ∧
    (let s := withSeg { limit := 0xFFF, base := 0x20000, valid := true } small;
      Runs (.cctl 0 3 4) s ∧ (∀ b ∈ ordinaryAccs s 3 0 1, offSegment (segOf s 3) 3 b = false) ∧ (segOf s 3).r = false ∧
        ∃ a ∈ ordinaryAccs s 3 0 1, ∀ b ∈ ordinaryAccs s 3 0 1, a.lane ≤ b.lane) := by
  unfold Runs undamaged mayTrap; decide +kernel

/-- A device that runs nothing, with one queue that holds a packet at 0x20800, whose object is at 0x20640 (R288, R312, R315). -/
def queued (version : Nat) : State :=
  let packet := leBytes 4 version ++ leBytes 4 1 ++ leBytes 4 0 ++ leBytes 4 32 ++ leBytes 4 0x01000000 ++ List.replicate 12 0 ++ leBytes 4 1 ++
    leBytes 4 0 ++ leBytes 4 0xFFFFFFFF ++ leBytes 4 0xFFFFFFFF ++ leBytes 8 0x20400
  let object := leBytes 4 0x4A424F56 ++ leBytes 4 1 ++ leBytes 4 72 ++ leBytes 4 0 ++ leBytes 4 64 ++ leBytes 4 8
  { copier with
    iss := {}
    grids := []
    blocks := []
    warps := []
    queues := [(0, { base := 0x20800, control := 0x80000000, wridx := 1, ready := true })]
    ctxs := lmod 0 (fun (c : Ctx) => { c with objbase := 0x20600, objcount := 2 }) copier.ctxs
    mem := Memory.write (Memory.write (Memory.write (Memory.write copier.mem 0x20610 (leBytes 8 0x20640 ++ leBytes 8 0x8000)) 0x20640 object) 0x20680
      (wordBytes (slotHeader 0x01080818))) 0x20800 packet }

/-- Dispatch: a doorbell, a disabled queue, a head to poll, and a packet of a wrong version. -/
theorem wit_reject : let s := queued 2
    hostReady s = true ∧ (127 < 128) ∧ (lget ({} : Queue) 127 s.queues).enabled = false ∧ s.pw.step = 3 ∧ s.queues.length = 1 ∧
      (s.forks.all fun f => f.2.pending.isNone) = true ∧ ∀ e ∈ s.queues, e.2.hasHead = true ∧
        (match (checkPacket e.2.ctx (headPacket e.2 s) s).2 with | .reject n => n == 1 | _ => false) = true ∧
        (completionWrites e.2.ctx (headPacket e.2 s) e.1 2 1 (checkPacket e.2.ctx (headPacket e.2 s) s).1).2 = true := by
  decide +kernel

/-- Dispatch: a packet that passes its checks and finds a place. -/
theorem wit_dispatch : let s := queued 1
    ∀ e ∈ s.queues, (let p := headPacket e.2 s;
      (match (checkPacket e.2.ctx p s).2 with | .pass _ _ => true | _ => false) = true ∧ p.nsig = 0 ∧ p.deadline = 0 ∧ e.2.act = none ∧
      p.graph = 0xFFFFFFFF ∧ s.copies = [] ∧ s.grids = [] ∧ s.husks = [] ∧ ctxBlocked s e.2.ctx = false ∧ movingObject s e.2.ctx p.object = false ∧
      s.blocks = [] ∧ s.warps = [] ∧ (podSpot (checkPacket e.2.ctx p s).1 [] (needOf p) p.pod []).isSome = true ∧ p.pod = 1) := by
  set_option maxRecDepth 100000 in decide +kernel

/-- HostRegisters. -/
theorem wit_host : hostReady small = true ∧ hostReady State.reset = false ∧ 63 < 64 ∧ (1#64).getLsbD 2 = false ∧ (1#64).getLsbD 0 = true ∧
    (4#64).getLsbD 2 = true ∧ (ctxOf small 63).fheld = [] ∧ (ctxOf small 63).eheld = [] ∧ (ctxOf small 0).suspend = false ∧ undamaged small ∧
    (23 < 24 ∧ 4 < 5) ∧ small.rw.dirtytab = 0 ∧
    (let s := (fun x : State => { x with ctxs := [(0, { tlbinv := true })], rw := { x.rw with l2wb := true } }) small;
      (ctxOf s 0).tlbinv = true ∧ s.rw.l2wb = true ∧ undamaged s ∧ s.rw.dirtytab = 0 ∧ keysRise s.l2 = true ∧ keysRise s.blocks = true ∧
        (∀ e ∈ s.l2, isLocal (32 * e.1) = true) ∧ s.poison = [] ∧ s.l2 = [] ∧
        0x1000 + max 8 1 ≤ 2 ^ (30 + s.rw.winsize) ∧ 2 ^ (30 + s.rw.winsize) < 2 ^ 38 + max 8 1) := by
  unfold undamaged; decide +kernel

/-- MailboxCommands: a partition in each state; values at the bounds. -/
theorem wit_mailbox : hostReady small = true ∧ small.rw.running = none ∧ small.pw.recovery = false ∧ (lget ({} : Part) 0 small.parts).state = 2 ∧
    (lget ({} : Part) 95 small.parts).state = 0 ∧ (lget ({} : Part) 95 small.parts).formatted = false ∧ localSize % 4096 = 0 ∧ localSize - 4096 < localSize ∧
    small.retired.length < 4096 ∧ (63#64).toNat < 64 ∧ (0xFFFFFFFF#64).toNat < 2 ^ 32 ∧ (lget ({} : Chan) 23 small.chans).hist.length ≤ 64 ∧
    (let s := (fun x : State => { x with parts := lset {} 95 { formatted := true } x.parts }) small;
      (lget ({} : Part) 95 s.parts).state = 0 ∧ (lget ({} : Part) 95 s.parts).formatted = true) ∧
    (let s := (fun x : State => { x with ctxs := [(0, { ebud := 5, exhausted := true })], queues := [(127, { reported := true })] }) small;
      (ctxOf s 0).exhausted = true ∧ (ctxOf s 0).ebud ≠ 0 ∧ (lget ({} : Queue) 127 s.queues).reported = true) ∧
    (match (readObject 0 1 (queued 1)).2 with | .bad => false | _ => true) = true := by
  decide +kernel

/-- MailboxCommands: commands that run on: PARTOFF and PARTFMT of partition 0, CODEMOVE of object 1 to 0x20C00. -/
theorem wit_running : (let s := (fun x : State => { x with rw := { x.rw with running := some (0x40, [0]) } }) (queued 1);
      partBusy s 0 = false) ∧
    (let s := (fun x : State => { x with rw := { x.rw with running := some (0x54, [0, 1, 0x20C00]) } }) (queued 1);
      (s.warps.all fun e => !(objectBlocks s 0 1).contains e.2.bid || warpSettled e.2) = true ∧
      (match readObject 0 1 s with
        | (x, .ok o) => (match devGet 0 (o.base + 8) 4 x with
          | (y, .bytes b) => leNat b == 72 && !imageLocked y 0 o.base 72 && (match devGet 0 o.base 72 y with
            | (z, .bytes _) => (match (writeKeys 0 (((ctxOf z 0).objbase + 16) :: rangePages 0x20C00 72) z).2 with | .ok _ => true | _ => false)
            | _ => false)
          | _ => false)
        | _ => false) = true) := by
  decide +kernel

/-- MailboxCommands, PowerAndReset: an image passes its checks or fails them; FWLOAD in recovery. -/
theorem wit_image_either (f : FwImage) : imageOk f State.reset = true ∨ imageOk f State.reset = false := by
  cases imageOk f State.reset <;> simp

/-- MailboxCommands, PowerAndReset: the device in each stage of its bring-up. -/
theorem wit_power : powered State.reset = true ∧ State.reset.pw.step = 0 ∧ State.reset.pw.rails = true ∧
    (∀ n ∈ [1, 2], powered ((fun x : State => { x with pw := { x.pw with step := n } }) State.reset) = true) ∧
    (let s := (fun x : State => { x with pw := { x.pw with perst := false, supply := false } }) State.reset;
      s.pw.perst = false ∧ s.pw.supply = false) ∧
    (let s := (fun x : State => { x with pw := { x.pw with recovery := true, step := 3 } }) State.reset;
      hostReady s = true ∧ s.rw.running = none ∧ s.pw.recovery = true) ∧ hostReady small = true ∧ (0 : BitVec 64) ≠ 0xA5A5 := by
  decide +kernel

/-- ErrorsAndIllegalWords. -/
theorem wit_errors : (lfind 1 small.blocks).isSome = true ∧ 1023 < (blkOf small 1).alloc.getD 4 0 ∧ undamaged small ∧ (lfind 1 small.warps).isSome = true ∧
    (∀ e ∈ ([(0, 127, 31), (1, 63, 0), (2, 15, 31), (3, 7, 31)] : List (Nat × Nat × Nat)), regExists (blkOf small (warpOf small 1).bid) e.1 e.2.1 e.2.2 = true) ∧
    (let s := (fun x : State => { x with l2 := [(0x1000, {})] }) small; (lfind 0x1000 s.l2).isSome = true) ∧
    (let s := (fun x : State => { x with clock := 10 ^ 18, parts := lset {} 1 { cls := 1, state := 2, formatted := true } x.parts }) small;
      scrubDue s 0 = true ∧ undamaged s) ∧
    small.iss.live = true ∧ illegalWord 0xFFFFFFFF = true ∧ mayTrap small ∧ isAssured small = false ∧ (lfind small.iss.wk small.warps).isSome = true ∧
    (handlerOf small small.iss.bid).isSome = true := by
  unfold undamaged mayTrap; decide +kernel

/-- StepRunsTheDecodedInstruction: the first step of a program slot: a bundle is chosen, and its instruction issues. -/
theorem wit_step : let s := State.reset.withFetchWord 32 0x01080818
    s.agenda = [] ∧ 0 < s.slot ∧ s.slot < 769 ∧ nextQuarter s (s.slot - 1) = some 0 ∧ lget 0 0 (settled 0 s).busy ≤ (settled 0 s).clock ∧
      (match pickWarp (settled 0 s) 0 (readyIn 0 s) with
        | some (wk, bs) => (match pickBundle (warpOf (settled 0 s) wk) bs with
          | some b => (match b.prep with
            | .go iss i => decide (decode (wordBytes 0x01080818) = .ok (i, [])) &&
                (let u := (fun x : State => { x with iss := iss }) (atIssue 0 wk b bs s);
                (warpOf u wk).async.isEmpty && (regsOf u).bad.isEmpty && (blkOf u iss.bid).badCtl.isEmpty)
            | _ => false)
          | none => false)
        | none => false) = true := by
  decide +kernel

/-- The program slot's block as an Assured block, whose twin has the lead's instruction before it in the trace. -/
def following : State :=
  let s := blkWith (fun b => { b with cls := 2 }) (State.reset.withFetchWord 32 0x01080818)
  warpWith (fun w => { w with
    trace := [{ iss := small.iss, instr := some (.iadd 4 2 3 0) }]
    lanes := lmap (fun _ (x : Lane) => { x with exited := true }) w.lanes }) s

/-- StepRunsTheDecodedInstruction: a twin is chosen, with the next entry of its trace. -/
theorem wit_follow : let s := following
    s.agenda = [] ∧ 0 < s.slot ∧ s.slot < 769 ∧ nextQuarter s (s.slot - 1) = some 0 ∧ lget 0 0 (settled 0 s).busy ≤ (settled 0 s).clock ∧
      (match pickWarp (settled 0 s) 0 (readyIn 0 s) with
        | some (k, bs) => decide (k = twinKey 1) && (match pickBundle (warpOf (settled 0 s) k) bs with
          | some b => (match b.prep with | .follow e => decide (e.instr = some (.iadd 4 2 3 0)) | _ => false)
          | none => false)
        | none => false) = true := by
  decide +kernel

/-- R339, R351, R304: a word that no encoding assigns, in the second slot of a clause whose words the warp holds, traps with
cause 0x01 at its offset. -/
theorem test_illegal_inside_clause :
    (match Machine.step (warpWith (fun w => { w with
        fetched := [(8, 0x00000000)]
        lanes := lmap (fun _ (x : Lane) => { x with pc := 8, clause := some (0, 0xA50003FC) }) w.lanes })
        (State.reset.withFetchWord 32 0x01080818)) with
      | .next t => decide ((warpOf t 1).tcause = 1 ∧ (warpOf t 1).tpc = 8) && (warpOf t 1).inHandler
      | _ => false) = true := by
  decide +kernel

/-- StepRunsTheDecodedInstruction: the fetch of the clause's second word. -/
theorem wit_fetch : let s := State.reset.withFetchWord 32 0x01080818
    let va := textBase (gridOf s (blkOf s 1).gid) + 4
    4 < (gridOf s (blkOf s 1).gid).obj.textLen ∧ lockHit s 1 5 va (va + 4) = false ∧
      lfind (icacheKey (blkOf s 1).core (blkOf s 1).ctx va) s.icache = none ∧
      (match translate (blkOf s 1).core (blkOf s 1).ctx (revOf s 1) va .fetch 3 s with
        | (u, .ok tr) => isLocal tr.pa && !poisoned u ((tr.pa + va % 4096) / 32) && u.dmgData.isEmpty && u.dmgCheck.isEmpty
        | _ => false) = true := by
  decide +kernel

/-- StepRunsTheDecodedInstruction: words of a clause with and without a prefix. -/
theorem wit_words : opPrefix (opByte 0x01080818) = false ∧ (match decode (wordBytes 0x01080818) with | .ok (_, []) => true | _ => false) = true ∧
    opPrefix (opByte 0xF8200000) = true ∧ pfxLegal 0xF8200000 = true := by
  decide +kernel

/-- StepRunsTheDecodedInstruction: the words of the clause that a program slot holds. -/
theorem wit_clause : (headerOf (slotHeader 0x01080818)).count.toNat = 1 ∧ offsets 4 ((headerOf (slotHeader 0x01080818)).count.toNat + 1 - (4 - 0) / 4) = [4] := by
  decide +kernel

/-- EncodeDecode, MemoryFormKept, NothingElseStops. -/
theorem wit_machine : Instr.wf (.iadd 1 2 3 0) = true ∧ (encode (.iadd 1 2 3 0)).isSome = true ∧
    (match decode [0x18, 0x08, 0x08, 0x01] with | .ok _ => true | _ => false) = true ∧ Memory.wf State.reset.mem = true ∧
    Memory.wf small.mem = true ∧ small.iss.live = true ∧ State.reset.iss.live = false ∧ encode .waitWordPoll = none ∧
    (∀ i ∈ State.reset.agenda.head?, encode i = none) := by
  decide +kernel

/-- MemoryFormKept: a step from reset answers a next state. -/
theorem wit_firstStep : (match step small with | .next _ => true | _ => false) = true := by
  decide +kernel

/-- LogProductFacts: L8 at the ends of its range; MasksAndExit: a lane that has exited; AtomicIssue: operands at the bounds. -/
theorem wit_bounds : fL8.eMin ≤ -32 + 0 ∧ 31 + 0 ≤ fL8.eMax ∧ fL8.eMax < 31 + 1 ∧ -32 + (-1) < fL8.eMin ∧ fL8.eMin ≤ 31 - 0 ∧
    ({ exited := true } : Lane).exited = true ∧ (2 ^ 32 - 1 < 2 ^ 32 ∧ 2 ^ 64 - 1 < 2 ^ 64) := by
  decide +kernel

/-- The small machine whose lane 5 differs in w2, with some traps enabled. -/
def mixed (e : Word) : State := blkWith (fun b => { b with trapen := e }) (writeW 2 5 7 small)

/-- UniformInstructions: VTOQ of a register whose lane 5 differs, its trap enabled or not. -/
theorem wit_nonUniform : Runs (.vtoq 1 2 0) (mixed 0x20) ∧ Runs (.vtoq 1 2 0) (mixed 0) := by
  unfold Runs; decide +kernel

/-- The lanes of that register. -/
theorem wit_nonUniform_lanes : mayTrap (mixed 0x20) ∧ (handlerOf (mixed 0x20) 1).isSome = true ∧ laneActive (mixed 0x20) 0 5 = true ∧
    isHelper (mixed 0x20) 5 = false := by
  unfold mayTrap; decide +kernel

/-- The values in its lanes: lane 5 is the lowest that differs from lane 0. -/
theorem wit_nonUniform_values : readW (mixed 0x20) 2 5 = 7 ∧ ∀ k < 5, readW (mixed 0x20) 2 k = 0 := by
  decide +kernel

/-- Barriers: a later TRIGGER of a triggered block, with a store outstanding. -/
theorem wit_triggered : let s := blkWith (fun b => { b with triggered := true }) (warpWith (fun w => { w with rsc := 1 }) small)
    Runs (.trigger 0) s ∧ active s 0 ≠ 0 ∧ (curBlk s).triggered = true ∧ (curWarp s).rsc ≠ 0 := by
  unfold Runs; decide +kernel

/-- TrapReturn: sr.tpc names the instruction word of a pair in the clause that trapped. -/
theorem wit_tretPair : let s := warpWith (fun w => { w with
        inHandler := true, trapLanes := 0xFFFFFFFF, tpc := 8, trapClause := some (0, 0xA50003FC), trapPairs := [8] }) small
    Runs (.tret 0) s ∧ (curWarp s).deferred = [] ∧ active s 0 ≠ 0 ∧ (resumeClause (curWarp s)).isSome = true ∧
      (curWarp s).trapPairs.contains (curWarp s).tpc.toNat = true := by
  unfold Runs; decide +kernel

/-- LinesAndLinks: a line whose clean sector holds what memory holds, beside a dirty one. -/
theorem wit_evict : let s := { small with l2 := [(20, { data := List.replicate 32 0 }), (21, { data := List.replicate 32 1, dirty := true })] }
    ∀ i < 4, (∀ e ∈ lfind (4 * 5 + i) s.l2, e.dirty = false → ∀ j < 32, e.data.getD j 0 = lget 0 (32 * (4 * 5 + i) + j) s.mem) ∧
      poisoned s (4 * 5 + i) = false ∧ tracked s (32 * (4 * 5 + i)) = false := by
  decide +kernel

/-- Forks: a request whose exposure has passed, and a TJOIN while an earlier request stands at the engine. -/
theorem wit_forksPending : let r : ForkReq := { wk := 1, pc := 4, packet := 0, record := 0, order := 1 }
    r.exposed = 0 ∧ (let s := { forking slot5 with forkReqs := [r] };
      Runs (.tjoin 8 0) s ∧ active s 0 ≠ 0 ∧ forksPending s (curBlk s).ctx = true) ∧
    (let s := gridDone 0 [(5, { state := 1, parent := 1 })];
      children s 1 ≠ [] ∧ forksPending s 0 = false ∧ keysRise s.forks = true ∧ forksPending { s with forkReqs := [r] } 0 = true ∧
        ∀ g ∈ lfind 1 s.grids, g.final = none ∧ g.done = true ∧ g.ctx = 0) ∧
    lfind (0x20100 / 32) (gridDone 0x20100 []).resvs = none ∧ 0x20100 % 16 = 0 := by
  unfold Runs; decide +kernel

/-- StoppingAndEnding: a block whose save meets no failing word, and one whose save meets one with budget left. -/
theorem wit_saveFails : saveFails 1 (stopping true false) = false ∧
    (let s := blkWith (fun b => { b with badCtl := [0] }) (stopping true false);
      saveFails 1 s = true ∧ saveReady s 1 = true ∧ (blkOf s 1).cls ≠ 2 ∧ 2 ≤ (ctxOf s (blkOf s 1).ctx).ebud) := by
  decide +kernel

/-- Dispatch, HostRegisters, CopyResults: no check under way, no reservation; sizes of the window. -/
theorem wit_open : (∀ v ∈ [1, 2], (∀ e ∈ (queued v).queues, e.2.verdict = none) ∧ (queued v).resvs = []) ∧ small.resvs = [] ∧ copier.resvs = [] ∧
    (8#64).toNat ≤ 8 ∧ ¬ (9#64).toNat ≤ 8 ∧ (191#64).toNat ≤ 191 ∧ ¬ (192#64).toNat ≤ 191 := by
  decide +kernel

/-- StepRunsTheDecodedInstruction: no write to the code is under way. -/
theorem wit_codeSettled : let s := State.reset.withFetchWord 32 0x01080818
    (blkOf s 1).uncommitted = [] ∧ ∀ k ∈ [0, 4], codePending s (· == 1) k k = false := by
  decide +kernel

/-- CopyIssue: HBIND of a graph entry and its image, free and locked. -/
theorem wit_bindRanges : let s := { binding none [] with copies := [] }
    Runs (.hbind 20 0 0) s ∧ active s 0 ≠ 0 ∧ (bindRanges s.iss.bid (some (readQ s 20).toNat) s).length = 2 ∧
      copyHeld (counterOf 0 s) 3 (bindRanges s.iss.bid (some (readQ s 20).toNat) s) s = false ∧
      (let u := { s with locks := [{ core := 0, bid := 1, op := 9, space := 5, lo := 0x10200, hi := 0x10201, write := true }] };
        copyHeld (counterOf 0 u) 3 (bindRanges u.iss.bid (some (readQ u 20).toNat) u) u = true) := by
  unfold Runs; decide +kernel

/-- HullerStatus, HullerUnit: no error has been reported in this cycle, and one has. -/
theorem wit_hstatNew : (∀ s ∈ [binding none [], binding (some 1) []], (blkOf s 1).hstatNew = none) ∧
    (let b : Block := { blkOf small 1 with hstatNew := some 0x80000000 }; b.hstatNew = some 0x80000000) := by
  decide +kernel

/-- LogProductFacts, LogFunctionFacts: exponents at the ends of the formats, and a dot product of zeros and of one product. -/
theorem wit_logBounds : (∀ F ∈ [fL32, fL16, fL8, fL6], F.eMin < 0 ∧ 0 < F.eMax ∧ F.eMin < -F.eMax) ∧
    (∀ F ∈ [fL32, fL16, fL8], F.eMin ≤ 0 + 0 + 2 ^ F.f ∧ (0 : Int) + 0 + 2 ^ F.f ≤ F.eMax ∧ (0 : Int) ≤ -F.f + F.f ∧ (4 : Int) * 2 ^ F.f ≤ 4 * 2 ^ F.f) ∧
    (∀ i < 4, slotVal fL8 i (0x40404040 : Word) = .zero false) ∧ lval fL32 (0x00000000 : Word).toNat = .fin false 0 ∧
    lval fL32 (0x40000000 : Word).toNat = .zero false ∧ slotVal fL8 0 (0x40404008 : Word) = .fin false 8 ∧
    (∀ i < 4, 0 < i → slotVal fL8 i (0x40404008 : Word) = .zero false) ∧ slotVal fL8 0 (0x40404060 : Word) = .inf false := by
  decide +kernel

/-- R328: a command that runs on: bit 31 of the status word beside a tag whose own top bit is set. -/
theorem test_running_tag :
    (match exec (.partoff 0x8000 0) small, exec (.partoff 0x7FFF 0) small with
      | .next t, .next u => some (t.rw.mboxStatus.toNat, u.rw.mboxStatus.toNat)
      | _, _ => none) = some (0x80000000, 0xFFFF0000) := by
  decide +kernel

end Sys2Proof.Tests
end

section
/-! PROOF. The device right after reset, and what each reset, the bring-up and the power limit do (R23, R24, R324, R329,
R331, R332). -/

namespace Sys2Proof.Machine

/-- A map filtered by its keys. -/
theorem lfind_filter_keys {α : Type} (p : Nat → Bool) (k : Nat) (m : SMap α) :
    lfind k (m.filter fun e => p e.1) = if p k then lfind k m else none := by
  induction m with
  | nil => simp
  | cons e t ih =>
    obtain ⟨i, u⟩ := e
    simp only [List.filter_cons, lfind_cons]
    by_cases hi : i = k
    · subst hi; cases hp : p i <;> simp_all [lfind_cons]
    · split <;> simp [lfind_cons, hi, ih]

/-- A map with a default, filtered by its keys. -/
theorem lget_filter_keys {α : Type} (d : α) (p : Nat → Bool) (k : Nat) (m : SMap α) :
    lget d k (m.filter fun e => p e.1) = if p k then lget d k m else d := by
  unfold lget
  rw [lfind_filter_keys]
  split <;> rfl

/-- Settles O60: `State.reset` lists no partition, context, channel or byte, so that each reads as its default. -/
theorem afterReset : Obligations.AfterReset :=
  ⟨Memory_wf_reset, fun _ _ => ⟨rfl, rfl, rfl⟩, fun _ => ⟨rfl, rfl, rfl, rfl, rfl⟩, fun _ _ => ⟨rfl, rfl⟩,
    rfl, rfl, rfl, rfl, rfl, rfl, rfl, rfl, rfl, fun a => by cases h : isLocal a <;> simp [readByte, h, isDamaged, State.reset, lget]⟩

/-- A reset empties local memory and leaves every other byte (logs 8 and 23). -/
theorem resetDevice_byte (s : State) (k : Nat) : lget 0 k (resetDevice s).mem = if isLocal k then 0 else lget 0 k s.mem := by
  refine (lget_filter_keys 0 (fun j => !isLocal j) k s.mem).trans ?_
  cases isLocal k <;> rfl

/-- Memory after a reset: local memory reads as after the first one, every other byte as before. -/
theorem readByte_resetDevice (s : State) (k : Nat) :
    readByte (resetDevice s) k = if isLocal k then readByte State.reset k else readByte s k := by
  have hbyte := resetDevice_byte s k
  cases h : isLocal k <;> rw [h] at hbyte
  · simpa [readByte, h] using hbyte
  · simpa [readByte, h, resetDevice, isDamaged, State.reset, lget] using hbyte

/-- What every reset leaves of the supply, the pins, the fuses and the bring-up. -/
def resetPower (p q : Power) : Prop :=
  q.step = 0 ∧ q.recovery = false ∧ q.limit = (if p.fuse then 720 else 400) ∧ q.fuse = p.fuse ∧ q.rollback = p.rollback

/-- A reset, with whatever becomes of the supply and the pins beside it. -/
theorem isReset_resetDevice {s : State} {p : Power} (h : resetPower s.pw p) : isReset s { resetDevice s with pw := p } := by
  obtain ⟨hstep, hrecovery, hlimit, hfuse, hrollback⟩ := h
  exact ⟨rfl, rfl, rfl, rfl, rfl, rfl, rfl, rfl, rfl, hstep, hrecovery, hlimit, hfuse, hrollback, rfl, readByte_resetDevice s⟩

/-- FIRMWARE_VERIFICATION of a powered device at the first step of its bring-up (R329, R332). -/
theorem exec_firmwareVerification {image : FwImage} {s : State} (hp : powered s = true) (hstep : s.pw.step = 0) :
    exec (.firmwareVerification image) s = .next (
      let u : State := { s with pw := { s.pw with step := 1 } }
      if imageOk image s then runImage image u else { u with pw := { u.pw with recovery := true } }) := by
  show execFirmwareVerification image s = _
  unfold execFirmwareVerification
  rw [hp, hstep]
  rfl

/-- Settles O53: each reset is `resetDevice` with pins of its own, and each step of the bring-up changes the power state alone. -/
theorem powerAndReset : Obligations.PowerAndReset := by
  refine ⟨fun s => ⟨_, rfl, isReset_resetDevice ⟨rfl, rfl, rfl, rfl, rfl⟩, rfl⟩, fun s hperst => ?perstnRise,
    fun s => ⟨_, rfl, isReset_resetDevice ⟨rfl, rfl, rfl, rfl, rfl⟩, rfl, rfl⟩, fun s hsupply => ?supplyReturn,
    fun s hrails => ?thermalShutdown, fun s hready => ?deviceReset, fun s body version secver sig hp hstep => ?firmware,
    fun s hp => ?bringUp, fun s => ⟨_, rfl, rfl, rfl⟩⟩
  case perstnRise =>
    exact ⟨_, if_neg (by simp [hperst]), isReset_resetDevice ⟨rfl, rfl, rfl, rfl, rfl⟩, rfl⟩
  case supplyReturn =>
    exact ⟨_, if_neg (by simp [hsupply]), isReset_resetDevice ⟨rfl, rfl, rfl, rfl, rfl⟩, rfl, rfl, rfl⟩
  case thermalShutdown =>
    exact ⟨_, if_pos hrails, isReset_resetDevice ⟨rfl, rfl, rfl, rfl, rfl⟩, rfl, rfl⟩
  case deviceReset =>
    exact ⟨⟨_, if_pos (by simp [hready]), isReset_resetDevice ⟨rfl, rfl, rfl, rfl, rfl⟩⟩, fun v hv => if_neg (by simpa [hready] using hv)⟩
  case firmware =>
    refine ⟨fun hok => ?_, fun hbad => ?_⟩
    · exact ⟨_, (exec_firmwareVerification hp hstep).trans (congrArg _ (if_pos hok)), rfl, rfl, rfl, rfl, rfl, rfl, rfl⟩
    · exact ⟨_, (exec_firmwareVerification hp hstep).trans (congrArg _ (if_neg (by simp [hbad]))), rfl, rfl, rfl, rfl⟩
  case bringUp =>
    refine ⟨fun hstep => ⟨_, if_pos (by simp [hp, hstep]), rfl, rfl⟩, fun hstep => ⟨_, if_pos (by simp [hp, hstep]), rfl, rfl, rfl⟩,
      _, if_pos hp, rfl, rfl⟩

end Sys2Proof.Machine
end

section
/-! PROOF. What reads, writes and translates memory neither sees nor changes the warps, the blocks, the grids and the mailbox's
command: stated once for each operation as `f (embed x s) = embed x (f s)`. -/

namespace Sys2Proof.Machine

/-- The memory system of `s` in a device whose warps, blocks, grids and mailbox command are those of `x`. -/
def embed (x s : State) : State :=
  { s with
    warps := x.warps, blocks := x.blocks, grids := x.grids
    rw := { s.rw with mboxCmd := x.rw.mboxCmd, mboxArgs := x.rw.mboxArgs } }

/-- The same for an operation that also answers a value. -/
def embedFst {α : Type} (x : State) (r : State × α) : State × α := (embed x r.1, r.2)

@[simp] theorem embedFst_mk {α : Type} (x u : State) (v : α) : embedFst x (u, v) = (embed x u, v) := rfl
@[simp] theorem embedFst_fst {α : Type} (x : State) (r : State × α) : (embedFst x r).1 = embed x r.1 := rfl
@[simp] theorem embedFst_snd {α : Type} (x : State) (r : State × α) : (embedFst x r).2 = r.2 := rfl

theorem embed_self (s : State) : embed s s = s := rfl

/-- An operation that commutes with `embed` leaves alone what `embed` replaces. -/
theorem embed_of_commutes {f : State → State} (hf : ∀ x s, f (embed x s) = embed x (f s)) (s : State) : embed s (f s) = f s :=
  (hf s s).symm

section Readers
variable (x s : State)

@[simp] theorem embed_l2 : (embed x s).l2 = s.l2 := rfl
@[simp] theorem embed_retired : (embed x s).retired = s.retired := rfl
@[simp] theorem embed_revmap : (embed x s).revmap = s.revmap := rfl
@[simp] theorem embed_forks : (embed x s).forks = s.forks := rfl
@[simp] theorem embed_faults : (embed x s).faults = s.faults := rfl
@[simp] theorem embed_dirtytab : (embed x s).rw.dirtytab = s.rw.dirtytab := rfl
@[simp] theorem embed_trackmap : (embed x s).rw.trackmap = s.rw.trackmap := rfl
@[simp] theorem ctxOf_embed (c : Nat) : ctxOf (embed x s) c = ctxOf s c := rfl
@[simp] theorem partOf_embed (pa : Nat) : partOf (embed x s) pa = partOf s pa := rfl
@[simp] theorem paOnline_embed (pa : Nat) : paOnline (embed x s) pa = paOnline s pa := rfl
@[simp] theorem poisoned_embed (sec : Nat) : poisoned (embed x s) sec = poisoned s sec := rfl
@[simp] theorem codeword_embed (u : Nat) : codeword (embed x s) u = codeword s u := rfl
@[simp] theorem readByte_embed (k : Nat) : readByte (embed x s) k = readByte s k := rfl
@[simp] theorem readBytes_embed (k n : Nat) : readBytes (embed x s) k n = readBytes s k n := rfl
@[simp] theorem readNat_embed (k n : Nat) : readNat (embed x s) k n = readNat s k n := rfl
@[simp] theorem effective_embed (ctx rev vpn : Nat) (t : Trans) : effective ctx rev vpn t (embed x s) = effective ctx rev vpn t s := rfl
@[simp] theorem tracked_embed (pa : Nat) : tracked (embed x s) pa = tracked s pa := rfl
@[simp] theorem permit_embed (t : Trans) (w : Want) : permit (embed x s) t w = permit s t w := rfl
@[simp] theorem filled_embed (c : Codeword) (sec : Nat) : filled (embed x s) c sec = filled s c sec := rfl
@[simp] theorem dirtyLines_embed : dirtyLines (embed x s) = dirtyLines s := rfl
@[simp] theorem zeroedSector_embed (line : Nat) : zeroedSector line (embed x s) = zeroedSector line s := rfl

end Readers

section Writers
variable (x s : State)

@[simp] theorem modChan_embed (ch : Nat) (f : Chan → Chan) : modChan ch f (embed x s) = embed x (modChan ch f s) := rfl
@[simp] theorem modCtx_embed (c : Nat) (f : Ctx → Ctx) : modCtx c f (embed x s) = embed x (modCtx c f s) := rfl
@[simp] theorem modL2_embed (sec : Nat) (f : L2Sec → L2Sec) : modL2 sec f (embed x s) = embed x (modL2 sec f s) := rfl
@[simp] theorem writeBytes_embed (k : Nat) (bs : List Byte) : writeBytes k bs (embed x s) = embed x (writeBytes k bs s) := rfl
@[simp] theorem clearDamage_embed (u : Nat) : clearDamage u (embed x s) = embed x (clearDamage u s) := rfl
@[simp] theorem ownFault_embed (key : Nat) : ownFault key (embed x s) = embed x (ownFault key s) := rfl
@[simp] theorem storeBack_embed (sec : Nat) (e : L2Sec) : storeBack sec e (embed x s) = embed x (storeBack sec e s) := rfl

@[simp] theorem interrupt_embed (v : Nat) : interrupt v (embed x s) = embed x (interrupt v s) := by
  unfold interrupt
  rw [apply_ite (embed x)]
  rfl

@[simp] theorem noteError_embed (pa kind : Nat) (scrub : Bool) (sym : Nat) :
    noteError pa kind scrub sym (embed x s) = embed x (noteError pa kind scrub sym s) := by
  unfold noteError
  dsimp only
  rw [apply_ite (embed x), ← interrupt_embed]
  rfl

@[simp] theorem noteRead_embed (u : Nat) (c : Codeword) (scrub : Bool) :
    noteRead u c scrub (embed x s) = embed x (noteRead u c scrub s) := by
  unfold noteRead
  cases c.bad <;> cases c.fixed <;> simp

@[simp] theorem touch_embed (sec : Nat) : touch sec (embed x s) = embed x (touch sec s) := by
  unfold touch
  rw [apply_ite (embed x), ← noteRead_embed]
  rfl

@[simp] theorem peerStamp_embed (k : Nat) (st : StampOp) : peerStamp k st (embed x s) = embed x (peerStamp k st s) := by
  cases st with
  | keep => rfl
  | set v => simp only [peerStamp, apply_ite (embed x)]; rfl

@[simp] theorem sliceWrite_embed (k : Nat) (bs : List Byte) (st : StampOp) :
    sliceWrite k bs st (embed x s) = embed x (sliceWrite k bs st s) := by
  unfold sliceWrite
  split
  · split
    · rw [← modL2_embed, apply_ite (embed x)]; rfl
    · simp
  · simp

@[simp] theorem sliceWriteAll_embed (k : Nat) (bs : List Byte) (st : StampOp) (fuel : Nat) :
    sliceWriteAll k bs st fuel (embed x s) = embed x (sliceWriteAll k bs st fuel s) := by
  induction fuel generalizing k bs s with
  | zero => rfl
  | succ fuel ih => unfold sliceWriteAll; split <;> simp [ih]

@[simp] theorem devStore_embed (k : Nat) (bs : List Byte) : devStore k bs (embed x s) = embed x (devStore k bs s) :=
  sliceWriteAll_embed x s _ _ _ _

@[simp] theorem physWrite_embed (pa : Nat) (bs : List Byte) : physWrite pa bs (embed x s) = embed x (physWrite pa bs s) :=
  List.foldl_hom (embed x) fun u i => by simp [apply_ite (embed x)]

end Writers

section Translation
variable (x s : State)

theorem walkEntry_embed {go : Nat → State → State × Walk} (hgo : ∀ n u, go n (embed x u) = embedFst x (go n u)) (va level table : Nat) :
    walkFrom.walkEntry va level table (embed x s) go = embedFst x (walkFrom.walkEntry va level table s go) := by
  unfold walkFrom.walkEntry
  simp [hgo, apply_ite (embedFst x)]

@[simp] theorem walkFrom_embed (va level table : Nat) : walkFrom va level table (embed x s) = embedFst x (walkFrom va level table s) := by
  induction level generalizing table s with
  | zero => exact walkEntry_embed x s (fun _ _ => rfl) va 0 table
  | succ level ih => exact walkEntry_embed x s (fun n u => ih u n) va (level + 1) table

@[simp] theorem walkPlain_embed (ctx va : Nat) : walkPlain ctx va (embed x s) = embedFst x (walkPlain ctx va s) := by
  unfold walkPlain
  split <;> simp_all

@[simp] theorem absentVa_embed (ctx va n : Nat) : absentVa ctx va n (embed x s) = absentVa ctx va n s := by
  simp [absentVa]

@[simp] theorem tablePlace_embed (ctx va : Nat) : tablePlace ctx va (embed x s) = embedFst x (tablePlace ctx va s) := by
  unfold tablePlace
  rw [walkPlain_embed]
  obtain ⟨u, w⟩ := walkPlain ctx va s
  cases w with
  | leaf t level contig ap => simp [apply_ite (embedFst x)]
  | _ => rfl

/-- The sectors that a read of m bytes at a key brings into the second-level cache. -/
def touchRange (k m : Nat) (s : State) : State :=
  (List.range (m / 32 + 2)).foldl (fun s i => if 32 * (k / 32 + i) < k + m then touch (k / 32 + i) s else s) s

@[simp] theorem touchRange_embed (k m : Nat) : touchRange k m (embed x s) = embed x (touchRange k m s) :=
  List.foldl_hom (embed x) fun u i => by simp [apply_ite (embed x)]

/-- What the pieces that follow add to those already read. -/
def joinPieces (bs : List Byte) : State × Except DevRes (List Byte) → State × Except DevRes (List Byte)
  | (s, .ok t) => (s, .ok (bs ++ t))
  | (s, .error e) => (s, .error e)

@[simp] theorem joinPieces_embed (bs : List Byte) (r : State × Except DevRes (List Byte)) :
    joinPieces bs (embedFst x r) = embedFst x (joinPieces bs r) := by
  obtain ⟨u, _ | _⟩ := r <;> rfl

/-- A read in pieces: the piece of the first page, and the rest. -/
theorem readPieces_succ (tr : Nat → State → State × DevRes) (va fuel n : Nat) (hn : n ≠ 0) :
    readPieces tr va (fuel + 1) n s =
      match tr va s with
      | (u, .ok k) =>
        let m := min n (4096 - va % 4096)
        joinPieces (readBytes (touchRange k m u) k m) (readPieces tr (va + m) fuel (n - m) (touchRange k m u))
      | (u, r) => (u, .error r) := by
  rw [readPieces, if_neg hn]
  obtain ⟨u, r⟩ := tr va s
  cases r <;> rfl

theorem readPieces_embed {tr : Nat → State → State × DevRes} (htr : ∀ va u, tr va (embed x u) = embedFst x (tr va u))
    (va fuel n : Nat) : readPieces tr va fuel n (embed x s) = embedFst x (readPieces tr va fuel n s) := by
  induction fuel generalizing va n s with
  | zero => rfl
  | succ fuel ih =>
    by_cases hn : n = 0
    · simp [readPieces, hn]
    · rw [readPieces_succ _ _ _ _ _ hn, readPieces_succ _ _ _ _ _ hn, htr]
      obtain ⟨u, r⟩ := tr va s
      cases r with
      | ok k => simp [ih]
      | _ => rfl

@[simp] theorem regionTable_embed (ctx : Nat) : regionTable ctx (embed x s) = embedFst x (regionTable ctx s) := by
  unfold regionTable
  dsimp only
  rw [readPieces_embed x s fun va u => tablePlace_embed x u ctx va]
  simp only [ctxOf_embed]
  obtain ⟨u, _ | bs⟩ := readPieces (tablePlace ctx) (ctxOf s ctx).regbase 3 (16 * (ctxOf s ctx).regcount) s <;>
    simp [apply_ite (embedFst x)]

@[simp] theorem governing_embed (ctx rev : Nat) : governing ctx rev (embed x s) = embedFst x (governing ctx rev s) := by
  unfold governing
  rw [regionTable_embed]
  dsimp only [embed_forks]
  split
  · rfl
  · obtain ⟨u, _ | rs⟩ := regionTable ctx s <;> rfl

@[simp] theorem walk_embed (ctx rev va : Nat) : walk ctx rev va (embed x s) = embedFst x (walk ctx rev va s) := by
  unfold walk
  rw [walkPlain_embed]
  obtain ⟨u, w⟩ := walkPlain ctx va s
  cases w with
  | leaf t level contig ap =>
    cases hrev : t.rev with
    | false => simp [hrev]
    | true =>
      simp only [hrev, embedFst_mk, governing_embed]
      obtain ⟨v, e | rs⟩ := governing ctx rev u
      · cases e <;> rfl
      · simp [apply_ite (embedFst x)]
  | _ => rfl

@[simp] theorem devTranslate_embed (ctx va : Nat) (wr anyAp : Bool) :
    devTranslate ctx va wr anyAp (embed x s) = embedFst x (devTranslate ctx va wr anyAp s) := by
  unfold devTranslate
  rw [walk_embed]
  obtain ⟨u, w⟩ := walk ctx 0 va s
  cases w with
  | leaf t level contig ap =>
    simp only [embedFst_mk, permit_embed, apply_ite (embedFst x)]
    cases permit u t (if wr = true then .write else .read) <;> rfl
  | _ => rfl

@[simp] theorem devReadVirt_embed (ctx va : Nat) (anyAp : Bool) (fuel n : Nat) :
    devReadVirt ctx va anyAp fuel n (embed x s) = embedFst x (devReadVirt ctx va anyAp fuel n s) :=
  readPieces_embed x s (fun a u => devTranslate_embed x u ctx a false anyAp) va fuel n

end Translation

section Faults
variable (x s : State)

@[simp] theorem flushFaults_embed (c fuel : Nat) : flushFaults c fuel (embed x s) = embed x (flushFaults c fuel s) := by
  induction fuel generalizing s with
  | zero => rfl
  | succ fuel ih =>
    unfold flushFaults
    simp only [ctxOf_embed]
    split <;> simp [ih, apply_ite (embed x)]

@[simp] theorem faultRecord_embed (c kind core level va : Nat) :
    faultRecord c kind core level va (embed x s) = embed x (faultRecord c kind core level va s) := by
  simp [faultRecord]

@[simp] theorem pageFault_embed (ctx rev va kind level core : Nat) :
    pageFault ctx rev va kind level core (embed x s) = ((pageFault ctx rev va kind level core s).1, embed x (pageFault ctx rev va kind level core s).2) := by
  unfold pageFault
  simp only [embed_faults]
  split
  · rfl
  · refine Prod.ext rfl ?_
    dsimp only
    rw [apply_ite (embed x), ← faultRecord_embed]
    rfl

@[simp] theorem raiseFault_embed (ctx rev va kind level core : Nat) :
    raiseFault ctx rev va kind level core (embed x s) = ((raiseFault ctx rev va kind level core s).1, embed x (raiseFault ctx rev va kind level core s).2) := by
  unfold raiseFault
  split <;> simp

@[simp] theorem devFault_embed (ctx va kind : Nat) : devFault ctx va kind (embed x s) = devFault ctx va kind s := by
  simp [devFault]

@[simp] theorem devWait_embed (ctx va kind level : Nat) :
    devWait ctx va kind level (embed x s) = embedFst x (devWait ctx va kind level s) := by
  simp [devWait, apply_ite (embedFst x)]

@[simp] theorem devPage_embed (ctx va kind : Nat) (r : DevRes) : devPage ctx va kind r (embed x s) = embedFst x (devPage ctx va kind r s) := by
  cases r <;> simp [devPage]

end Faults

section Objects
variable (x s : State)

@[simp] theorem devGet_embed (ctx va n : Nat) : devGet ctx va n (embed x s) = embedFst x (devGet ctx va n s) := by
  unfold devGet
  rw [devReadVirt_embed]
  obtain ⟨u, _ | bs⟩ := devReadVirt ctx va false (n / 4096 + 2) n s <;> simp

@[simp] theorem sezinRead_embed (ctx va n : Nat) : sezinRead ctx va n (embed x s) = embedFst x (sezinRead ctx va n s) := by
  unfold sezinRead
  rw [devGet_embed]
  simp only [apply_ite (embedFst x)]
  obtain ⟨u, r⟩ := devGet ctx va 16 s
  cases r with
  | bytes bs =>
    simp only [embedFst_mk, devGet_embed, apply_ite (embedFst x)]
    obtain ⟨v, q⟩ := devGet ctx va (fieldOf bs 4 4) u
    cases q <;> rfl
  | _ => rfl

theorem chain_embed {α : Type} {r : State × Got9} {f : List Byte → State → State × Chk α}
    (hf : ∀ bs u, f bs (embed x u) = embedFst x (f bs u)) : chain (embedFst x r) f = embedFst x (chain r f) := by
  obtain ⟨u, bs | _ | _⟩ := r
  · exact hf bs u
  · rfl
  · rfl

@[simp] theorem readObject_embed (ctx handle : Nat) : readObject ctx handle (embed x s) = embedFst x (readObject ctx handle s) := by
  unfold readObject
  simp only [ctxOf_embed, devGet_embed, apply_ite (embedFst x)]
  congr 1
  refine chain_embed x fun e u => ?_
  cases forwarding e handle with
  | none => rfl
  | some base =>
    simp only [devGet_embed]
    refine chain_embed x fun h v => ?_
    simp only [sezinRead_embed, apply_ite (embedFst x)]
    congr 1
    exact chain_embed x fun _ _ => rfl

@[simp] theorem writeKeys_embed (ctx : Nat) (as : List Nat) : writeKeys ctx as (embed x s) = embedFst x (writeKeys ctx as s) := by
  induction as generalizing s with
  | nil => rfl
  | cons a as ih =>
    unfold writeKeys
    rw [devTranslate_embed]
    obtain ⟨u, r⟩ := devTranslate ctx a true false s
    cases r with
    | ok k =>
      simp only [embedFst_mk, ih]
      obtain ⟨v, q⟩ := writeKeys ctx as u
      cases q <;> rfl
    | _ => simp

end Objects

section Writeback
variable (x s : State)

@[simp] theorem dirtyMark_embed (pa : Nat) : dirtyMark pa (embed x s) = embed x (dirtyMark pa s) := by
  simp only [dirtyMark, embed_dirtytab, embed_trackmap, tracked_embed, paOnline_embed, touch_embed, readByte_embed, sliceWrite_embed,
    apply_ite (embed x)]
  rfl

@[simp] theorem keepSibling_embed (sib : Nat) : keepSibling sib (embed x s) = embed x (keepSibling sib s) := by
  unfold keepSibling
  simp only [embed_l2, touch_embed]
  cases lfind sib s.l2 with
  | none => cases lfind sib (touch sib s).l2 <;> simp
  | some e => simp [apply_ite (embed x)]

@[simp] theorem writebackSector_embed (sec : Nat) : writebackSector sec (embed x s) = embed x (writebackSector sec s) := by
  unfold writebackSector
  simp only [embed_l2]
  cases lfind sec s.l2 <;> simp [apply_ite (embed x)]

@[simp] theorem writebackLine_embed (line : Nat) : writebackLine line (embed x s) = embed x (writebackLine line s) := by
  unfold writebackLine
  have hsectors : (List.range 8).foldl (fun s i => writebackSector (4 * line + i % 4) s) (embed x s) =
      embed x ((List.range 8).foldl (fun s i => writebackSector (4 * line + i % 4) s) s) :=
    List.foldl_hom (embed x) fun u i => writebackSector_embed x u _
  simp only [hsectors, zeroedSector_embed]
  cases zeroedSector line s <;> simp

theorem writebackLines_embed (ls : List Nat) :
    ls.foldl (fun s l => writebackLine l s) (embed x s) = embed x (ls.foldl (fun s l => writebackLine l s) s) :=
  List.foldl_hom (embed x) fun u l => writebackLine_embed x u l

@[simp] theorem writebackWhere_embed (p : Nat → Bool) : writebackWhere p (embed x s) = embed x (writebackWhere p s) := by
  simp only [writebackWhere, dirtyLines_embed, writebackLines_embed]

end Writeback

end Sys2Proof.Machine
end

section
/-! PROOF. Bytes as numbers, reads of memory after writes to the host, and reads that see the same unit of memory. -/

namespace Sys2Proof.Machine

@[simp] theorem length_leBytes (n v : Nat) : (leBytes n v).length = n := by
  induction n generalizing v with
  | zero => rfl
  | succ n ih => simp [leBytes, ih]

/-- A number of n little-endian bytes, read back. -/
theorem leNat_leBytes (n v : Nat) : leNat (leBytes n v) = v % 256 ^ n := by
  induction n generalizing v with
  | zero => simp [leBytes, leNat, Nat.mod_one]
  | succ n ih =>
    have hsplit := Nat.mod_mul (x := v) (a := 256) (b := 256 ^ n)
    simp only [leBytes, leNat, ih, BitVec.toNat_ofNat, Nat.pow_succ']
    omega

/-- A list that has n bytes fits into n. -/
theorem fitBytes_eq_self {n : Nat} {bs : List Byte} (h : bs.length = n) : fitBytes n bs = bs := by
  subst h
  refine List.ext_getElem (by simp [fitBytes]) fun i _ hi => ?_
  simp [fitBytes, List.getElem?_eq_getElem hi]

@[simp] theorem length_fitBytes (n : Nat) (bs : List Byte) : (fitBytes n bs).length = n := by simp [fitBytes]

/-- One of equally long pieces that stand one after the other. -/
theorem take_drop_flatMap {α β : Type} {n : Nat} {f : α → List β} (hf : ∀ a, (f a).length = n) (l : List α) {i : Nat}
    (hi : i < l.length) : ((l.flatMap f).drop (n * i)).take n = f l[i] := by
  induction l generalizing i with
  | nil => simp at hi
  | cons a l ih =>
    cases i with
    | zero => simp [hf]
    | succ i =>
      have hdrop : (f a ++ l.flatMap f).drop (n * (i + 1)) = (l.flatMap f).drop (n * i) := by
        rw [Nat.mul_succ, Nat.add_comm, ← List.drop_drop, List.drop_left' (hf a)]
      simp only [List.flatMap_cons, hdrop, List.getElem_cons_succ]
      exact ih (by simpa using hi)

/-- Host memory is not local. -/
theorem isLocal_host (n : Nat) : isLocal (hostBase + n) = false := by simp [isLocal, hostBase]

/-- A byte that the device has written to a host buffer, read back. -/
theorem readByte_hostWrite (buf : BitVec 64) (bs : List Byte) (s : State) {i : Nat} (h : i < bs.length) :
    readByte (hostWrite buf bs s) (hostBase + buf.toNat + i) = bs[i] := by
  have hlocal : isLocal (hostBase + buf.toNat + i) = false := by rw [Nat.add_assoc]; exact isLocal_host _
  refine (readByte_writeBytes s _ _ bs hlocal).trans ?_
  rw [if_pos ⟨Nat.le_add_right _ _, Nat.add_lt_add_left h _⟩, Nat.add_sub_cancel_left]
  simp [h]

/-- A part of what the device has written to a host buffer, read back. -/
theorem readBytes_hostWrite (buf : BitVec 64) (bs : List Byte) (s : State) (o n : Nat) (h : o + n ≤ bs.length) :
    readBytes (hostWrite buf bs s) (hostBase + buf.toNat + o) n = (bs.drop o).take n := by
  refine List.ext_getElem (by simp [readBytes]; omega) fun i hi _ => ?_
  have hi : i < n := by simpa [readBytes] using hi
  have hbyte := readByte_hostWrite buf bs s (i := o + i) (by omega)
  rw [← Nat.add_assoc] at hbyte
  simpa [readBytes] using hbyte

/-- What a read of a local byte sees: the second-level sector, and the bytes, the damage and the class of its 64-byte unit. -/
theorem readByte_congr {s t : State} {k : Nat} (hlocal : isLocal k = true) (hl2 : lfind (k / 32) t.l2 = lfind (k / 32) s.l2)
    (hmem : ∀ j, j / 64 = k / 64 → lget 0 j t.mem = lget 0 j s.mem) (hdmg : unitDamage t (k / 64) = unitDamage s (k / 64))
    (hbad : isDamaged t (k / 64) = isDamaged s (k / 64))
    (hcls : (partOf t (64 * (k / 64))).cls = (partOf s (64 * (k / 64))).cls) : readByte t k = readByte s k := by
  have hraw : storedBytes t (64 * (k / 64)) 64 = storedBytes s (64 * (k / 64)) 64 :=
    List.map_congr_left fun i hi => hmem _ (by have := List.mem_range.1 hi; omega)
  have hcode : codeword t (k / 64) = codeword s (k / 64) := by simp only [codeword, hraw, hdmg, hcls]
  simp only [readByte, hlocal, hl2, hbad, hcode, hmem k rfl]

/-- A write to a host buffer leaves what local memory delivers. -/
theorem readByte_hostWrite_local (buf : BitVec 64) (bs : List Byte) (s : State) {k : Nat} (hlocal : isLocal k = true) :
    readByte (hostWrite buf bs s) k = readByte s k := by
  refine readByte_congr hlocal rfl (fun j hj => ?_) rfl rfl rfl
  have hbelow : j < hostBase := by
    simp only [isLocal, decide_eq_true_eq] at hlocal
    unfold hostBase
    omega
  exact (lget_write s.mem (hostBase + buf.toNat) j bs).trans (if_neg (by omega))

end Sys2Proof.Machine
end

section
/-! PROOF. The mailbox: how a command completes or goes on running (R328), and the commands on partitions (R240, R241). -/

namespace Sys2Proof.Machine

/-- The state with other registers of the window and the mailbox, and other messages sent. -/
def onMailbox (w : Regwin) (l : List (Nat × Nat)) (s : State) : State := { s with rw := w, sent := l }

section OnMailbox
variable (w : Regwin) (l : List (Nat × Nat)) (s : State)

@[simp] theorem onMailbox_pw : (onMailbox w l s).pw = s.pw := rfl
@[simp] theorem onMailbox_mem : (onMailbox w l s).mem = s.mem := rfl
@[simp] theorem onMailbox_parts : (onMailbox w l s).parts = s.parts := rfl
@[simp] theorem onMailbox_tlb : (onMailbox w l s).tlb = s.tlb := rfl
@[simp] theorem onMailbox_chans : (onMailbox w l s).chans = s.chans := rfl
@[simp] theorem onMailbox_retired : (onMailbox w l s).retired = s.retired := rfl
@[simp] theorem onMailbox_margin : (onMailbox w l s).margin = s.margin := rfl
@[simp] theorem onMailbox_husks : (onMailbox w l s).husks = s.husks := rfl
@[simp] theorem onMailbox_queues : (onMailbox w l s).queues = s.queues := rfl
@[simp] theorem onMailbox_warps : (onMailbox w l s).warps = s.warps := rfl
@[simp] theorem onMailbox_grids : (onMailbox w l s).grids = s.grids := rfl
@[simp] theorem onMailbox_blocks : (onMailbox w l s).blocks = s.blocks := rfl
@[simp] theorem onMailbox_onMailbox (v : Regwin) (m : List (Nat × Nat)) : onMailbox w l (onMailbox v m s) = onMailbox w l s := rfl
@[simp] theorem ctxOf_onMailbox (c : Nat) : ctxOf (onMailbox w l s) c = ctxOf s c := rfl
@[simp] theorem blkOf_onMailbox (b : Nat) : blkOf (onMailbox w l s) b = blkOf s b := rfl
@[simp] theorem huskAt_onMailbox (c o : Nat) : huskAt (onMailbox w l s) c o = huskAt s c o := rfl
@[simp] theorem readByte_onMailbox (k : Nat) : readByte (onMailbox w l s) k = readByte s k := rfl
@[simp] theorem readBytes_onMailbox (k n : Nat) : readBytes (onMailbox w l s) k n = readBytes s k n := rfl

end OnMailbox

/-- An interrupt is pending or sent. -/
theorem interrupt_eq (v : Nat) (s : State) : ∃ p l, interrupt v s = onMailbox { s.rw with pending := p } l s := by
  unfold interrupt
  split
  · exact ⟨_, _, rfl⟩
  · exact ⟨s.rw.pending, _, rfl⟩

/-- The registers once a command has completed. -/
def completedRw (tag status : Nat) : Regwin → Regwin := fun w =>
  { w with mboxStatus := BitVec.ofNat 64 (tag * 2 ^ 16 + status), running := none }

/-- A command completes: its status word, and the interrupt. -/
theorem completeCommand_eq (tag status : Nat) (s : State) : ∃ p l, completeCommand tag status s =
    onMailbox { completedRw tag status s.rw with pending := p } l s := by
  obtain ⟨p, l, h⟩ := interrupt_eq (s.rw.errvec.toNat % 256) (onMailbox (completedRw tag status s.rw) s.sent s)
  exact ⟨p, l, h.trans (onMailbox_onMailbox _ _ _ _ _)⟩

/-- The registers once a command's arguments and its word are written. -/
def commandedRw (code : Nat) (tag : BitVec 16) (args : List (BitVec 64)) : Regwin → Regwin := fun w =>
  { w with mboxCmd := BitVec.ofNat 64 (tag.toNat * 2 ^ 16 + code), mboxArgs := putArgs args w.mboxArgs }

/-- The registers once a command runs on. -/
def startedRw (code : Nat) (tag : BitVec 16) (args : List (BitVec 64)) : Regwin → Regwin := fun w =>
  { w with running := some (code, args.map (·.toNat)), mboxStatus := BitVec.ofNat 64 ((tag.toNat * 2 ^ 16) ||| 2 ^ 31) }

/-- The state in which a command begins. -/
def commanded (code : Nat) (tag : BitVec 16) (args : List (BitVec 64)) (s : State) : State :=
  modRw (commandedRw code tag args) s

theorem commanded_eq (code : Nat) (tag : BitVec 16) (args : List (BitVec 64)) (s : State) :
    commanded code tag args s = onMailbox (commandedRw code tag args s.rw) s.sent s := rfl

theorem commanded_pw (code : Nat) (tag : BitVec 16) (args : List (BitVec 64)) (s : State) : (commanded code tag args s).pw = s.pw := by
  rw [commanded_eq, onMailbox_pw]

/-- The mailbox of a ready device takes a command: none runs, and the device is not in recovery or the command is FWLOAD. -/
def takesCommand (code : Nat) (s : State) : Prop :=
  hostReady s = true ∧ s.rw.running = none ∧ (s.pw.recovery && code != 0x70) = false

section Command
variable {i : Instr} {code : Nat} {tag : BitVec 16} {args : List (BitVec 64)} {body : State → Cmd} {s u : State} {status : Nat}

/-- What the mailbox makes of a command's beginning: it completes or runs on. -/
def concluded (code : Nat) (tag : BitVec 16) (args : List (BitVec 64)) : Cmd → State
  | .done status u => completeCommand tag.toNat status u
  | .runs u => modRw (startedRw code tag args) u

/-- R328, R329: a command of a device that is not ready, or that runs one, is ignored; in recovery mode every command but FWLOAD
completes with status 1. -/
theorem mailbox_eq (code : Nat) (tag : BitVec 16) (args : List (BitVec 64)) (body : State → Cmd) (s : State) :
    mailbox code tag args body s =
      if !(hostReady s) || s.rw.running.isSome then s
      else if (commanded code tag args s).pw.recovery && code != 0x70 then completeCommand tag.toNat 1 (commanded code tag args s)
      else concluded code tag args (body (commanded code tag args s)) := rfl

theorem mailbox_of_takesCommand (h : takesCommand code s) :
    mailbox code tag args body s = concluded code tag args (body (commanded code tag args s)) := by
  obtain ⟨hready, hidle, hrecovery⟩ := h
  rw [mailbox_eq, if_neg (by simp [hready, hidle]), if_neg (by rw [commanded_pw]; simp [hrecovery])]

theorem mailbox_recovery (hready : hostReady s = true) (hidle : s.rw.running = none) (hrecovery : s.pw.recovery = true)
    (hcode : code ≠ 0x70) : mailbox code tag args body s = completeCommand tag.toNat 1 (commanded code tag args s) := by
  rw [mailbox_eq, if_neg (by simp [hready, hidle]), if_pos (by rw [commanded_pw]; simp [hrecovery, hcode])]

/-- A command that completes answers its status; its effect does not lie in the registers. -/
theorem answers_of_each {P : State → Prop} (h : takesCommand code s) (hexec : exec i s = .next (mailbox code tag args body s))
    (hbody : ∀ v, ∃ u, body (onMailbox v s.sent s) = .done status u ∧ ∀ w l, P (onMailbox w l u)) :
    ∃ t, exec i s = .next t ∧ answers t tag status ∧ P t := by
  obtain ⟨u, hdone, hP⟩ := hbody (commandedRw code tag args s.rw)
  obtain ⟨p, l, hc⟩ := completeCommand_eq tag.toNat status u
  exact ⟨_, by rw [hexec, mailbox_of_takesCommand h, commanded_eq, hdone]; exact congrArg _ hc, ⟨rfl, rfl⟩, hP _ l⟩

theorem answers_of_done {P : State → Prop} {f : Regwin → State} (h : takesCommand code s)
    (hexec : exec i s = .next (mailbox code tag args body s)) (hbody : ∀ v, body (onMailbox v s.sent s) = .done status (f v))
    (hP : ∀ v w l, P (onMailbox w l (f v))) : ∃ t, exec i s = .next t ∧ answers t tag status ∧ P t :=
  answers_of_each h hexec fun v => ⟨f v, hbody v, hP v⟩

/-- R329: what a command but FWLOAD answers in recovery mode. -/
theorem answers_recovery {P : State → Prop} (hready : hostReady s = true) (hidle : s.rw.running = none) (hrecovery : s.pw.recovery = true)
    (hcode : code ≠ 0x70) (hexec : exec i s = .next (mailbox code tag args body s)) (hP : ∀ w l, P (onMailbox w l s)) :
    ∃ t, exec i s = .next t ∧ answers t tag 1 ∧ P t := by
  obtain ⟨p, l, hc⟩ := completeCommand_eq tag.toNat 1 (commanded code tag args s)
  rw [commanded_eq, onMailbox_onMailbox] at hc
  exact ⟨_, by rw [hexec, mailbox_recovery hready hidle hrecovery hcode]; exact congrArg _ hc, ⟨rfl, rfl⟩, hP _ l⟩

/-- A command that runs on shows its tag and bit 31; what its beginning gives stays. -/
theorem runsOn_of_commanded {P : State → Prop} (h : takesCommand code s) (hexec : exec i s = .next (mailbox code tag args body s))
    (hbody : body (commanded code tag args s) = .runs u) (hP : ∀ w, P (onMailbox w u.sent u)) :
    ∃ t, exec i s = .next t ∧ runsOn t tag code (args.map (·.toNat)) ∧ P t :=
  ⟨_, by rw [hexec, mailbox_of_takesCommand h, hbody]; rfl, ⟨rfl, rfl⟩, hP (startedRw code tag args u.rw)⟩

theorem runsOn_of_runs {P : State → Prop} {f : Regwin → State} (h : takesCommand code s)
    (hexec : exec i s = .next (mailbox code tag args body s)) (hbody : ∀ w, body (onMailbox w s.sent s) = .runs (f w))
    (hP : ∀ v w, P (onMailbox w (f v).sent (f v))) :
    ∃ t, exec i s = .next t ∧ runsOn t tag code (args.map (·.toNat)) ∧ P t :=
  runsOn_of_commanded h hexec (hbody (commandedRw code tag args s.rw)) (hP _)

/-- The running command completes: it answers under the tag that its word holds, here as it stood in an earlier state. -/
theorem answers_of_completes {P : State → Prop} {v : State} (hexec : exec i s = .next (completeCommand (runningTag v) status u))
    (htag : v.rw.mboxCmd = s.rw.mboxCmd) (hP : ∀ w l, P (onMailbox w l u)) :
    ∃ t, exec i s = .next t ∧ answers t (BitVec.ofNat 16 (runningTag s)) status ∧ P t := by
  have hrunning : runningTag v = (BitVec.ofNat 16 (runningTag s)).toNat := by simp [runningTag, htag]
  obtain ⟨p, l, hc⟩ := completeCommand_eq (runningTag v) status u
  exact ⟨_, hexec.trans (congrArg _ hc), ⟨by rw [hrunning]; rfl, rfl⟩, hP _ l⟩

end Command

/-- A ready device that runs no command and is not in recovery mode takes every command. -/
theorem takesCommand_of_ready {s : State} (hready : hostReady s = true) (hidle : s.rw.running = none) (hrecovery : s.pw.recovery = false)
    (code : Nat) : takesCommand code s := ⟨hready, hidle, by simp [hrecovery]⟩

@[simp] theorem lget_modPart_same (p : Nat) (f : Part → Part) (s : State) : lget {} p (modPart p f s).parts = f (lget {} p s.parts) :=
  lget_lset_same _ _ _ _

@[simp] theorem lget_modQueue_same (q : Nat) (f : Queue → Queue) (s : State) : lget {} q (modQueue q f s).queues = f (lget {} q s.queues) :=
  lget_lset_same _ _ _ _

@[simp] theorem ctxOf_modCtx_same (c : Nat) (f : Ctx → Ctx) (s : State) : ctxOf (modCtx c f s) c = f (ctxOf s c) :=
  lget_lset_same _ _ _ _

theorem lget_modChan (c j : Nat) (f : Chan → Chan) (s : State) :
    lget {} j (modChan c f s).chans = if c = j then f (lget {} c s.chans) else lget {} j s.chans :=
  lget_lset _ _ _ _ _

section Partitions
variable {s : State} (h : ∀ code, takesCommand code s) (tag : BitVec 16) (part : BitVec 64)
include h

theorem parton_answers :
    ∃ t, exec (.parton tag part) s = .next t ∧
      answers t tag (if 96 ≤ part.toNat then 2
        else if (lget ({} : Part) part.toNat s.parts).state = 0 ∧ (lget ({} : Part) part.toNat s.parts).formatted = true then 0 else 1) ∧
      (part.toNat < 96 → (lget ({} : Part) part.toNat s.parts).state = 0 → (lget ({} : Part) part.toNat s.parts).formatted = true →
        (lget ({} : Part) part.toNat t.parts).state = 2) ∧ t.mem = s.mem := by
  by_cases hpart : 96 ≤ part.toNat
  · rw [if_pos hpart]
    exact answers_of_done (h _) rfl (fun _ => if_pos hpart) fun _ _ _ => ⟨fun hlt => absurd hlt (by omega), by simp⟩
  · rw [if_neg hpart]
    by_cases hfmt : (lget ({} : Part) part.toNat s.parts).state = 0 ∧ (lget ({} : Part) part.toNat s.parts).formatted = true
    · rw [if_pos hfmt]
      exact answers_of_done (h _) rfl (fun _ => (if_neg hpart).trans (if_pos hfmt)) fun _ _ _ =>
        ⟨fun _ _ _ => by simp, by simp [modPart]⟩
    · rw [if_neg hfmt]
      exact answers_of_done (h _) rfl (fun _ => (if_neg hpart).trans (if_neg hfmt)) fun _ _ _ =>
        ⟨fun _ hstate hform => absurd ⟨hstate, hform⟩ hfmt, by simp⟩

theorem partoff_runs (hpart : part.toNat < 96) (hstate : (lget ({} : Part) part.toNat s.parts).state = 2) :
    ∃ t, exec (.partoff tag part) s = .next t ∧ runsOn t tag 0x40 [part.toNat] ∧
      (∀ e ∈ t.tlb, partMapped part.toNat e.2 = false) ∧ t.mem = s.mem := by
  refine runsOn_of_runs (args := [part]) (h _) rfl (fun _ => (if_neg (Nat.not_le.2 hpart)).trans (if_neg (not_not.2 hstate)))
    fun v w => ⟨fun e he => ?_, by simp⟩
  simpa using (List.mem_filter.1 he).2

theorem partoff_answers (hno : 96 ≤ part.toNat ∨ (lget ({} : Part) part.toNat s.parts).state ≠ 2) :
    ∃ t, exec (.partoff tag part) s = .next t ∧ answers t tag (if 96 ≤ part.toNat then 2 else 1) ∧ t.parts = s.parts := by
  by_cases hpart : 96 ≤ part.toNat
  · rw [if_pos hpart]
    exact answers_of_done (h _) rfl (fun _ => if_pos hpart) fun _ _ _ => by simp
  · rw [if_neg hpart]
    exact answers_of_done (h _) rfl (fun _ => (if_neg hpart).trans (if_pos (hno.resolve_left hpart))) fun _ _ _ => by simp

theorem partfmt_runs (cls : BitVec 64) (hpart : part.toNat < 96) (hcls : cls.toNat < 3)
    (hstate : (lget ({} : Part) part.toNat s.parts).state = 0) :
    ∃ t, exec (.partfmt tag part cls) s = .next t ∧ runsOn t tag 0x41 [part.toNat, cls.toNat] ∧ (lget ({} : Part) part.toNat t.parts).state = 1 :=
  runsOn_of_runs (args := [part, cls]) (h _) rfl
    (fun _ => (if_neg (not_or.2 ⟨Nat.not_le.2 hpart, Nat.not_le.2 hcls⟩)).trans (if_neg (not_not.2 hstate)))
    fun v w => by simp

theorem partfmt_answers (cls : BitVec 64) (hno : 96 ≤ part.toNat ∨ 3 ≤ cls.toNat ∨ (lget ({} : Part) part.toNat s.parts).state ≠ 0) :
    ∃ t, exec (.partfmt tag part cls) s = .next t ∧ answers t tag (if 96 ≤ part.toNat ∨ 3 ≤ cls.toNat then 2 else 1) ∧ t.parts = s.parts := by
  by_cases hargs : 96 ≤ part.toNat ∨ 3 ≤ cls.toNat
  · rw [if_pos hargs]
    exact answers_of_done (h _) rfl (fun _ => if_pos hargs) fun _ _ _ => by simp
  · rw [if_neg hargs]
    exact answers_of_done (h _) rfl (fun _ => (if_neg hargs).trans (if_pos ((or_assoc.2 hno).resolve_left hargs))) fun _ _ _ => by simp

end Partitions

end Sys2Proof.Machine
end

section
/-! PROOF. What each command that completes at once answers and does (R24, R240, R256, R258, R260, R261, R294, R296, R328, R330). -/

namespace Sys2Proof.Machine

/-- What a fold of channel changes that all set one period leaves. -/
theorem period_foldl_modChan (f : Chan → Chan) (p : Nat) (hf : ∀ c, (f c).period = p) (cs : List Nat) (s : State) (j : Nat) :
    (lget {} j (cs.foldl (fun s c => modChan c f s) s).chans).period = if j ∈ cs then p else (lget {} j s.chans).period := by
  induction cs generalizing s with
  | nil => simp
  | cons c cs ih =>
    simp only [List.foldl_cons, ih, lget_modChan, List.mem_cons]
    grind

/-- The nonce stands at byte 76 of an attestation report (R330). -/
theorem report_nonce (s : State) (nonce : List (BitVec 64)) (signature : List Byte) :
    ((reportBody s nonce ++ signature).drop 76).take 48 = fitBytes 48 (nonce.flatMap fun w => leBytes 8 w.toNat) := by
  obtain ⟨head, tail, hbody, hhead⟩ : ∃ head tail : List Byte,
      reportBody s nonce = head ++ fitBytes 48 (nonce.flatMap fun w => leBytes 8 w.toNat) ++ tail ∧ head.length = 76 :=
    ⟨_, _, List.append_assoc _ _ _, by simp⟩
  rw [hbody, List.append_assoc, List.append_assoc, List.drop_left' hhead, List.take_left' (length_fitBytes _ _)]

section Commands
variable {s : State} (h : ∀ code, takesCommand code s) (tag : BitVec 16)
include h

theorem scrubset_answers (ch period window : BitVec 64)
    (hbad : 24 < ch.toNat ∨ (period.toNat ≠ 0 ∧ (period.toNat < 3600 ∨ 2 ^ 31 < period.toNat)) ∨ window.toNat < 60 ∨ 86400 < window.toNat) :
    ∃ t, exec (.scrubset tag ch period window) s = .next t ∧ answers t tag 2 ∧ t.chans = s.chans :=
  answers_of_done (h _) rfl (fun _ => if_pos hbad) fun _ _ _ => by simp

theorem scrubset_period (ch period window : BitVec 64)
    (hgood : ¬ (24 < ch.toNat ∨ (period.toNat ≠ 0 ∧ (period.toNat < 3600 ∨ 2 ^ 31 < period.toNat)) ∨ window.toNat < 60 ∨ 86400 < window.toNat)) :
    ∃ t, exec (.scrubset tag ch period window) s = .next t ∧ answers t tag 0 ∧ ∀ c, c < 24 →
      (lget {} c t.chans).period = if ch.toNat = 24 ∨ ch.toNat = c then period.toNat else (lget {} c s.chans).period := by
  refine answers_of_done (h _) rfl (fun _ => if_neg hgood) fun v w l c hc => ?_
  simp only [onMailbox_chans]
  rw [period_foldl_modChan _ period.toNat fun _ => rfl]
  by_cases hall : ch.toNat = 24
  · simp [hall, hc]
  · simp [hall, eq_comm]

theorem scrubset_effect (ch period window : BitVec 64) :
    let bad := 24 < ch.toNat ∨ (period ≠ 0 ∧ (period.toNat < 3600 ∨ 2 ^ 31 < period.toNat)) ∨ window.toNat < 60 ∨ 86400 < window.toNat
    ∃ t, exec (.scrubset tag ch period window) s = .next t ∧ (bad → answers t tag 2 ∧ t.chans = s.chans) ∧
      (¬ bad → answers t tag 0 ∧ ∀ c, c < 24 → (lget {} c t.chans).period =
        if ch.toNat = 24 ∨ ch.toNat = c then period.toNat else (lget {} c s.chans).period) := by
  have hzero : period ≠ 0 ↔ period.toNat ≠ 0 := not_congr BitVec.toNat_eq
  intro bad
  by_cases hbad : bad
  · obtain ⟨t, hexec, heffect⟩ := scrubset_answers h tag ch period window (by simpa only [bad, hzero] using hbad)
    exact ⟨t, hexec, fun _ => heffect, fun hgood => absurd hbad hgood⟩
  · obtain ⟨t, hexec, heffect⟩ := scrubset_period h tag ch period window (by simpa only [bad, hzero] using hbad)
    exact ⟨t, hexec, fun hb => absurd hb hbad, fun _ => heffect⟩

theorem retire_answers (pa : BitVec 64) (hbad : pa.toNat % 4096 ≠ 0 ∨ localSize ≤ pa.toNat) :
    ∃ t, exec (.retire tag pa) s = .next t ∧ answers t tag 2 ∧ t.retired = s.retired :=
  answers_of_done (h _) rfl (fun _ => if_pos hbad) fun _ _ _ => by simp

theorem retire_adds (pa : BitVec 64) (hgood : ¬ (pa.toNat % 4096 ≠ 0 ∨ localSize ≤ pa.toNat)) (hroom : s.retired.length < 4096) :
    ∃ t, exec (.retire tag pa) s = .next t ∧ answers t tag 0 ∧ pa.toNat ∈ t.retired ∧ ∀ x ∈ s.retired, x ∈ t.retired := by
  by_cases hold : s.retired.contains pa.toNat
  · refine answers_of_done (h _) rfl (fun _ => (if_neg hgood).trans (if_pos hold)) fun _ _ _ => ?_
    simpa using hold
  · refine answers_of_done (h _) rfl (fun _ => (if_neg hgood).trans ((if_neg hold).trans (if_neg (Nat.not_le.2 hroom)))) fun _ _ _ => ?_
    exact ⟨List.mem_append_right _ (List.mem_singleton_self _), fun _ => List.mem_append_left _⟩

theorem retire_effect (pa : BitVec 64) :
    ∃ t, exec (.retire tag pa) s = .next t ∧
      (pa.toNat % 4096 = 0 → pa.toNat < localSize → s.retired.length < 4096 →
        answers t tag 0 ∧ pa.toNat ∈ t.retired ∧ ∀ x ∈ s.retired, x ∈ t.retired) ∧
      (pa.toNat % 4096 ≠ 0 ∨ localSize ≤ pa.toNat → answers t tag 2 ∧ t.retired = s.retired) := by
  by_cases hbad : pa.toNat % 4096 ≠ 0 ∨ localSize ≤ pa.toNat
  · obtain ⟨t, hexec, heffect⟩ := retire_answers h tag pa hbad
    exact ⟨t, hexec, fun halign hlocal => absurd hbad (by omega), fun _ => heffect⟩
  · by_cases hroom : s.retired.length < 4096
    · obtain ⟨t, hexec, heffect⟩ := retire_adds h tag pa hbad hroom
      exact ⟨t, hexec, fun _ _ _ => heffect, fun hb => absurd hb hbad⟩
    · exact ⟨_, rfl, fun _ _ hr => absurd hr hroom, fun hb => absurd hb hbad⟩

theorem budget_effect (ctx value : BitVec 64) (hctx : ctx.toNat < 64) (hpos : 0 < value.toNat) (hvalue : value.toNat < 2 ^ 32) :
    ∃ t, exec (.budget tag ctx value) s = .next t ∧ answers t tag 0 ∧ (ctxOf t ctx.toNat).ebud = value.toNat ∧ t.mem = s.mem := by
  have hmod : value.toNat % 2 ^ 32 = value.toNat := Nat.mod_eq_of_lt hvalue
  refine answers_of_done (f := fun w => modCtx ctx.toNat (fun x => { x with ebud := value.toNat }) (onMailbox w s.sent s)) (h _) rfl
    (fun w => (if_neg (Nat.not_le.2 hctx)).trans ?_) fun _ _ _ => ?_
  · dsimp only
    rw [hmod, if_neg (Nat.pos_iff_ne_zero.1 hpos)]
  · simp

theorem resume_effect (ctx : BitVec 64) :
    ∃ t, exec (.resume tag ctx) s = .next t ∧ t.mem = s.mem ∧
      answers t tag (if 64 ≤ ctx.toNat then 2 else if (ctxOf s ctx.toNat).ebud = 0 ∨ (ctxOf s ctx.toNat).exhausted = false then 1 else 0) ∧
      (ctx.toNat < 64 → (ctxOf s ctx.toNat).ebud ≠ 0 → (ctxOf t ctx.toNat).exhausted = false) := by
  suffices hs : ∃ t, exec (.resume tag ctx) s = .next t ∧
      answers t tag (if 64 ≤ ctx.toNat then 2 else if (ctxOf s ctx.toNat).ebud = 0 ∨ (ctxOf s ctx.toNat).exhausted = false then 1 else 0) ∧
      t.mem = s.mem ∧ (ctx.toNat < 64 → (ctxOf s ctx.toNat).ebud ≠ 0 → (ctxOf t ctx.toNat).exhausted = false) by
    obtain ⟨t, hexec, hanswers, hmem, hctx⟩ := hs
    exact ⟨t, hexec, hmem, hanswers, hctx⟩
  by_cases hctx : 64 ≤ ctx.toNat
  · rw [if_pos hctx]
    exact answers_of_done (h _) rfl (fun _ => if_pos hctx) fun _ _ _ => ⟨by simp, fun hlt => absurd hctx (by omega)⟩
  · rw [if_neg hctx]
    by_cases hgoes : (ctxOf s ctx.toNat).ebud = 0 ∨ (ctxOf s ctx.toNat).exhausted = false
    · rw [if_pos hgoes]
      exact answers_of_done (h _) rfl (fun _ => (if_neg hctx).trans (if_pos hgoes)) fun _ _ _ =>
        ⟨by simp, fun _ hebud => by simpa using hgoes.resolve_left hebud⟩
    · rw [if_neg hgoes]
      exact answers_of_done (h _) rfl (fun _ => (if_neg hctx).trans (if_neg hgoes)) fun _ _ _ => ⟨by simp, fun _ _ => by simp⟩

theorem histread_effect (ch buf : BitVec 64) (hch : ch.toNat < 24) :
    ∃ t, exec (.histread tag ch buf) s = .next t ∧ answers t tag 0 ∧ ∀ i, i < 64 →
      leNat (readBytes t (hostBase + buf.toNat + 8 * i) 8) = ((lget ({} : Chan) ch.toNat s.chans).hist.getD i (0, false)).1.toNat := by
  refine answers_of_done (h _) rfl (fun _ => if_neg (Nat.not_le.2 hch)) fun v w l i hi => ?_
  rw [readBytes_onMailbox, readBytes_hostWrite _ _ _ _ _ (by simp; omega), take_drop_flatMap (fun _ => length_leBytes _ _) _ (by simpa using hi),
    leNat_leBytes]
  have hget (es : List (BitVec 64 × Bool)) : (es.map (·.1)).getD i 0 = (es.getD i (0, false)).1 := by
    simp only [List.getD_eq_getElem?_getD, List.getElem?_map]
    cases es[i]? <;> rfl
  simp only [List.getElem_range, hget, onMailbox_chans]
  exact Nat.mod_eq_of_lt (BitVec.isLt _)

theorem schedset_effect (us : BitVec 64) :
    ∃ t, exec (.schedset tag us) s = .next t ∧ answers t tag (if 1000000 < us.toNat then 2 else 0) ∧
      t.margin = if 1000000 < us.toNat then s.margin else us.toNat := by
  by_cases hbad : 1000000 < us.toNat
  · simp only [if_pos hbad]
    exact answers_of_done (h _) rfl (fun _ => if_pos hbad) fun _ _ _ => by simp
  · simp only [if_neg hbad]
    exact answers_of_done (h _) rfl (fun _ => if_neg hbad) fun _ _ _ => by simp

theorem lateact_effect (queue act : BitVec 64) :
    ∃ t, exec (.lateact tag queue act) s = .next t ∧
      answers t tag (if 127 < queue.toNat ∨ 1 < act.toNat then 2
        else if (lget ({} : Queue) queue.toNat s.queues).reported = false then 1 else 0) ∧
      (queue.toNat ≤ 127 → act.toNat ≤ 1 → (lget ({} : Queue) queue.toNat s.queues).reported = true →
        (lget ({} : Queue) queue.toNat t.queues).reported = false ∧ (lget ({} : Queue) queue.toNat t.queues).act = some act.toNat) := by
  by_cases hargs : 127 < queue.toNat ∨ 1 < act.toNat
  · rw [if_pos hargs]
    exact answers_of_done (h _) rfl (fun _ => if_pos hargs) fun _ _ _ hq ha => absurd hargs (by omega)
  · rw [if_neg hargs]
    by_cases hrep : (lget ({} : Queue) queue.toNat s.queues).reported = false
    · rw [if_pos hrep]
      exact answers_of_done (h _) rfl (fun _ => (if_neg hargs).trans (if_pos hrep)) fun _ _ _ _ _ hr => absurd (hr.symm.trans hrep) (by simp)
    · rw [if_neg hrep]
      exact answers_of_done (h _) rfl (fun _ => (if_neg hargs).trans (if_neg hrep)) fun _ _ _ _ _ _ => by
        rw [onMailbox_queues, lget_modQueue_same]; exact ⟨rfl, rfl⟩

theorem powerset_effect (watts : BitVec 64) :
    ∃ t, exec (.powerset tag watts) s = .next t ∧
      answers t tag (if s.pw.fuse = true then 1 else if watts.toNat < 300 ∨ 720 < watts.toNat then 2 else 0) ∧
      t.pw.limit = if s.pw.fuse = false ∧ 300 ≤ watts.toNat ∧ watts.toNat ≤ 720 then watts.toNat else s.pw.limit := by
  by_cases hfuse : s.pw.fuse = true
  · rw [if_pos hfuse]
    exact answers_of_done (h _) rfl (fun _ => if_pos hfuse) fun _ _ _ => by simp [hfuse]
  · rw [if_neg hfuse]
    by_cases hbad : watts.toNat < 300 ∨ 720 < watts.toNat
    · rw [if_pos hbad]
      exact answers_of_done (h _) rfl (fun _ => (if_neg hfuse).trans (if_pos hbad)) fun _ _ _ => by
        rw [if_neg (by omega)]; simp
    · rw [if_neg hbad]
      exact answers_of_done (h _) rfl (fun _ => (if_neg hfuse).trans (if_neg hbad)) fun _ _ _ => by
        rw [if_pos ⟨by simpa using hfuse, by omega, by omega⟩]; simp

theorem ident_effect (buf : BitVec 64) :
    ∃ t, exec (.ident tag buf) s = .next t ∧ answers t tag 0 ∧
      readBytes t (hostBase + buf.toNat) (Config.identBytes ()).length = Config.identBytes () := by
  refine answers_of_done (h _) rfl (fun _ => rfl) fun v w l => ?_
  simpa using readBytes_hostWrite buf (Config.identBytes ()) (onMailbox v s.sent s) 0 (Config.identBytes ()).length (by simp)

theorem attest_effect (buf n0 n1 n2 n3 n4 n5 : BitVec 64) :
    ∃ t, exec (.attest tag buf [n0, n1, n2, n3, n4, n5]) s = .next t ∧ answers t tag 0 ∧
      leNat (readBytes t (hostBase + buf.toNat) 4) = 0x54415856 ∧
      readBytes t (hostBase + buf.toNat + 76) 48 = [n0, n1, n2, n3, n4, n5].flatMap fun w => leBytes 8 w.toNat := by
  refine answers_of_done (h _) rfl (fun _ => rfl) fun v w l => ?_
  simp only [readBytes_onMailbox]
  constructor
  · rw [show hostBase + buf.toNat = hostBase + buf.toNat + 0 from rfl, readBytes_hostWrite _ _ _ _ _ (by simp [reportBody])]
    simp [reportBody, leNat_leBytes]
  · rw [readBytes_hostWrite _ _ _ _ _ (by simp [reportBody]), report_nonce]
    exact fitBytes_eq_self (by simp)

theorem fwload_answers (buf len : BitVec 64) (hrecovery : s.pw.recovery = false) :
    ∃ t, exec (.fwload tag buf len) s = .next t ∧ answers t tag 1 ∧ t.pw = s.pw :=
  answers_of_done (h _) rfl (fun _ => if_neg (by simp [hrecovery])) fun _ _ _ => by simp

theorem mailboxUnassigned_answers (code : BitVec 16) (hcode : code.toNat ∉ assignedCodes) :
    ∃ t, exec (.mailboxUnassigned tag code) s = .next t ∧ answers t tag 2 ∧ t.mem = s.mem :=
  answers_of_done (h _) (if_neg (by simpa using hcode)) (fun _ => rfl) fun _ _ _ => by simp

end Commands
end Sys2Proof.Machine
end

section
/-! PROOF. The commands on husks (R303), and the mailbox in recovery mode (R329). -/

namespace Sys2Proof.Machine

/-- The state with another count of free values drawn. -/
def withFrees (n : Nat) (s : State) : State := { s with frees := n }

@[simp] theorem withFrees_husks (n : Nat) (s : State) : (withFrees n s).husks = s.husks := rfl
@[simp] theorem withFrees_pw (n : Nat) (s : State) : (withFrees n s).pw = s.pw := rfl
@[simp] theorem readByte_withFrees (n : Nat) (s : State) (k : Nat) : readByte (withFrees n s) k = readByte s k := rfl

@[simp] theorem hostWrite_husks (buf : BitVec 64) (bs : List Byte) (s : State) : (hostWrite buf bs s).husks = s.husks := rfl

/-- The code bytes of a span that HUSKEXP reads draw free values at most. -/
theorem spanBytes_state (sv : Saved) (i m : Nat) (s : State) : ∃ n, (spanBytes sv i m s).1 = withFrees n s := by
  unfold spanBytes
  split
  · exact ⟨_, rfl⟩
  · exact ⟨s.frees, rfl⟩

theorem codeBytes_state (sv : Saved) (i : Nat) (ms : List Nat) (s : State) : ∃ n, (codeBytes sv i ms s).1 = withFrees n s := by
  induction ms generalizing i s with
  | nil => exact ⟨s.frees, rfl⟩
  | cons m ms ih =>
    obtain ⟨n, hspan⟩ := spanBytes_state sv i m s
    obtain ⟨n', hrest⟩ := ih (i + 1) (spanBytes sv i m s).1
    exact ⟨n', hrest.trans (by rw [hspan]; rfl)⟩

section Husks
variable {s : State} (h : ∀ code, takesCommand code s) (tag : BitVec 16) (ctx off buf : BitVec 64)
include h

theorem huskexp_effect :
    ∃ t, exec (.huskexp tag ctx off buf) s = .next t ∧ answers t tag (if (huskAt s ctx.toNat off.toNat).isSome then 0 else 2) ∧
      t.husks = s.husks ∧ ∀ k, isLocal k = true → readByte t k = readByte s k := by
  refine answers_of_each (h _) rfl fun v => ?_
  dsimp only
  rw [huskAt_onMailbox]
  cases huskAt s ctx.toNat off.toNat with
  | none => exact ⟨_, rfl, fun w l => ⟨by simp, fun k _ => by simp⟩⟩
  | some e =>
    obtain ⟨n, hcodes⟩ := codeBytes_state e.2 0 (metaSizes e.2).2 (onMailbox v s.sent s)
    refine ⟨_, rfl, fun w l => ⟨by simp [hcodes], fun k hk => ?_⟩⟩
    simp [hcodes, readByte_hostWrite_local _ _ _ hk]

theorem huskimp_effect :
    ∃ t, exec (.huskimp tag ctx off buf) s = .next t ∧ answers t tag (if (huskAt s ctx.toNat off.toNat).isSome then 0 else 2) ∧
      t.mem = s.mem ∧ ∀ e ∈ huskAt s ctx.toNat off.toNat, ∀ v ∈ lfind e.1 t.husks,
        v.blk = e.2.blk ∧ v.warps = e.2.warps ∧ v.codes.length = unitCount e.2.blk := by
  refine answers_of_each (h _) rfl fun v => ?_
  dsimp only
  rw [huskAt_onMailbox]
  cases huskAt s ctx.toNat off.toNat with
  | none => exact ⟨_, rfl, fun w l => ⟨by simp, by simp⟩⟩
  | some e =>
    refine ⟨_, rfl, fun w l => ⟨by simp, fun e' he' u hu => ?_⟩⟩
    obtain rfl := Option.mem_some.1 he'
    simp only [onMailbox_husks, lfind_lput, if_pos, Option.mem_some] at hu
    subst hu
    exact ⟨rfl, rfl, by simp [metaFrom]⟩

end Husks

/-- The image that FWLOAD takes from its buffer. -/
def loadedImage (s : State) (buf len : BitVec 64) : FwImage :=
  let f := Config.imageOf (readBytes s (hostBase + buf.toNat) len.toNat)
  { body := f.1, secver := f.2.1, version := f.2.2.1, sig := f.2.2.2 }

section Recovery
variable {s : State} (hready : hostReady s = true) (hidle : s.rw.running = none) (hrecovery : s.pw.recovery = true) (tag : BitVec 16)
include hready hidle hrecovery

theorem schedset_recovery (us : BitVec 64) : ∃ t, exec (.schedset tag us) s = .next t ∧ answers t tag 1 ∧ t.margin = s.margin :=
  answers_recovery hready hidle hrecovery (by decide) rfl fun _ _ => by simp

theorem fwload_runs (buf len : BitVec 64) (hok : imageOk (loadedImage s buf len) s = true) :
    ∃ t, exec (.fwload tag buf len) s = .next t ∧ answers t tag 0 ∧ t.pw = (runImage (loadedImage s buf len) s).pw :=
  answers_of_done ⟨hready, hidle, by simp⟩ rfl (fun _ => (if_pos hrecovery).trans (if_pos hok)) fun _ _ _ => rfl

theorem fwload_fails (buf len : BitVec 64) (hbad : imageOk (loadedImage s buf len) s = false) :
    ∃ t, exec (.fwload tag buf len) s = .next t ∧ (answers t tag 1 ∨ answers t tag 2) ∧ t.pw = s.pw := by
  obtain ⟨t, hexec, hanswers, hpw⟩ : ∃ t, exec (.fwload tag buf len) s = .next t ∧
      answers t tag (if Config.freeBool s.frees then 1 else 2) ∧ t.pw = s.pw :=
    answers_of_done (f := fun v => withFrees (s.frees + 1) (onMailbox v s.sent s)) ⟨hready, hidle, by simp⟩ rfl
      (fun _ => (if_pos hrecovery).trans (if_neg (Bool.eq_false_iff.1 hbad))) fun _ _ _ => by simp
  cases hfree : Config.freeBool s.frees <;> rw [hfree] at hanswers
  · exact ⟨t, hexec, .inr hanswers, hpw⟩
  · exact ⟨t, hexec, .inl hanswers, hpw⟩

end Recovery
end Sys2Proof.Machine
end

section
/-! PROOF. The ends of PARTOFF and of PARTFMT (R241). -/

namespace Sys2Proof.Machine

@[simp] theorem modPart_warps (p : Nat) (f : Part → Part) (s : State) : (modPart p f s).warps = s.warps := rfl
@[simp] theorem modPart_l2 (p : Nat) (f : Part → Part) (s : State) : (modPart p f s).l2 = s.l2 := rfl
@[simp] theorem modPart_mem (p : Nat) (f : Part → Part) (s : State) : (modPart p f s).mem = s.mem := rfl
@[simp] theorem isDamaged_modPart (p : Nat) (f : Part → Part) (s : State) (u : Nat) : isDamaged (modPart p f s) u = isDamaged s u := rfl

theorem writebackWhere_embedded (p : Nat → Bool) (s : State) : embed s (writebackWhere p s) = writebackWhere p s :=
  embed_of_commutes (fun x u => writebackWhere_embed x u p) s

theorem writebackWhere_mboxCmd (p : Nat → Bool) (s : State) : (writebackWhere p s).rw.mboxCmd = s.rw.mboxCmd :=
  (congrArg (fun u => u.rw.mboxCmd) (writebackWhere_embedded p s)).symm

theorem writebackWhere_warps (p : Nat → Bool) (s : State) : (writebackWhere p s).warps = s.warps :=
  (congrArg State.warps (writebackWhere_embedded p s)).symm

theorem exec_partoffDone {s : State} {p : Nat} (hrunning : s.rw.running = some (0x40, [p])) (hbusy : partBusy s p = false) :
    exec .partoffDone s =
      let u := writebackWhere (fun l => inPart p (128 * l)) s
      .next (completeCommand (runningTag u) 0 (modPart p (fun x => { x with state := 0 }) u)) := by
  show execPartoffDone s = _
  unfold execPartoffDone
  rw [hrunning]
  simp [hbusy]

theorem partoffDone_effect {s : State} {p : Nat} (hrunning : s.rw.running = some (0x40, [p])) (hbusy : partBusy s p = false) :
    ∃ t, exec .partoffDone s = .next t ∧ answers t (BitVec.ofNat 16 (runningTag s)) 0 ∧ (lget ({} : Part) p t.parts).state = 0 ∧
      t.warps = s.warps := by
  refine answers_of_completes (exec_partoffDone hrunning hbusy) (writebackWhere_mboxCmd _ _) fun w l => ⟨?_, ?_⟩
  · rw [onMailbox_parts, lget_modPart_same]
  · rw [onMailbox_warps, modPart_warps, writebackWhere_warps]

/-- A key lies in the partition that its quotient names. -/
theorem inPart_eq (p k : Nat) : inPart p k = decide (k / 2 ^ 31 = p) := by
  rw [inPart, ← Bool.decide_and]
  exact decide_eq_decide.2 (by omega)

/-- What PARTFMT_DONE leaves of memory: nothing of the partition. -/
def clearedPart (p : Nat) (s : State) : State :=
  { s with
    mem := s.mem.filter fun e => !inPart p e.1
    poison := s.poison.filter fun e => !inPart p (32 * e.1)
    dmgData := s.dmgData.filter fun e => !inPart p e.1
    dmgCheck := s.dmgCheck.filter fun e => !inPart p (64 * (e.1 / 8))
    l2 := s.l2.filter fun e => !inPart p (32 * e.1)
    chans := lmap (fun ch c => { c with hist := c.hist.filter fun e => !rowEntry ch p e }) s.chans }

section Cleared
variable (p : Nat) (s : State)

theorem clearedPart_byte (k : Nat) : lget 0 k (clearedPart p s).mem = if inPart p k then 0 else lget 0 k s.mem := by
  refine (lget_filter_keys 0 (fun j => !inPart p j) k s.mem).trans ?_
  cases inPart p k <;> rfl

theorem clearedPart_sector (sec : Nat) :
    lfind sec (clearedPart p s).l2 = if inPart p (32 * sec) then none else lfind sec s.l2 := by
  refine (lfind_filter_keys (fun j => !inPart p (32 * j)) sec s.l2).trans ?_
  cases inPart p (32 * sec) <;> rfl

/-- What a filter leaves of the entries that it treats alike. -/
theorem any_filter_const {α : Type} {keep here : α → Bool} {b : Bool} (hkeep : ∀ e, here e = true → keep e = b) (l : List α) :
    (l.filter keep).any here = (b && l.any here) := by
  induction l with
  | nil => simp
  | cons e l ih =>
    have he := hkeep e
    cases hh : here e <;> cases hk : keep e <;> simp_all

/-- A unit of the partition is sound; any other is as it was. -/
theorem clearedPart_isDamaged (u : Nat) : isDamaged (clearedPart p s) u = (!inPart p (64 * u) && isDamaged s u) := by
  have hdata := any_filter_const (keep := fun e : Nat × Byte => !inPart p e.1) (here := fun e => e.1 / 64 == u)
    (b := !inPart p (64 * u)) (fun e he => by
      have hsame : e.1 / 2 ^ 31 = 64 * u / 2 ^ 31 := by have := beq_iff_eq.1 he; omega
      rw [inPart_eq, inPart_eq, hsame]) s.dmgData
  have hcheck := any_filter_const (keep := fun e : Nat × Byte => !inPart p (64 * (e.1 / 8))) (here := fun e => e.1 / 8 == u)
    (b := !inPart p (64 * u)) (fun e he => by rw [beq_iff_eq.1 he]) s.dmgCheck
  rw [isDamaged, isDamaged, Bool.and_or_distrib_left]
  exact congrArg₂ or hdata hcheck

theorem clearedPart_unitDamage (u : Nat) (hout : inPart p (64 * u) = false) : unitDamage (clearedPart p s) u = unitDamage s u := by
  refine congrArg₂ Prod.mk (List.map_congr_left fun i hi => ?_) (List.map_congr_left fun i hi => ?_)
  · have hi := List.mem_range.1 hi
    refine (lget_filter_keys 0 (fun j => !inPart p j) _ s.dmgData).trans (if_pos ?_)
    simp only [inPart_eq, decide_eq_false_iff_not, Bool.not_eq_true'] at hout ⊢
    omega
  · have hi := List.mem_range.1 hi
    refine (lget_filter_keys 0 (fun j => !inPart p (64 * (j / 8))) _ s.dmgCheck).trans (if_pos ?_)
    rw [show (8 * u + i) / 8 = u by omega, hout]
    rfl

/-- Memory once PARTFMT_DONE has cleared a partition, whatever the partition's record becomes. -/
theorem readByte_clearedPart {p : Nat} (hp : p < 96) (f : Part → Part) (s : State) (k : Nat) :
    readByte (modPart p f (clearedPart p s)) k = if inPart p k then 0 else readByte s k := by
  have hbyte := clearedPart_byte p s k
  have hsector : inPart p (32 * (k / 32)) = inPart p k := by
    rw [inPart_eq, inPart_eq, show 32 * (k / 32) / 2 ^ 31 = k / 2 ^ 31 by omega]
  have hunit : inPart p (64 * (k / 64)) = inPart p k := by
    rw [inPart_eq, inPart_eq, show 64 * (k / 64) / 2 ^ 31 = k / 2 ^ 31 by omega]
  have hl2 := clearedPart_sector p s (k / 32)
  have hdamaged := clearedPart_isDamaged p s (k / 64)
  rw [hsector] at hl2
  rw [hunit] at hdamaged
  cases hin : inPart p k with
  | true =>
    have hlocal : isLocal k = true := by
      simp only [inPart_eq, decide_eq_true_eq] at hin
      simp only [isLocal, decide_eq_true_eq]
      omega
    simpa [readByte, hlocal, hl2, hdamaged, hin] using hbyte
  | false =>
    cases hlocal : isLocal k with
    | false => simpa [readByte, hlocal, hin] using hbyte
    | true =>
      have hother : k / 2 ^ 31 ≠ p := by simpa [inPart_eq] using hin
      refine readByte_congr hlocal (by simp [hl2, hin]) (fun j hj => ?_) ?_ (by simp [hdamaged, hin]) ?_
      · refine (clearedPart_byte p s j).trans (if_neg ?_)
        rw [inPart_eq, show j / 2 ^ 31 = k / 2 ^ 31 by omega]
        simpa using hother
      · exact clearedPart_unitDamage p s _ (by rw [hunit, hin])
      · exact congrArg Part.cls (lget_lset_other _ (by omega) _ _)

end Cleared

theorem exec_partfmtDone {s : State} {p cls : Nat} (hrunning : s.rw.running = some (0x41, [p, cls])) :
    exec .partfmtDone s = .next (completeCommand (runningTag (clearedPart p s)) 0
      (modPart p (fun _ => { cls := cls, state := 0, formatted := true }) (clearedPart p s))) := by
  show execPartfmtDone s = _
  unfold execPartfmtDone
  rw [hrunning]
  rfl

theorem partfmtDone_effect {s : State} {p cls : Nat} (hrunning : s.rw.running = some (0x41, [p, cls])) :
    ∃ t, exec .partfmtDone s = .next t ∧ answers t (BitVec.ofNat 16 (runningTag s)) 0 ∧
      lget {} p t.parts = { cls := cls, state := 0, formatted := true } ∧
      (∀ k, p < 96 → readByte t k = if inPart p k then 0 else readByte s k) ∧
      (∀ e ∈ t.poison, inPart p (32 * e.1) = false) ∧ ∀ e ∈ t.l2, inPart p (32 * e.1) = false := by
  refine answers_of_completes (exec_partfmtDone hrunning) rfl fun w l => ⟨?_, fun k hp => ?_, fun e he => ?_, fun e he => ?_⟩
  · rw [onMailbox_parts, lget_modPart_same]
  · rw [readByte_onMailbox, readByte_clearedPart hp]
  · simpa using (List.mem_filter.1 he).2
  · simpa using (List.mem_filter.1 he).2

end Sys2Proof.Machine
end

section
/-! PROOF. The beginning of CODEMOVE: the object's blocks stop (R317, steps 1 and 2). -/

namespace Sys2Proof.Machine

theorem blkOf_modBlk (b c : Nat) (f : Block → Block) (s : State) :
    blkOf (modBlk b f s) c = if b = c ∧ (lfind c s.blocks).isSome then f (blkOf s c) else blkOf s c := lget_lmod _ _ _ _ _

theorem isSome_lfind_lmod {α : Type} (k j : Nat) (f : α → α) (m : SMap α) : (lfind j (lmod k f m)).isSome = (lfind j m).isSome := by
  rw [lfind_lmod]
  split <;> simp

/-- A listed key is found. -/
theorem isSome_lfind_of_mem {α : Type} {e : Nat × α} {m : SMap α} (he : e ∈ m) : (lfind e.1 m).isSome = true := by
  induction m with
  | nil => simp at he
  | cons a m ih =>
    rw [lfind_cons]
    split
    · rfl
    · next hne => exact ih ((List.mem_cons.1 he).resolve_left fun h => hne (by rw [h]))

theorem isSome_of_mem_objectBlocks {s : State} {ctx object b : Nat} (hb : b ∈ objectBlocks s ctx object) :
    (lfind b s.blocks).isSome = true := by
  obtain ⟨e, he, rfl⟩ := List.mem_map.1 hb
  exact isSome_lfind_of_mem (List.mem_filter.1 he).1

/-- Which blocks run an object follows from the blocks and the packets of the grids. -/
theorem objectBlocks_congr {s t : State} (hblocks : t.blocks = s.blocks) (hgrids : ∀ g, (gridOf t g).pkt.object = (gridOf s g).pkt.object)
    (ctx object : Nat) : objectBlocks t ctx object = objectBlocks s ctx object := by
  simp only [objectBlocks, hblocks, hgrids]

theorem stopForMove_listed (b c : Nat) (s : State) : (lfind c (stopForMove b s).blocks).isSome = (lfind c s.blocks).isSome :=
  isSome_lfind_lmod _ _ _ _

theorem stopForMove_stops (b : Nat) (s : State) (hlisted : (lfind b s.blocks).isSome = true) :
    (blkOf (stopForMove b s) b).stopAt.isSome = true := by
  rw [stopForMove, blkOf_modBlk, if_pos ⟨rfl, hlisted⟩]
  split
  · assumption
  · rfl

theorem stopForMove_keeps (b c : Nat) (s : State) (hstopped : (blkOf s c).stopAt.isSome = true) :
    (blkOf (stopForMove b s) c).stopAt.isSome = true := by
  rw [stopForMove, blkOf_modBlk]
  split <;> exact hstopped

theorem foldl_stopForMove (bs : List Nat) (s : State) (c : Nat) (hlisted : (lfind c s.blocks).isSome = true)
    (hc : c ∈ bs ∨ (blkOf s c).stopAt.isSome = true) : (blkOf (bs.foldl (fun s b => stopForMove b s) s) c).stopAt.isSome = true := by
  induction bs generalizing s with
  | nil => exact hc.resolve_left (by simp)
  | cons b bs ih =>
    refine ih (stopForMove b s) (by rw [stopForMove_listed, hlisted]) ?_
    rcases hc with hmem | hstopped
    · rcases List.mem_cons.1 hmem with rfl | hmem
      · exact .inr (stopForMove_stops c s hlisted)
      · exact .inl hmem
    · exact .inr (stopForMove_keeps b c s hstopped)

theorem onMailbox_embed (c : BitVec 64) (m : SMap (BitVec 64)) (s : State) :
    onMailbox { s.rw with mboxCmd := c, mboxArgs := m } s.sent s =
      embed (onMailbox { s.rw with mboxCmd := c, mboxArgs := m } s.sent s) s := rfl

/-- A command's word and arguments lie outside the memory system. -/
theorem commanded_embed (code : Nat) (tag : BitVec 16) (args : List (BitVec 64)) (s : State) :
    ∃ x, commanded code tag args s = embed x s ∧ x.blocks = s.blocks ∧ x.grids = s.grids := by
  refine ⟨_, (commanded_eq _ _ _ _).trans (onMailbox_embed _ _ s), ?_, ?_⟩
  · rw [onMailbox_blocks]
  · rw [onMailbox_grids]

theorem codemove_runs {s : State} (h : takesCommand 0x54 s) (tag : BitVec 16) (ctx handle base : BitVec 64) (hctx : ctx.toNat < 64)
    (halign : base.toNat % 64 = 0) (hbase : base.toNat < 2 ^ 56) (hhandle : handle.toNat < 2 ^ 32)
    (hobject : (readObject ctx.toNat handle.toNat s).2 ≠ .bad) :
    ∃ t, exec (.codemove tag ctx handle base) s = .next t ∧ runsOn t tag 0x54 [ctx.toNat, handle.toNat, base.toNat] ∧
      ∀ b ∈ objectBlocks s ctx.toNat handle.toNat, (blkOf t b).stopAt.isSome = true := by
  obtain ⟨x, hx, hblocks, hgrids⟩ := commanded_embed 0x54 tag [ctx, handle, base] s
  have hargs : ¬ (64 ≤ ctx.toNat ∨ base.toNat % 64 ≠ 0 ∨ 2 ^ 56 ≤ base.toNat ∨ 2 ^ 32 ≤ handle.toNat) := by omega
  obtain ⟨⟨u, r⟩, hread⟩ : ∃ r, readObject ctx.toNat handle.toNat s = r := ⟨_, rfl⟩
  rw [hread] at hobject
  have hsame : objectBlocks (embed x u) ctx.toNat handle.toNat = objectBlocks s ctx.toNat handle.toNat :=
    objectBlocks_congr hblocks (fun g => by rw [gridOf, gridOf]; exact congrArg (fun m => (lget Grid.nil g m).pkt.object) hgrids) _ _
  refine runsOn_of_commanded (args := [ctx, handle, base]) (u := (objectBlocks (embed x u) ctx.toNat handle.toNat).foldl
    (fun s b => stopForMove b s) (embed x u)) h rfl ((if_neg hargs).trans ?_) fun w b hb => ?_
  · rw [hx, readObject_embed, hread]
    cases r with
    | bad => exact absurd rfl hobject
    | _ => rfl
  · rw [blkOf_onMailbox, hsame]
    exact foldl_stopForMove _ _ b ((congrArg (fun m => (lfind b m).isSome) hblocks).trans (isSome_of_mem_objectBlocks hb)) (.inl hb)

end Sys2Proof.Machine
end

section
/-! PROOF. The end of CODEMOVE: the image moves, and the object's blocks go on (R317, steps 3 to 7). -/

namespace Sys2Proof.Machine

/-- What a read of the memory system leaves, where the state before lies in a device. -/
theorem embedded_of_commutes {α : Type} {f : State → State × α} (hf : ∀ x u, f (embed x u) = embedFst x (f u)) {x s t : State} {r : α}
    (hs : embed x s = s) (h : f s = (t, r)) : embed x t = t := by
  have hcomm := hf x s
  rw [hs, h] at hcomm
  exact (congrArg Prod.fst hcomm).symm

/-- A range of addresses that begins with one that has a key gives that key first. -/
theorem writeKeys_cons_ok {ctx a : Nat} {as : List Nat} {s t : State} {ds : List (Nat × Nat)}
    (h : writeKeys ctx (a :: as) s = (t, .ok ds)) : ∃ k ds', ds = (a, k) :: ds' := by
  unfold writeKeys at h
  generalize devTranslate ctx a true false s = d at h
  obtain ⟨u, r⟩ := d
  cases r with
  | ok k =>
    dsimp only at h
    generalize writeKeys ctx as u = e at h
    obtain ⟨v, q⟩ := e
    cases q with
    | ok l => cases h; exact ⟨k, l, rfl⟩
    | _ => cases h
  | _ =>
    have hdests := congrArg Prod.snd h
    dsimp only at hdests
    split at hdests <;> cases hdests

/-- A grid whose blocks run the object takes the image's new base. -/
def rebase (ctx handle base : Nat) (g : Grid) : Grid :=
  if g.ctx = ctx ∧ g.pkt.object = handle then { g with obj := { g.obj with base := base } } else g

theorem rebase_pkt (ctx handle base : Nat) (g : Grid) : (rebase ctx handle base g).pkt = g.pkt := by
  unfold rebase
  split <;> rfl

theorem base_of_mem_rebased {ctx handle base : Nat} {gs : SMap Grid} {g : Nat × Grid}
    (hg : g ∈ lmap (fun _ => rebase ctx handle base) gs) (hctx : g.2.ctx = ctx) (hobject : g.2.pkt.object = handle) : g.2.obj.base = base := by
  obtain ⟨e, -, rfl⟩ := List.mem_map.1 hg
  dsimp only at hctx hobject ⊢
  by_cases hmine : e.2.ctx = ctx ∧ e.2.pkt.object = handle
  · simp [rebase, hmine]
  · simp only [rebase, if_neg hmine] at hctx hobject
    exact absurd ⟨hctx, hobject⟩ hmine

/-- What the move itself leaves: the blocks and the mailbox's command, and the grids with the new base. -/
theorem moveImage_leaves {x s : State} (hs : embed x s = s) (ctx handle base : Nat) (image : List Byte) (ds : List (Nat × Nat)) (k : Nat) :
    (moveImage ctx handle base image ds k s).blocks = x.blocks ∧
      (moveImage ctx handle base image ds k s).rw.mboxCmd = x.rw.mboxCmd ∧
      (moveImage ctx handle base image ds k s).grids = lmap (fun _ => rebase ctx handle base) x.grids := by
  have hcopied (ds : List (Nat × Nat)) (f : Nat × Nat → List Byte) : embed x (ds.foldl (fun s d => devStore d.2 (f d) s) s) =
      ds.foldl (fun s d => devStore d.2 (f d) s) s := by
    rw [← List.foldl_hom (embed x) (g₂ := fun s d => devStore d.2 (f d) s) fun u d => devStore_embed x u _ _, hs]
  have hmoved : embed x _ = _ := (sliceWrite_embed x _ k (leBytes 8 base) (.set (some { deviceStamp with scope := 3 }))).symm.trans
    (congrArg _ (hcopied ds fun d => (image.drop (d.1 - base)).take (4096 - d.1 % 4096)))
  refine ⟨?_, ?_, ?_⟩
  · exact (congrArg State.blocks hmoved).symm
  · exact (congrArg (fun u => u.rw.mboxCmd) hmoved).symm
  · exact (congrArg (fun u => lmap (fun _ => rebase ctx handle base) u.grids) hmoved).symm

@[simp] theorem blkOf_devForget (ctx b : Nat) (s : State) : blkOf (devForget ctx s) b = blkOf s b := rfl

/-- Step 7 for one block. -/
def releaseBlock (b : Nat) (s : State) : State :=
  if (blkOf s b).moveStop then
    modBlk b (fun x => { x with stopAt := none, moveStop := false })
      { s with warps := lmap (fun _ (w : Warp) => if w.bid = b then staleWords { w with stopped := false } else w) s.warps }
  else s

theorem releaseMoved_eq (ctx object : Nat) (s : State) :
    releaseMoved ctx object s = (objectBlocks s ctx object).foldl (fun s b => releaseBlock b s) s := rfl

theorem releaseBlock_grids (b : Nat) (s : State) : (releaseBlock b s).grids = s.grids := by
  unfold releaseBlock
  split <;> rfl

theorem releaseMoved_grids (ctx object : Nat) (s : State) : (releaseMoved ctx object s).grids = s.grids :=
  foldl_keeps (P := fun u => u.grids = s.grids) (fun u b hu => (releaseBlock_grids b u).trans hu) _ rfl

/-- A block that stands for a CODEMOVE is listed: no other block is marked so. -/
theorem isSome_of_moveStop {s : State} {b : Nat} (h : (blkOf s b).moveStop = true) : (lfind b s.blocks).isSome = true := by
  unfold blkOf lget at h
  cases hfind : lfind b s.blocks with
  | none => rw [hfind] at h; cases h
  | some x => rfl

/-- The block that is released stops no more. -/
theorem releaseBlock_same {b : Nat} {s : State} (h : (blkOf s b).moveStop = true) : (blkOf (releaseBlock b s) b).stopAt = none := by
  unfold releaseBlock
  rw [if_pos h, blkOf_modBlk, if_pos ⟨rfl, isSome_of_moveStop h⟩]

theorem releaseBlock_other {b c : Nat} (hne : b ≠ c) (s : State) : blkOf (releaseBlock b s) c = blkOf s c := by
  unfold releaseBlock
  split
  · exact (blkOf_modBlk _ _ _ _).trans (if_neg fun h => hne h.1)
  · rfl

/-- Releasing a block does not stop one again. -/
theorem releaseBlock_keeps {b c : Nat} {s : State} (h : (blkOf s c).stopAt = none) : (blkOf (releaseBlock b s) c).stopAt = none := by
  by_cases hne : b = c
  · subst hne
    by_cases hmove : (blkOf s b).moveStop = true
    · exact releaseBlock_same hmove
    · rw [releaseBlock, if_neg hmove, h]
  · rw [releaseBlock_other hne, h]

theorem foldl_releaseBlock (bs : List Nat) (s : State) (c : Nat) (hc : (c ∈ bs ∧ (blkOf s c).moveStop = true) ∨ (blkOf s c).stopAt = none) :
    (blkOf (bs.foldl (fun s b => releaseBlock b s) s) c).stopAt = none := by
  induction bs generalizing s with
  | nil => exact hc.resolve_left (by simp)
  | cons b bs ih =>
    refine ih (releaseBlock b s) ?_
    rcases hc with ⟨hmem, hmove⟩ | hgoes
    · by_cases hne : b = c
      · subst hne
        exact .inr (releaseBlock_same hmove)
      · exact .inl ⟨(List.mem_cons.1 hmem).resolve_left (Ne.symm hne), by rw [releaseBlock_other hne, hmove]⟩
    · exact .inr (releaseBlock_keeps hgoes)

/-- A move's blocks in the state that it began in. -/
theorem objectBlocks_moved {s t : State} {ctx handle base : Nat} (hblocks : t.blocks = s.blocks)
    (hgrids : t.grids = lmap (fun _ => rebase ctx handle base) s.grids) (c o : Nat) : objectBlocks t c o = objectBlocks s c o := by
  refine objectBlocks_congr hblocks (fun g => ?_) c o
  simp only [gridOf, lget, hgrids, lfind_lmap]
  cases lfind g s.grids with
  | none => rfl
  | some x => exact congrArg Packet.object (rebase_pkt _ _ _ x)

/-- CODEMOVE_COPY where every warp has stopped and every read and every translation is there (R317, steps 3 to 7). -/
theorem exec_codemoveCopy {s s₁ s₂ s₃ s₄ : State} {ctx handle base k : Nat} {o : Obj} {size image : List Byte} {ds : List (Nat × Nat)}
    (hrunning : s.rw.running = some (0x54, [ctx, handle, base]))
    (hstopped : (s.warps.all fun e => !(objectBlocks s ctx handle).contains e.2.bid || warpSettled e.2) = true)
    (hobject : readObject ctx handle s = (s₁, .ok o)) (hsize : devGet ctx (o.base + 8) 4 s₁ = (s₂, .bytes size))
    (hfree : imageLocked s₂ ctx o.base (leNat size) = false) (himage : devGet ctx o.base (leNat size) s₂ = (s₃, .bytes image))
    (hkeys : writeKeys ctx (((ctxOf s₃ ctx).objbase + 16 * (handle % 2 ^ 20)) :: rangePages base (leNat size)) s₃ =
      (s₄, .ok (((ctxOf s₃ ctx).objbase + 16 * (handle % 2 ^ 20), k) :: ds))) :
    exec .codemoveCopy s =
      let u := moveImage ctx handle base image ds k s₄
      .next (completeCommand (runningTag u) 0 (devForget ctx (releaseMoved ctx handle u))) := by
  show execCodemoveCopy s = _
  unfold execCodemoveCopy
  rw [hrunning]
  simp only [hstopped, hobject, hsize, hfree, himage, hkeys]
  rfl

theorem codemoveCopy_effect {s s₁ s₂ s₃ s₄ : State} {ctx handle base : Nat} {o : Obj} {size image : List Byte} {ds : List (Nat × Nat)}
    (hrunning : s.rw.running = some (0x54, [ctx, handle, base]))
    (hstopped : (s.warps.all fun e => !(objectBlocks s ctx handle).contains e.2.bid || warpSettled e.2) = true)
    (hobject : readObject ctx handle s = (s₁, .ok o)) (hsize : devGet ctx (o.base + 8) 4 s₁ = (s₂, .bytes size))
    (hfree : imageLocked s₂ ctx o.base (leNat size) = false) (himage : devGet ctx o.base (leNat size) s₂ = (s₃, .bytes image))
    (hkeys : writeKeys ctx (((ctxOf s₃ ctx).objbase + 16 * (handle % 2 ^ 20)) :: rangePages base (leNat size)) s₃ = (s₄, .ok ds)) :
    ∃ t, exec .codemoveCopy s = .next t ∧ answers t (BitVec.ofNat 16 (runningTag s)) 0 ∧
      (∀ g ∈ t.grids, g.2.ctx = ctx → g.2.pkt.object = handle → g.2.obj.base = base) ∧
      (∀ b ∈ objectBlocks s ctx handle, (blkOf s b).moveStop = true → (blkOf t b).stopAt = none) := by
  obtain ⟨k, ds, rfl⟩ := writeKeys_cons_ok hkeys
  have h₁ : embed s s₁ = s₁ := embedded_of_commutes (fun x u => readObject_embed x u ctx handle) (embed_self s) hobject
  have h₂ : embed s s₂ = s₂ := embedded_of_commutes (fun x u => devGet_embed x u _ _ _) h₁ hsize
  have h₃ : embed s s₃ = s₃ := embedded_of_commutes (fun x u => devGet_embed x u _ _ _) h₂ himage
  have h₄ : embed s s₄ = s₄ := embedded_of_commutes (fun x u => writeKeys_embed x u _ _) h₃ hkeys
  obtain ⟨hblocks, hcommand, hgrids⟩ := moveImage_leaves h₄ ctx handle base image ds k
  refine answers_of_completes (exec_codemoveCopy hrunning hstopped hobject hsize hfree himage hkeys) hcommand fun w l =>
    ⟨fun g hg => ?_, fun b hb hmove => ?_⟩
  · have hg : g ∈ (releaseMoved ctx handle (moveImage ctx handle base image ds k s₄)).grids := hg
    rw [releaseMoved_grids, hgrids] at hg
    exact base_of_mem_rebased hg
  · rw [blkOf_onMailbox, blkOf_devForget, releaseMoved_eq, objectBlocks_moved hblocks hgrids]
    exact foldl_releaseBlock _ _ b (.inl ⟨hb, (congrArg (fun m => (lget Block.nil b m).moveStop) hblocks).trans hmove⟩)

end Sys2Proof.Machine
end

section
/-! PROOF. The mailbox commands together (O52). -/

namespace Sys2Proof.Machine

/-- The object that a check answers with, where it passes. -/
theorem eq_ok_of_mem {r : State × Chk Obj} {o : State × Obj}
    (h : o ∈ (match r with | (x, .ok o) => some (x, o) | _ => (none : Option (State × Obj)))) : r = (o.1, .ok o.2) := by
  obtain ⟨u, c⟩ := r
  cases c <;> cases h
  rfl

/-- The bytes that a read answers with, in the form that a statement gives them. -/
theorem eq_bytes_of_mem {α : Type} {f : List Byte → α} {r : State × Got9} {n : State × α}
    (h : n ∈ (match r with | (x, .bytes b) => some (x, f b) | _ => (none : Option (State × α)))) :
    ∃ bs, r = (n.1, .bytes bs) ∧ n.2 = f bs := by
  obtain ⟨u, c⟩ := r
  cases c <;> cases h
  exact ⟨_, rfl, rfl⟩

/-- The keys that a translation of a range answers with. -/
theorem eq_ok_of_mem_dests {r : State × Dests} {ds : List (Nat × Nat)}
    (h : ds ∈ (match r.2 with | .ok l => some l | _ => (none : Option (List (Nat × Nat))))) : r = (r.1, .ok ds) := by
  obtain ⟨u, c⟩ := r
  cases c <;> cases h
  rfl

/-- Settles O52, command by command: the mailbox's own part is `answers_of_each`, `runsOn_of_commanded` and `answers_of_completes`,
and CODEMOVE, PARTOFF_DONE and CODEMOVE_COPY rest on `embed`, which says what the memory system leaves alone. -/
theorem mailboxCommands : Obligations.MailboxCommands := by
  refine ⟨fun s tag hready hidle hrecovery => ?commands, fun s a ha p hp hbusy => ?partoffDone, fun s a ha p c hp => ?partfmtDone,
    fun s a ha ctx handle base hp hstopped o ho n hn hfree m hm ds hds => ?codemoveCopy,
    fun s tag buf len hready hidle hrecovery => ?recovery⟩
  case commands =>
    have h := takesCommand_of_ready hready hidle hrecovery
    exact ⟨fun part => ⟨parton_answers h tag part, partoff_runs h tag part, partoff_answers h tag part,
        fun cls => ⟨partfmt_runs h tag part cls, partfmt_answers h tag part cls⟩⟩,
      scrubset_effect h tag, retire_effect h tag, budget_effect h tag, resume_effect h tag, fun ch buf hch _ => histread_effect h tag ch buf hch,
      schedset_effect h tag, huskexp_effect h tag, huskimp_effect h tag, lateact_effect h tag,
      fun ctx handle base hctx halign hbase hhandle hobject =>
        codemove_runs (h _) tag ctx handle base hctx halign hbase hhandle fun hbad => by simp [hbad] at hobject,
      powerset_effect h tag, ident_effect h tag, attest_effect h tag, fun buf len => fwload_answers h tag buf len hrecovery,
      mailboxUnassigned_answers h tag⟩
  case partoffDone =>
    subst hp
    exact partoffDone_effect ha hbusy
  case partfmtDone =>
    subst hp
    exact partfmtDone_effect ha
  case codemoveCopy =>
    subst hp
    obtain ⟨size, hsize, hn⟩ := eq_bytes_of_mem hn
    obtain ⟨image, himage, hm⟩ := eq_bytes_of_mem (f := id) hm
    rw [hn] at hfree himage hds
    exact codemoveCopy_effect ha hstopped (eq_ok_of_mem ho) hsize hfree himage (eq_ok_of_mem_dests hds)
  case recovery =>
    refine ⟨fun hsig hroll => ?_, fun hbad => ?_, fun us => schedset_recovery hready hidle hrecovery tag us⟩
    · have hok : imageOk (loadedImage s buf len) s = true := Bool.and_eq_true_iff.2 ⟨hsig, decide_eq_true hroll⟩
      obtain ⟨t, hexec, hanswers, hpw⟩ := fwload_runs hready hidle hrecovery tag buf len hok
      refine ⟨t, hexec, hanswers, ?_⟩
      rw [hpw]
      exact ⟨rfl, rfl, rfl⟩
    · have hfails : imageOk (loadedImage s buf len) s = false :=
        Bool.and_eq_false_iff.2 (hbad.imp_right fun hroll => decide_eq_false (Nat.not_le.2 hroll))
      exact fwload_fails hready hidle hrecovery tag buf len hfails

end Sys2Proof.Machine
end

section
/-! PROOF. A code of a logarithmic format is its S, Z and E fields (R67), and the value it holds keeps each of them (R69, R70). -/

namespace Sys2Proof.Machine

/-- R67: the fields of a code of n bits are S at bit n - 1, Z at bit n - 2 and E below them. -/
theorem code_eq_fields {n w : Nat} (hn : 2 ≤ n) (hw : w < 2 ^ n) :
    (if w / 2 ^ (n - 1) % 2 = 1 then 2 ^ (n - 1) else 0) +
      ((if w / 2 ^ (n - 2) % 2 = 0 then 0 else 2 ^ (n - 2)) + w % 2 ^ (n - 2)) = w := by
  obtain ⟨k, rfl⟩ := Nat.exists_eq_add_of_le' hn
  simp only [Nat.add_sub_cancel, show k + 2 - 1 = k + 1 from rfl]
  have hsplit := Nat.div_add_mod w (2 ^ k)
  have htop : w / 2 ^ k < 4 := Nat.div_lt_of_lt_mul (by simpa [pow_add] using hw)
  rw [pow_succ, ← Nat.div_div_eq_div_mul]
  generalize w / 2 ^ k = q at hsplit htop ⊢
  interval_cases q <;> simp <;> omega

/-- The value of a code has the sign of its S field. -/
theorem lval_sign (F : Fmt) (w : Nat) : (lval F w).sign = decide (w / 2 ^ (F.n - 1) % 2 = 1) := by
  simp only [lval]
  split_ifs <;> rfl

/-- The code of a value, below its sign bit. -/
def lcodeMag (F : Fmt) : LV → Nat
  | .fin _ e => (e % 2 ^ (F.n - 2)).toNat
  | .zero _ => 2 ^ (F.n - 2)
  | .inf _ => 2 ^ (F.n - 2) + 2 ^ (F.n - 3)
  | .nan _ p => 2 ^ (F.n - 2) + p % 2 ^ (F.n - 2)

theorem lcode_eq_sign_add_mag (F : Fmt) (v : LV) :
    lcode F v = (if v.sign then 2 ^ (F.n - 1) else 0) + lcodeMag F v := by
  cases v <;> rfl

/-- Each kind of value takes its Z and E fields back: E is the logarithm of a finite value, read as a two's-complement number,
0 at a zero, E_min at an infinity and the payload of a NaN. -/
theorem lcodeMag_lval (F : Fmt) (w : Nat) :
    lcodeMag F (lval F w) = (if w / 2 ^ (F.n - 2) % 2 = 0 then 0 else 2 ^ (F.n - 2)) + w % 2 ^ (F.n - 2) := by
  have hlog : ((w : Int) % 2 ^ (F.n - 2)).toNat = w % 2 ^ (F.n - 2) := by
    exact_mod_cast Int.toNat_natCast (w % 2 ^ (F.n - 2))
  simp only [lval]
  split_ifs with _ _ hzero hinf
  · simp [lcodeMag, hlog]
  · simp [lcodeMag, hlog]
  · simp [lcodeMag, hzero]
  · simp [lcodeMag, hinf]
  · simp [lcodeMag]

/-- A code of any format wide enough for S and Z is the code of the value it holds. -/
theorem lcode_lval {F : Fmt} {w : Nat} (hn : 2 ≤ F.n) (hw : w < 2 ^ F.n) : lcode F (lval F w) = w := by
  rw [lcode_eq_sign_add_mag, lval_sign, lcodeMag_lval]
  simpa using code_eq_fields hn hw

/-- Settles O11: each format has the two bits of S and Z, so `lcode_lval` gives its codes back. -/
theorem logCodesRoundTrip : Obligations.LogCodesRoundTrip := by
  intro F hF w hw
  have hn : 2 ≤ F.n := by
    simp only [List.mem_cons, List.not_mem_nil, or_false] at hF
    obtain rfl | rfl | rfl | rfl := hF <;> decide
  exact lcode_lval hn hw

end Sys2Proof.Machine
end

section
/-! PROOF. Range handling and the NaN of two operands (R90, R91), and the logarithmic sum (R95; O12). -/

namespace Sys2Proof.Machine

theorem eMin_neg (F : Fmt) : F.eMin < 0 := by
  have hpow : (0 : Int) < 2 ^ (F.n - 3) := by positivity
  simp only [Fmt.eMin]
  omega

theorem eMax_nonneg (F : Fmt) : 0 ≤ F.eMax := by
  have hpow : (0 : Int) < 2 ^ (F.n - 3) := by positivity
  simp only [Fmt.eMax]
  omega

/-- The range of a two's-complement logarithm: one value more below zero than above. -/
theorem eMin_eq_neg_eMax (F : Fmt) : F.eMin = -F.eMax - 1 := by
  simp only [Fmt.eMin, Fmt.eMax]
  omega

section Range
variable {F : Fmt} {e : Int}

theorem rangeFit_of_gt (h : F.eMax < e) (sat s : Bool) :
    rangeFit F sat s e = (if sat then .fin s F.eMax else .inf s, flOV) := if_pos h

theorem rangeFit_of_lt (h : e < F.eMin) (sat s : Bool) : rangeFit F sat s e = (.zero s, flUF) := by
  have hmin := eMin_neg F
  have hmax := eMax_nonneg F
  exact (if_neg (by omega)).trans (if_pos h)

theorem rangeFit_of_mem (hmin : F.eMin ≤ e) (hmax : e ≤ F.eMax) (sat s : Bool) : rangeFit F sat s e = (.fin s e, 0) :=
  (if_neg (not_lt.2 hmax)).trans (if_neg (not_lt.2 hmin))

/-- Range handling overflows, underflows or leaves the value (R91). -/
theorem rangeFit_cases (F : Fmt) (sat s : Bool) (e : Int) :
    rangeFit F sat s e = (if sat then .fin s F.eMax else .inf s, flOV) ∨ rangeFit F sat s e = (.zero s, flUF) ∨
      rangeFit F sat s e = (.fin s e, 0) := by
  rcases lt_or_ge F.eMax e with h | hmax
  · exact .inl (rangeFit_of_gt h sat s)
  · rcases lt_or_ge e F.eMin with h | hmin
    · exact .inr (.inl (rangeFit_of_lt h sat s))
    · exact .inr (.inr (rangeFit_of_mem hmin hmax sat s))

/-- Range handling keeps the sign. -/
@[simp] theorem rangeFit_sign (F : Fmt) (sat s : Bool) (e : Int) : (rangeFit F sat s e).1.sign = s := by
  obtain h | h | h := rangeFit_cases F sat s e <;> rw [h]
  · cases sat <;> rfl
  · rfl
  · rfl

end Range

/-- A NaN beside a value that is none is the result (R90). -/
theorem nanPick_nan_left {v : LV} (h : ∀ t q, v ≠ .nan t q) (s : Bool) (p : Nat) : nanPick (.nan s p) v = .nan s p := by
  cases v with
  | nan t q => exact absurd rfl (h t q)
  | _ => rfl

theorem nanPick_nan_right {v : LV} (h : ∀ t q, v ≠ .nan t q) (s : Bool) (p : Nat) : nanPick v (.nan s p) = .nan s p := by
  cases v with
  | nan t q => exact absurd rfl (h t q)
  | _ => rfl

/-- Of two NaNs the larger payload is the result, and of equal ones the conjunction of the signs (R90). -/
theorem nanPick_nan_nan (s t : Bool) (p q : Nat) :
    nanPick (.nan s p) (.nan t q) = if q < p then .nan s p else if p < q then .nan t q else .nan (s && t) p := rfl

/-- The choice between two NaNs does not depend on their order. -/
theorem nanPick_nan_comm (s t : Bool) (p q : Nat) : nanPick (.nan s p) (.nan t q) = nanPick (.nan t q) (.nan s p) := by
  rw [nanPick_nan_nan, nanPick_nan_nan]
  rcases Nat.lt_trichotomy p q with h | rfl | h
  · simp [h, Nat.lt_asymm h]
  · simp [Bool.and_comm]
  · simp [h, Nat.lt_asymm h]

section Sum
variable (F : Fmt) (sat : Bool)

theorem logAdd_nan_left (s : Bool) (p : Nat) (v : LV) : logAdd F sat (.nan s p) v = (nanPick (.nan s p) v, 0) := by
  cases v <;> rfl

theorem logAdd_nan_right (s : Bool) (p : Nat) (v : LV) : logAdd F sat v (.nan s p) = (nanPick v (.nan s p), 0) := by
  cases v <;> rfl

theorem logAdd_inf_inf (s t : Bool) : logAdd F sat (.inf s) (.inf t) = if s = t then (.inf s, 0) else (lnan, flIV) := rfl

theorem logAdd_zero_zero (s t : Bool) : logAdd F sat (.zero s) (.zero t) = (.zero (s && t), 0) := rfl
theorem logAdd_zero_fin (s t : Bool) (e : Int) : logAdd F sat (.zero s) (.fin t e) = rangeFit F sat t e := rfl
theorem logAdd_fin_zero (s t : Bool) (e : Int) : logAdd F sat (.fin t e) (.zero s) = rangeFit F sat t e := rfl

/-- The sum of two finite values: the larger logarithm with the correction of the difference (R95, R96). -/
theorem logAdd_fin_fin (s t : Bool) (e e' : Int) : logAdd F sat (.fin s e) (.fin t e') =
    if s = t then rangeFit F sat (if e ≥ e' then s else t) (max e e' + sbCorr (min e e' - max e e') F.f)
    else if min e e' - max e e' = 0 then (.zero false, 0)
    else
      ((rangeFit F sat (if e ≥ e' then s else t) (max e e' + dbCorr (min e e' - max e e') F.f)).1,
        Nat.lor (rangeFit F sat (if e ≥ e' then s else t) (max e e' + dbCorr (min e e' - max e e') F.f)).2
          (if 16 * (min e e' - max e e') > -(2 ^ F.f : Int) then flCX else 0)) := rfl

/-- The sum of two values of one sign. -/
theorem logAdd_fin_same_sign (s : Bool) (e e' : Int) : logAdd F sat (.fin s e) (.fin s e') =
    rangeFit F sat s (max e e' + sbCorr (min e e' - max e e') F.f) := by
  rw [logAdd_fin_fin, if_pos rfl, ite_self]

theorem logAdd_fin_neg_self (s : Bool) (e : Int) : logAdd F sat (.fin s e) (.fin (!s) e) = (.zero false, 0) := by
  rw [logAdd_fin_fin, if_neg (by cases s <;> decide), if_pos (by simp)]

theorem logAdd_fin_comm (s t : Bool) (e e' : Int) : logAdd F sat (.fin s e) (.fin t e') = logAdd F sat (.fin t e') (.fin s e) := by
  by_cases hst : s = t
  · subst hst
    rw [logAdd_fin_same_sign, logAdd_fin_same_sign, max_comm, min_comm]
  · rcases lt_trichotomy e e' with h | rfl | h
    · simp only [logAdd_fin_fin, if_neg hst, if_neg (Ne.symm hst), max_comm e' e, min_comm e' e, if_neg (not_le.2 h),
        if_pos h.le, ge_iff_le]
    · obtain rfl : t = !s := by cases s <;> cases t <;> simp_all
      simpa using (logAdd_fin_neg_self F sat s e).trans (logAdd_fin_neg_self F sat (!s) e).symm
    · simp only [logAdd_fin_fin, if_neg hst, if_neg (Ne.symm hst), max_comm e' e, min_comm e' e, if_neg (not_le.2 h),
        if_pos h.le, ge_iff_le]

theorem logAdd_comm (x y : LV) : logAdd F sat x y = logAdd F sat y x := by
  cases x with
  | nan s p =>
    rw [logAdd_nan_left, logAdd_nan_right]
    cases y with
    | nan t q => rw [nanPick_nan_comm]
    | _ => rfl
  | inf s =>
    cases y with
    | inf t => cases s <;> cases t <;> rfl
    | _ => rfl
  | zero s =>
    cases y with
    | zero t => rw [logAdd_zero_zero, logAdd_zero_zero, Bool.and_comm]
    | _ => rfl
  | fin s e =>
    cases y with
    | fin t e' => exact logAdd_fin_comm F sat s t e e'
    | _ => rfl

end Sum

/-- Range handling raises OV, UF or nothing. -/
theorem rangeFit_flags_lt (F : Fmt) (sat s : Bool) (e : Int) : (rangeFit F sat s e).2 < 4 := by
  obtain h | h | h := rangeFit_cases F sat s e <;> simp [h, flOV, flUF]

/-- Two logarithms that differ do so by one unit or more, so that a sum raises CX only in a format whose unit is below a
sixteenth; every other flag of a sum lies below CX (R95). -/
theorem logAdd_flags (F : Fmt) (sat : Bool) (x y : LV) :
    (logAdd F sat x y).2 < 16 ∨ ((16 : Int) < 2 ^ F.f ∧ (logAdd F sat x y).2 < 32) := by
  have hfit : ∀ s e, (rangeFit F sat s e).2 < 16 := fun s e => (rangeFit_flags_lt F sat s e).trans (by decide)
  cases x with
  | nan s p => exact .inl (by simp [logAdd_nan_left])
  | inf s =>
    cases y with
    | inf t => exact .inl (by rw [logAdd_inf_inf]; split <;> simp [flIV])
    | _ => exact .inl (by decide : 0 < 16)
  | zero s =>
    cases y with
    | fin t e => exact .inl (hfit t e)
    | _ => exact .inl (by decide : 0 < 16)
  | fin s e =>
    cases y with
    | zero t => exact .inl (hfit s e)
    | fin t e' =>
      rw [logAdd_fin_fin]
      generalize (if e ≥ e' then s else t) = u
      split_ifs with hst hd hcx
      · exact .inl (hfit _ _)
      · exact .inl (by decide : 0 < 16)
      · exact .inr ⟨by omega, Nat.or_lt_two_pow (n := 5) ((hfit _ _).trans (by decide)) (by decide)⟩
      · exact .inl (Nat.or_lt_two_pow (n := 4) (hfit _ _) (by decide))
    | _ => exact .inl (by decide : 0 < 16)

theorem logAdd_fL8_cx (sat : Bool) (x y : LV) : (logAdd fL8 sat x y).2.testBit 4 = false := by
  obtain h | ⟨hunit, -⟩ := logAdd_flags fL8 sat x y
  · exact Nat.testBit_lt_two_pow h
  · exact absurd hunit (by decide)

/-- Settles O12: `logAdd_comm` exchanges the operands kind by kind, and `logAdd_fL8_cx` keeps the eighths of L8 away from CX. -/
theorem logSumFacts : Obligations.LogSumFacts :=
  ⟨logAdd_comm, logAdd_fin_neg_self, fun F sat s => (logAdd_zero_zero F sat s (!s)).trans (by simp), logAdd_fL8_cx⟩

end Sys2Proof.Machine
end

section
/-! PROOF. Products, quotients, reciprocals, roots, scalings and multiply-adds of values, case by case (R90, R91, R93, R94, R448). -/

namespace Sys2Proof.Machine

section Exact
variable (F : Fmt) (sat : Bool)

theorem rawMul_nan_left (s : Bool) (p : Nat) (v : LV) : rawMul (.nan s p) v = (nanPick (.nan s p) v, 0) := by
  cases v <;> rfl

theorem rawMul_nan_right (s : Bool) (p : Nat) (v : LV) : rawMul v (.nan s p) = (nanPick v (.nan s p), 0) := by
  cases v <;> rfl

/-- The NaN of two operands is a NaN. -/
theorem nanPick_eq_nan (x y : LV) (h : x.isNan = true ∨ y.isNan = true) : ∃ s p, nanPick x y = .nan s p := by
  cases x with
  | nan s p =>
    cases y with
    | nan t q =>
      rw [nanPick_nan_nan]
      split_ifs <;> exact ⟨_, _, rfl⟩
    | _ => exact ⟨s, p, rfl⟩
  | _ =>
    cases y with
    | nan t q => exact ⟨t, q, rfl⟩
    | _ => exact absurd h (by simp [LV.isNan])

/-- A product that is not finite needs no range handling. -/
theorem logMul_of_rawMul {x y p : LV} {n : Nat} (h : rawMul x y = (p, n)) (hp : p.isFin = false) : logMul F sat x y = (p, n) := by
  have hfit : fitVal F sat p = (p, 0) := by
    cases p with
    | fin s e => exact absurd hp (by simp [LV.isFin])
    | _ => rfl
  simp only [logMul, h, hfit]
  exact Prod.ext rfl (Nat.or_zero _)

theorem logMul_nan_left (s : Bool) (p : Nat) (v : LV) : logMul F sat (.nan s p) v = (nanPick (.nan s p) v, 0) := by
  obtain ⟨t, q, h⟩ := nanPick_eq_nan (.nan s p) v (.inl rfl)
  exact logMul_of_rawMul F sat (rawMul_nan_left s p v) (by rw [h]; rfl)

theorem logMul_nan_right (s : Bool) (p : Nat) (v : LV) : logMul F sat v (.nan s p) = (nanPick v (.nan s p), 0) := by
  obtain ⟨t, q, h⟩ := nanPick_eq_nan v (.nan s p) (.inr rfl)
  exact logMul_of_rawMul F sat (rawMul_nan_right s p v) (by rw [h]; rfl)

/-- A product of finite values adds their logarithms (R93). -/
theorem logMul_fin_fin (s t : Bool) (e f : Int) : logMul F sat (.fin s e) (.fin t f) = rangeFit F sat (s ^^ t) (e + f) :=
  Prod.ext rfl (Nat.zero_or _)

theorem logDiv_nan_left (s : Bool) (p : Nat) (v : LV) : logDiv F sat (.nan s p) v = (nanPick (.nan s p) v, 0) := by
  cases v <;> rfl

theorem logDiv_nan_right (s : Bool) (p : Nat) (v : LV) : logDiv F sat v (.nan s p) = (nanPick v (.nan s p), 0) := by
  cases v <;> rfl

/-- A quotient of finite values subtracts their logarithms (R93). -/
theorem logDiv_fin_fin (s t : Bool) (e f : Int) : logDiv F sat (.fin s e) (.fin t f) = rangeFit F sat (s ^^ t) (e - f) := rfl

/-- Products and quotients of the values that are neither finite nor NaN (R94). -/
theorem logMul_logDiv_special (s t : Bool) :
    logMul F sat (.zero s) (.inf t) = (.nan false 1, flIV) ∧ logMul F sat (.inf s) (.zero t) = (.nan false 1, flIV) ∧
    logMul F sat (.zero s) (.zero t) = (.zero (s ^^ t), 0) ∧ logMul F sat (.inf s) (.inf t) = (.inf (s ^^ t), 0) ∧
    logDiv F sat (.zero s) (.zero t) = (.nan false 1, flIV) ∧ logDiv F sat (.inf s) (.inf t) = (.nan false 1, flIV) ∧
    (∀ e, logDiv F sat (.fin s e) (.zero t) = (.inf (s ^^ t), flDZ)) ∧
    (∀ e, logDiv F sat (.fin s e) (.inf t) = (.zero (s ^^ t), 0)) :=
  ⟨logMul_of_rawMul F sat rfl rfl, logMul_of_rawMul F sat rfl rfl, logMul_of_rawMul F sat rfl rfl, logMul_of_rawMul F sat rfl rfl,
    rfl, rfl, fun _ => rfl, fun _ => rfl⟩

theorem rawMul_fin_zero (s t : Bool) (e : Int) : rawMul (.fin s e) (.zero t) = (.zero (s ^^ t), 0) := by
  rw [Bool.xor_comm]; rfl

theorem rawMul_fin_inf (s t : Bool) (e : Int) : rawMul (.fin s e) (.inf t) = (.inf (s ^^ t), 0) := by
  rw [Bool.xor_comm]; rfl

/-- Products and quotients of a zero or an infinity with a finite value, and quotients of the two (R94). -/
theorem logMul_logDiv_mixed (s t : Bool) (e : Int) :
    logMul F sat (.fin s e) (.zero t) = (.zero (s ^^ t), 0) ∧ logMul F sat (.zero s) (.fin t e) = (.zero (s ^^ t), 0) ∧
    logMul F sat (.fin s e) (.inf t) = (.inf (s ^^ t), 0) ∧ logMul F sat (.inf s) (.fin t e) = (.inf (s ^^ t), 0) ∧
    logDiv F sat (.inf s) (.fin t e) = (.inf (s ^^ t), 0) ∧ logDiv F sat (.inf s) (.zero t) = (.inf (s ^^ t), 0) ∧
    logDiv F sat (.zero s) (.fin t e) = (.zero (s ^^ t), 0) ∧ logDiv F sat (.zero s) (.inf t) = (.zero (s ^^ t), 0) :=
  ⟨logMul_of_rawMul F sat (rawMul_fin_zero s t e) rfl, logMul_of_rawMul F sat rfl rfl,
    logMul_of_rawMul F sat (rawMul_fin_inf s t e) rfl, logMul_of_rawMul F sat rfl rfl, rfl, rfl, rfl, rfl⟩

/-- A NaN operand of a product or a quotient (R90). -/
theorem logMul_logDiv_nan (s : Bool) (p : Nat) {v : LV} (h : ∀ t q, v ≠ .nan t q) :
    logMul F sat (.nan s p) v = (.nan s p, 0) ∧ logMul F sat v (.nan s p) = (.nan s p, 0) ∧
    logDiv F sat (.nan s p) v = (.nan s p, 0) ∧ logDiv F sat v (.nan s p) = (.nan s p, 0) := by
  rw [logMul_nan_left, logMul_nan_right, logDiv_nan_left, logDiv_nan_right, nanPick_nan_left h, nanPick_nan_right h]
  exact ⟨rfl, rfl, rfl, rfl⟩

theorem logRcp_fin (s : Bool) (e : Int) : logRcp F sat (.fin s e) = rangeFit F sat s (-e) := rfl

/-- A reciprocal overflows at the smallest logarithm alone: the range has one value more below zero than above. -/
theorem logRcp_of_mem (s : Bool) {e : Int} (hmin : F.eMin ≤ e) (hmax : e ≤ F.eMax) : logRcp F sat (.fin s e) =
    if e = F.eMin then (if sat then .fin s F.eMax else .inf s, flOV) else (.fin s (-e), 0) := by
  have hrange := eMin_eq_neg_eMax F
  rw [logRcp_fin]
  split
  · exact rangeFit_of_gt (by omega) sat s
  · exact rangeFit_of_mem (by omega) (by omega) sat s

theorem logRcp_of_not_mem (s : Bool) (e : Int) :
    (e < F.eMin → logRcp F sat (.fin s e) = (if sat then .fin s F.eMax else .inf s, flOV)) ∧
    (-F.eMin < e → logRcp F sat (.fin s e) = (.zero s, flUF)) := by
  have hrange := eMin_eq_neg_eMax F
  exact ⟨fun h => rangeFit_of_gt (by omega) sat s, fun h => rangeFit_of_lt (by omega) sat s⟩

theorem logSqrt_fin (e : Int) : logSqrt (.fin false e) = (.fin false ((e + e / 2 % 2) / 2), 0) := rfl

/-- A root halves the logarithm, to the nearest even (R93). -/
theorem logSqrt_halves (e : Int) : logSqrt (.fin false (2 * e)) = (.fin false e, 0) ∧ logSqrt (.fin true e) = (.nan false 1, flIV) ∧
    logSqrt (.fin false (2 * e + 1)) = (.fin false (if e % 2 = 0 then e else e + 1), 0) := by
  have heven : (2 * e + 2 * e / 2 % 2) / 2 = e := by omega
  have hodd : (2 * e + 1 + (2 * e + 1) / 2 % 2) / 2 = if e % 2 = 0 then e else e + 1 := by omega
  exact ⟨by rw [logSqrt_fin, heven], rfl, by rw [logSqrt_fin, hodd]⟩

/-- A root stays in the range. -/
theorem logSqrt_mem {e : Int} (hmin : F.eMin ≤ e) (hmax : e ≤ F.eMax) :
    ∃ r, logSqrt (.fin false e) = (.fin false r, 0) ∧ F.eMin ≤ r ∧ r ≤ F.eMax := by
  have hneg := eMin_neg F
  have hnonneg := eMax_nonneg F
  exact ⟨_, logSqrt_fin e, by omega, by omega⟩

theorem logScale_fin (n : Int) (s : Bool) (e : Int) : logScale F sat n (.fin s e) = rangeFit F sat s (e + n * 2 ^ F.f) := rfl

/-- A multiply-add is exact before its one sum (R448). -/
theorem logMad_of_rawMul {x y p : LV} (h : rawMul x y = (p, 0)) (c : LV) : logMad F sat x y c = logAdd F sat p c := by
  simp only [logMad, h]
  exact Prod.ext rfl (Nat.zero_or _)

theorem rawMul_fin_fin (s t : Bool) (e f : Int) : rawMul (.fin s e) (.fin t f) = (.fin (s ^^ t) (e + f), 0) := rfl

theorem logMad_fin_fin (s t : Bool) (e f : Int) (c : LV) :
    logMad F sat (.fin s e) (.fin t f) c = logAdd F sat (.fin (s ^^ t) (e + f)) c := logMad_of_rawMul F sat (rawMul_fin_fin s t e f) c

/-- An invalid product beside an addend that is no NaN. -/
theorem logMad_invalid {x y v : LV} (h : rawMul x y = (lnan, flIV)) (hv : ∀ u q, v ≠ .nan u q) :
    logMad F sat x y v = (.nan false 1, flIV) := by
  simp only [logMad, h]
  rw [lnan, logAdd_nan_left, nanPick_nan_left hv]
  rfl

/-- The correction of the sum of two equal values: their double (R96). -/
theorem sbCorr_zero (f : Nat) : sbCorr 0 f = 2 ^ f := by
  unfold sbCorr
  split
  · next h => rw [h]; rfl
  · exact if_pos rfl

/-- A multiply-add of a product with itself is its double. -/
theorem logMad_double (s t : Bool) {e f : Int} (hmin : F.eMin ≤ e + f + 2 ^ F.f) (hmax : e + f + 2 ^ F.f ≤ F.eMax) :
    logMad F sat (.fin s e) (.fin t f) (.fin (s ^^ t) (e + f)) = (.fin (s ^^ t) (e + f + 2 ^ F.f), 0) := by
  rw [logMad_fin_fin, logAdd_fin_same_sign, max_self, min_self, sub_self, sbCorr_zero]
  exact rangeFit_of_mem hmin hmax sat _

end Exact

end Sys2Proof.Machine
end

section
/-! PROOF. The dot product of four products (R443): zeros keep the accumulator, one product is exact, an invalid one raises IV. -/

namespace Sys2Proof.Machine

theorem testBit_foldl_lor (l : List Nat) (n k : Nat) : (l.foldl Nat.lor n).testBit k = (n.testBit k || l.any (·.testBit k)) := by
  induction l generalizing n with
  | nil => simp
  | cons a t ih => rw [List.foldl_cons, ih, show n.lor a = n ||| a from rfl, Nat.testBit_or, List.any_cons, Bool.or_assoc]

/-- A flag is in a union where it is in one of its sets. -/
theorem testBit_flUnion (l : List Nat) (k : Nat) : (flUnion l).testBit k = l.any (·.testBit k) :=
  (testBit_foldl_lor l 0 k).trans (by simp)

/-- A finite value that a code holds lies in the format's range (R67, R68). -/
theorem lval_fin_mem {F : Fmt} {w : Nat} {s : Bool} {e : Int} (hn : 3 ≤ F.n) (h : lval F w = .fin s e) :
    F.eMin ≤ e ∧ e ≤ F.eMax := by
  have hpow : 2 ^ (F.n - 2) = 2 * 2 ^ (F.n - 3) := by rw [show F.n - 2 = F.n - 3 + 1 by omega, pow_succ, mul_comm]
  have hcode : w % 2 ^ (F.n - 2) < 2 ^ (F.n - 2) := Nat.mod_lt _ (by positivity)
  simp only [lval] at h
  split_ifs at h with hz hlow
  all_goals
    simp only [LV.fin.injEq] at h
    obtain ⟨-, rfl⟩ := h
    zify at hpow hcode hlow
    simp only [Fmt.eMin, Fmt.eMax]
    push_cast at hcode ⊢
    omega

/-- Where the first factor is a zero and the second is no infinity and no NaN, the product is a zero. -/
theorem dotProduct_zero {x y : LV} (hx : ∃ s, x = .zero s) (hy : (∃ s, y = .zero s) ∨ ∃ s e, y = .fin s e) :
    ∃ s, dotProduct x y = (.zero s, 0) := by
  obtain ⟨s, rfl⟩ := hx
  obtain ⟨t, rfl⟩ | ⟨t, e, rfl⟩ := hy
  · exact ⟨s ^^ t, rfl⟩
  · exact ⟨s ^^ t, rfl⟩

/-- Slot i of two registers has a zero product. -/
def zeroProduct (a b : Word) (i : Nat) : Prop := ∃ s, dotProduct (slotVal fL8 i a) (slotVal fL8 i b) = (.zero s, 0)

theorem zeroProduct_of {a b : Word} {i : Nat} (h : (∃ s, slotVal fL8 i a = .zero s) ∧
    ((∃ s, slotVal fL8 i b = .zero s) ∨ ∃ s e, slotVal fL8 i b = .fin s e)) : zeroProduct a b i := dotProduct_zero h.1 h.2

/-- A dot product whose products are zeros keeps a finite accumulator. -/
theorem dot4_zeros (sat : Bool) {acc a b : Word} (h : ∀ i, i < 4 → zeroProduct a b i) {s : Bool} {e : Int}
    (hacc : lval fL32 acc.toNat = .fin s e) : dot4 sat acc a b = (acc, 0) := by
  obtain ⟨s0, h0⟩ := h 0 (by decide)
  obtain ⟨s1, h1⟩ := h 1 (by decide)
  obtain ⟨s2, h2⟩ := h 2 (by decide)
  obtain ⟨s3, h3⟩ := h 3 (by decide)
  obtain ⟨hmin, hmax⟩ := lval_fin_mem (by decide) hacc
  simp only [dot4, h0, h1, h2, h3, logAdd_zero_zero, lwidenBy, hacc, logAdd_fin_zero, rangeFit_of_mem hmin hmax]
  rw [← hacc, lcode_lval (by decide) acc.isLt, BitVec.ofNat_toNat, BitVec.setWidth_eq]
  rfl

/-- A dot product with one product beside zeros, into a zero: the product in L32. -/
theorem dot4_single (sat : Bool) {acc a b : Word} {s t u : Bool} {e f : Int} (hacc : lval fL32 acc.toNat = .zero u)
    (ha : slotVal fL8 0 a = .fin s e) (hb : slotVal fL8 0 b = .fin t f) (h : ∀ i, 0 < i → i < 4 → zeroProduct a b i) :
    dot4 sat acc a b = (BitVec.ofNat 32 (lcode fL32 (.fin (s ^^ t) ((e + f) * 2 ^ 19))), 0) := by
  obtain ⟨s1, h1⟩ := h 1 (by decide) (by decide)
  obtain ⟨s2, h2⟩ := h 2 (by decide) (by decide)
  obtain ⟨s3, h3⟩ := h 3 (by decide) (by decide)
  have he := lval_fin_mem (by decide) ha
  have hf := lval_fin_mem (by decide) hb
  simp only [Fmt.eMin, Fmt.eMax, fL8] at he hf
  have h0 : dotProduct (.fin s e) (.fin t f) = (.fin (s ^^ t) ((e + f) * 2 ^ 9), 0) := rfl
  have hnarrow : ∀ sat v, rangeFit fTQ12 sat v ((e + f) * 2 ^ 9) = (.fin v ((e + f) * 2 ^ 9), 0) := fun sat v =>
    rangeFit_of_mem (by simp only [Fmt.eMin, fTQ12]; omega) (by simp only [Fmt.eMax, fTQ12]; omega) sat v
  have hwide : ∀ v, rangeFit fL32 sat v ((e + f) * 2 ^ 9 * 2 ^ 10) = (.fin v ((e + f) * 2 ^ 19), 0) := fun v => by
    rw [mul_assoc, ← pow_add]
    exact rangeFit_of_mem (by simp only [Fmt.eMin, fL32]; omega) (by simp only [Fmt.eMax, fL32]; omega) sat v
  simp only [dot4, ha, hb, h0, h1, h2, h3, logAdd_fin_zero, logAdd_zero_zero, hnarrow, lwidenBy, hacc, logAdd_zero_fin, hwide]
  rfl

/-- The flags of a dot product hold those of each of its products. -/
theorem dot4_flags (sat : Bool) (acc a b : Word) {i k : Nat} (hi : i < 4)
    (h : (dotProduct (slotVal fL8 i a) (slotVal fL8 i b)).2.testBit k = true) : (dot4 sat acc a b).2.testBit k = true := by
  simp only [dot4, testBit_flUnion, List.any_cons, List.any_nil, Bool.or_eq_true]
  interval_cases i <;> simp [h]

/-- A zero times an infinity makes a dot product invalid. -/
theorem dot4_invalid (sat : Bool) (acc : Word) {a b : Word} {i : Nat} {s t : Bool} (hi : i < 4) (ha : slotVal fL8 i a = .zero s)
    (hb : slotVal fL8 i b = .inf t) : Nat.land (dot4 sat acc a b).2 flIV ≠ 0 := by
  intro hland
  have hiv : flIV.testBit 2 = true := by decide
  have hbit : (dot4 sat acc a b).2.testBit 2 = true := dot4_flags sat acc a b hi (by rw [ha, hb]; exact hiv)
  have hboth : ((dot4 sat acc a b).2 &&& flIV).testBit 2 = true := by rw [Nat.testBit_and, hbit, hiv]; rfl
  rw [show (dot4 sat acc a b).2 &&& flIV = 0 from hland, Nat.zero_testBit] at hboth
  exact Bool.noConfusion hboth

end Sys2Proof.Machine
end

section
/-! PROOF. Interpolation at the start of its domain, and roundings that discard nothing (R97 to R106): what makes powers,
logarithms and turns exact. -/

namespace Sys2Proof.Machine

/-- At the lower end of its domain an interpolated function is its node there (R99). -/
theorem interp_zero (C : Curve) (g f : Nat) : interp C 0 0 g f = node C (f + 4) 0 := by
  simp only [interp, zero_mul, sub_zero, Int.zero_ediv, Int.zero_emod, mul_zero, add_zero]

theorem node_lg_zero : node .lg (22 + 4) 0 = 0 := by decide +kernel

theorem node_pow2_zero : node .pow2 (22 + 4) 0 = 2 ^ 26 := by decide +kernel

/-- R101: the logarithm of a power of two is exact. -/
theorem formLog_two_pow (j : Nat) (q : Int) : formLog (2 ^ j) q = ((j : Int) - q) * 2 ^ 26 := by
  simp only [formLog, Nat.log2_two_pow, Nat.sub_self, zero_mul, Nat.cast_zero, interp_zero, node_lg_zero, add_zero]

/-- R102: the magnitude of a whole power of two has the significand 1. -/
theorem formVal_whole (k : Int) : formVal (k * 2 ^ 22) = (k, 2 ^ 26) := by
  have hone : ((2 : Int) ^ 26).toNat = 2 ^ 26 := by decide
  simp only [formVal, Int.mul_emod_left, interp_zero, node_pow2_zero, hone, Int.mul_ediv_cancel k (by decide : (2 : Int) ^ 22 ≠ 0)]

/-- A whole logarithm of a format, in units of L32. -/
theorem formVal_of_whole {f : Nat} (hf : f ≤ 22) (k : Int) : formVal (k * 2 ^ f * 2 ^ (22 - f)) = (k, 2 ^ 26) := by
  rw [mul_assoc, ← pow_add, Nat.add_sub_cancel' hf, formVal_whole]

/-- A rounding that discards zeros is exact (R105). -/
theorem roundBits_exact (s : Bool) (q : Int) (k draw : Nat) : roundBits 0 s (q * 2 ^ k) k draw = q := by
  have hpow : (2 : Int) ^ k ≠ 0 := by positivity
  have hhalf : 0 ≠ 2 ^ k := (by positivity : 0 < 2 ^ k).ne
  simp only [roundBits, Int.mul_ediv_cancel q hpow, Int.mul_emod_left, Int.toNat_zero, mul_zero]
  simp [hhalf]

/-- A power of two with the significand 1, rounded to an integer. -/
theorem roundInt_two_pow (s : Bool) (n draw : Nat) : roundInt 0 s (2 ^ 26) (n - 26) draw = 2 ^ n := by
  unfold roundInt
  rcases Nat.le_total 26 n with h | h
  · obtain ⟨m, rfl⟩ := Nat.exists_eq_add_of_le h
    have ht : ((26 + m : Nat) : Int) - 26 = m := by push_cast; ring
    have hneg : (-(m : Int)).toNat = 0 := by omega
    rw [ht, hneg, Int.toNat_natCast, ← pow_add]
    simpa using roundBits_exact s (2 ^ (26 + m)) 0 draw
  · obtain ⟨m, hm⟩ := Nat.exists_eq_add_of_le h
    have ht : ((n : Int) - 26).toNat = 0 := by omega
    have hneg : (-((n : Int) - 26)).toNat = m := by omega
    rw [ht, hneg, pow_zero, mul_one, hm]
    push_cast
    rw [pow_add]
    exact roundBits_exact s (2 ^ n) m draw

end Sys2Proof.Machine
end

section
/-! PROOF. Powers and logarithms of two, sine and cosine, and the hyperbolic tangent (R103, R428, R447, R456). -/

namespace Sys2Proof.Machine

/-- The power of two of a finite value, before range handling. -/
theorem logExp2_fin (F : Fmt) (sat s : Bool) (e : Int) :
    ∃ m, logExp2 F sat (.fin s e) = rangeFit F sat false m := ⟨_, rfl⟩

/-- Two to a whole power that the format can hold is exact. -/
theorem logExp2_whole {F : Fmt} (hf : F.f ≤ 22) (sat s : Bool) {k : Int} (hk : 0 ≤ k + F.f) :
    logExp2 F sat (.fin s (k * 2 ^ F.f)) = rangeFit F sat false (if s then -(2 ^ (k + F.f).toNat) else 2 ^ (k + F.f).toNat) := by
  have hexp : k - 26 + F.f = ((k + F.f).toNat : Int) - 26 := by omega
  simp only [logExp2, formVal_of_whole hf, hexp, roundInt_two_pow]

/-- The logarithm of a whole power of two is exact: `2 ^ j` units are the power `j - F.f`. -/
theorem logLog2_two_pow {F : Fmt} (hf : F.f ≤ 22) (s : Bool) (j : Nat) :
    logLog2 F (.fin false (if s then -(2 ^ j) else 2 ^ j)) = rangeFit F false s (((j : Int) - F.f) * 2 ^ F.f) := by
  have hpow : (0 : Int) < 2 ^ j := by positivity
  have hne : (if s then -(2 ^ j) else 2 ^ j : Int) ≠ 0 := by split <;> omega
  have hsign : decide ((if s then -(2 ^ j) else 2 ^ j : Int) < 0) = s := by cases s <;> simp
  have habs : (if s then -(2 ^ j) else 2 ^ j : Int).natAbs = 2 ^ j := by cases s <;> simp [Int.natAbs_pow]
  have hscale : ((j : Int) - F.f) * 2 ^ 26 = ((j : Int) - F.f) * 2 ^ F.f * 2 ^ (26 - F.f) := by
    rw [mul_assoc, ← pow_add, Nat.add_sub_cancel' (hf.trans (by decide))]
  simp only [logLog2, if_neg hne, hsign, habs, formLog_two_pow, hscale, roundBits_exact]

/-- R429: the fraction of a turn that a finite angle holds, in units of 2^-(d + 2), and d. -/
def angleOf (F : Fmt) (e : Int) : Nat × Nat :=
  let iv := formVal (e * 2 ^ (22 - F.f))
  let d := (26 - iv.1).toNat
  ((iv.2 * 2 ^ (iv.1 - 26).toNat) % 2 ^ d * 4, d)

/-- R429: an angle folded into a quarter of a turn. -/
def foldedTurn (u one : Nat) : Nat :=
  let v := if 2 * u ≥ one then u - one / 2 else u
  if 4 * v > one then one / 2 - v else v

/-- R428, R429: the sine or cosine of a fraction of a turn of d + 2 bits. -/
def sinOf (F : Fmt) (cos s : Bool) (u0 d : Nat) : LV × Nat :=
  let q := d + 2
  let one := 2 ^ q
  let u := if cos then (u0 + one / 4) % one else u0
  let sg0 := if cos then false else s
  let sg := if 2 * u ≥ one then !sg0 else sg0
  let r := foldedTurn u one
  if r = 0 then (.zero false, 0)
  else if 4 * r = one then (.fin sg 0, 0)
  else
    let x := formLog r q + interp .g 0 ((r * 2 ^ 22 / 2 ^ q : Nat)) 22 22
    rangeFit F false sg (roundBits 0 false x (26 - F.f) 0)

theorem logSin_fin (F : Fmt) (cos s : Bool) (e : Int) :
    logSin F cos (.fin s e) = sinOf F cos s (angleOf F e).1 (angleOf F e).2 := rfl

/-- A turn has four quarters. -/
theorem two_pow_quarters (d : Nat) : 2 ^ (d + 2) = 4 * 2 ^ d := by ring

section Quarters
variable (F : Fmt) (s : Bool) (d : Nat)

/-- Sine and cosine of the whole turn. -/
theorem sinOf_whole : sinOf F false s 0 d = (.zero false, 0) ∧ sinOf F true s 0 d = (.fin false 0, 0) := by
  have hpos : 0 < 2 ^ d := by positivity
  simp only [sinOf, foldedTurn, two_pow_quarters]
  generalize 2 ^ d = P at hpos
  have hquarter : (0 + 4 * P / 4) % (4 * P) = P := by rw [Nat.mod_eq_of_lt] <;> omega
  constructor
  · simp [hpos.ne']
  · simp only [if_true, hquarter]
    rw [if_neg (by omega : ¬ 2 * P ≥ 4 * P), if_neg (by omega : ¬ 2 * P ≥ 4 * P), if_neg (by omega : ¬ 4 * P > 4 * P), if_neg hpos.ne',
      if_pos rfl]

/-- Sine and cosine of half a turn. -/
theorem sinOf_half : sinOf F false s (2 * 2 ^ d) d = (.zero false, 0) ∧ sinOf F true s (2 * 2 ^ d) d = (.fin true 0, 0) := by
  have hpos : 0 < 2 ^ d := by positivity
  simp only [sinOf, foldedTurn, two_pow_quarters]
  generalize 2 ^ d = P at hpos
  have hquarter : (2 * P + 4 * P / 4) % (4 * P) = 3 * P := by rw [Nat.mod_eq_of_lt] <;> omega
  constructor
  · have hrest : 2 * P - 4 * P / 2 = 0 := by omega
    simp only [Bool.false_eq_true, if_false, if_pos (by omega : 2 * (2 * P) ≥ 4 * P), hrest, mul_zero,
      if_neg (by omega : ¬ 0 > 4 * P), if_true]
  · have hrest : 3 * P - 4 * P / 2 = P := by omega
    simp only [if_true, hquarter, if_pos (by omega : 2 * (3 * P) ≥ 4 * P), hrest, gt_iff_lt, lt_irrefl, if_false, if_neg hpos.ne',
      Bool.not_false]

/-- Sine and cosine of a quarter of a turn. -/
theorem sinOf_quarter : sinOf F false s (2 ^ d) d = (.fin s 0, 0) ∧ sinOf F true s (2 ^ d) d = (.zero false, 0) := by
  have hpos : 0 < 2 ^ d := by positivity
  simp only [sinOf, foldedTurn, two_pow_quarters]
  generalize 2 ^ d = P at hpos
  have hquarter : (P + 4 * P / 4) % (4 * P) = 2 * P := by rw [Nat.mod_eq_of_lt] <;> omega
  constructor
  · simp only [Bool.false_eq_true, if_false, if_neg (by omega : ¬ 2 * P ≥ 4 * P), gt_iff_lt, lt_irrefl, if_neg hpos.ne', if_true]
  · have hrest : 2 * P - 4 * P / 2 = 0 := by omega
    simp only [if_true, hquarter, if_pos (by omega : 2 * (2 * P) ≥ 4 * P), hrest, mul_zero, if_neg (by omega : ¬ 0 > 4 * P)]

end Quarters

/-- The fraction that a power of two of turns holds. -/
theorem angleOf_whole {F : Fmt} (hf : F.f ≤ 22) (k : Int) :
    angleOf F (k * 2 ^ F.f) = (2 ^ 26 * 2 ^ (k - 26).toNat % 2 ^ (26 - k).toNat * 4, (26 - k).toNat) := by
  simp only [angleOf, formVal_of_whole hf]

/-- A power of two of turns, from one on, is whole. -/
theorem angleOf_natPow {F : Fmt} (hf : F.f ≤ 22) (k : Nat) : (angleOf F (k * 2 ^ F.f)).1 = 0 := by
  have hdvd : 2 ^ (26 - (k : Int)).toNat ∣ 2 ^ 26 * 2 ^ ((k : Int) - 26).toNat := by
    rw [← pow_add]
    exact pow_dvd_pow 2 (by omega)
  rw [angleOf_whole hf, Nat.mod_eq_zero_of_dvd hdvd]

/-- Sine and cosine at whole, half and quarter turns. -/
theorem logSin_turns {F : Fmt} (hf : F.f ≤ 22) (s : Bool) (k : Nat) :
    logSin F false (.fin s (k * 2 ^ F.f)) = (.zero false, 0) ∧ logSin F true (.fin s (k * 2 ^ F.f)) = (.fin false 0, 0) ∧
    logSin F false (.fin s (-(2 ^ F.f))) = (.zero false, 0) ∧ logSin F true (.fin s (-(2 ^ F.f))) = (.fin true 0, 0) ∧
    logSin F false (.fin s (-(2 * 2 ^ F.f))) = (.fin s 0, 0) ∧ logSin F true (.fin s (-(2 * 2 ^ F.f))) = (.zero false, 0) := by
  have hhalf : angleOf F (-(2 ^ F.f)) = (2 * 2 ^ 27, 27) := by
    rw [show -(2 ^ F.f : Int) = -1 * 2 ^ F.f by ring, angleOf_whole hf]
    rfl
  have hquarter : angleOf F (-(2 * 2 ^ F.f)) = (2 ^ 28, 28) := by
    rw [show -(2 * 2 ^ F.f : Int) = -2 * 2 ^ F.f by ring, angleOf_whole hf]
    rfl
  simp only [logSin_fin, hhalf, hquarter, angleOf_natPow hf]
  obtain ⟨hsin, hcos⟩ := sinOf_whole F s (angleOf F (k * 2 ^ F.f)).2
  obtain ⟨hsinHalf, hcosHalf⟩ := sinOf_half F s 27
  obtain ⟨hsinQuarter, hcosQuarter⟩ := sinOf_quarter F s 28
  exact ⟨hsin, hcos, hsinHalf, hcosHalf, hsinQuarter, hcosQuarter⟩

/-- A sine is a zero, one, or in between, and only its sign depends on the angle's. -/
theorem sinOf_cases (F : Fmt) (u d : Nat) : (∀ s, sinOf F false s u d = (.zero false, 0)) ∨
    ∃ b, (∀ s, sinOf F false s u d = (.fin (s ^^ b) 0, 0)) ∨ ∃ y, ∀ s, sinOf F false s u d = rangeFit F false (s ^^ b) y := by
  have hsign : ∀ s : Bool, (if 2 * u ≥ 2 ^ (d + 2) then !s else s) = (s ^^ decide (2 * u ≥ 2 ^ (d + 2))) := fun s => by
    by_cases h : 2 * u ≥ 2 ^ (d + 2)
    · rw [if_pos h, decide_eq_true h, Bool.xor_true]
    · rw [if_neg h, decide_eq_false h, Bool.xor_false]
  simp only [sinOf, Bool.false_eq_true, if_false, hsign]
  generalize foldedTurn u (2 ^ (d + 2)) = r
  by_cases hzero : r = 0
  · exact .inl fun s => if_pos hzero
  · by_cases hone : 4 * r = 2 ^ (d + 2)
    · exact .inr ⟨_, .inl fun s => (if_neg hzero).trans (if_pos hone)⟩
    · exact .inr ⟨_, .inr ⟨_, fun s => (if_neg hzero).trans (if_neg hone)⟩⟩

/-- A finite result of range handling without saturation has the sign given, and the same magnitude for the other sign. -/
theorem rangeFit_eq_fin {F : Fmt} {s t : Bool} {e x : Int} {n : Nat} (h : rangeFit F false s e = (.fin t x, n)) :
    t = s ∧ ∀ u, rangeFit F false u e = (.fin u x, n) := by
  rcases lt_or_ge F.eMax e with hgt | hmax
  · rw [rangeFit_of_gt hgt] at h; cases h
  · rcases lt_or_ge e F.eMin with hlt | hmin
    · rw [rangeFit_of_lt hlt] at h; cases h
    · rw [rangeFit_of_mem hmin hmax] at h
      cases h
      exact ⟨rfl, fun u => rangeFit_of_mem hmin hmax false u⟩

/-- The sine is odd. -/
theorem logSin_odd {F : Fmt} {s t : Bool} {e x : Int} {n : Nat} (h : logSin F false (.fin s e) = (.fin t x, n)) :
    logSin F false (.fin (!s) e) = (.fin (!t) x, n) := by
  rw [logSin_fin] at h ⊢
  obtain hz | ⟨b, hone | ⟨y, hy⟩⟩ := sinOf_cases F (angleOf F e).1 (angleOf F e).2
  · rw [hz] at h; cases h
  · rw [hone] at h ⊢; cases h; rw [Bool.not_xor]
  · rw [hy] at h ⊢
    obtain ⟨rfl, hall⟩ := rangeFit_eq_fin h
    rw [hall, Bool.not_xor]

/-- The hyperbolic tangent is one, or a value in range handling whose sign alone depends on the argument's; it raises no flag. -/
theorem logTanh_cases (F : Fmt) (e : Int) : (∀ s, logTanh F (.fin s e) = (.fin s 0, 0)) ∨
    ∃ y, ∀ s, logTanh F (.fin s e) = ((rangeFit F false s y).1, 0) := by
  by_cases h : (formVal (e * 2 ^ (22 - F.f))).1 ≥ 4
  · exact .inl fun s => if_pos h
  · exact .inr ⟨_, fun s => if_neg h⟩

theorem logTanh_fin (F : Fmt) (s : Bool) (e : Int) : (logTanh F (.fin s e)).2 = 0 ∧ (logTanh F (.fin s e)).1.sign = s ∧
    ∀ x, (logTanh F (.fin s e)).1 = .fin s x → (logTanh F (.fin (!s) e)).1 = .fin (!s) x := by
  obtain hone | ⟨y, hy⟩ := logTanh_cases F e
  · rw [hone, hone]
    exact ⟨rfl, rfl, fun x hx => by cases hx; rfl⟩
  · rw [hy, hy]
    refine ⟨rfl, rangeFit_sign .., fun x hx => ?_⟩
    obtain ⟨-, hall⟩ := rangeFit_eq_fin (Prod.ext hx rfl : rangeFit F false s y = (.fin s x, (rangeFit F false s y).2))
    exact congrArg Prod.fst (hall (!s))

/-- The hyperbolic tangent of 16 and more is one. -/
theorem logTanh_saturates {F : Fmt} (hf : F.f ≤ 22) (s : Bool) {e : Int} (he : 4 * 2 ^ F.f ≤ e) : logTanh F (.fin s e) = (.fin s 0, 0) := by
  have hscaled : 4 * 2 ^ 22 ≤ e * 2 ^ (22 - F.f) := by
    calc (4 : Int) * 2 ^ 22 = 4 * 2 ^ F.f * 2 ^ (22 - F.f) := by rw [mul_assoc, ← pow_add, Nat.add_sub_cancel' hf]
      _ ≤ e * 2 ^ (22 - F.f) := Int.mul_le_mul_of_nonneg_right he (by positivity)
  exact if_pos (Int.le_ediv_of_mul_le (by decide) hscaled)

end Sys2Proof.Machine
end

section
/-! PROOF. Products, quotients, roots, multiply-adds, dot products and functions of values together (O13). -/

namespace Sys2Proof.Machine

/-- Each of the formats of an instruction has at most the fraction bits of L32. -/
theorem fracBits_le {F : Fmt} (h : F ∈ [fL32, fL16, fL8]) : F.f ≤ 22 := by
  simp only [List.mem_cons, List.not_mem_nil, or_false] at h
  obtain rfl | rfl | rfl := h <;> decide

/-- Settles O13, function by function: each is `rangeFit` of an exact logarithm, or names its result outright. -/
theorem logProductFacts : Obligations.LogProductFacts := by
  refine ⟨⟨
      -- products and quotients
      ?mulFits, ?mulOverflows, ?mulUnderflows, ?divFits, logMul_logDiv_special, logMul_logDiv_mixed, ?divOverflows, ?divUnderflows,
      fun F sat s p v hv => logMul_logDiv_nan F sat s p hv, ?twoNans,
      -- reciprocals, roots and scalings
      fun F sat s => ⟨rfl, rfl⟩, fun F _ sat s e hmin hmax => logRcp_of_mem F sat s hmin hmax,
      fun F _ sat s e => logRcp_of_not_mem F sat s e, logSqrt_halves, fun F _ e hmin hmax => logSqrt_mem F hmin hmax,
      fun s p => ⟨by cases s <;> rfl, rfl, rfl, rfl⟩, ?scale, fun F sat n s p => ⟨rfl, rfl, rfl⟩⟩,
    -- multiply-adds
    ?madSums, fun F _ sat s t e f hmin hmax => logMad_double F sat s t hmin hmax,
    fun F sat s t v hv => ⟨logMad_invalid F sat rfl hv, logMad_invalid F sat rfl hv⟩, ?madInfinities, ?madNans,
    -- dot products
    fun sat acc a b h ⟨s, e, hacc⟩ => dot4_zeros sat (fun i hi => zeroProduct_of (h i hi)) hacc,
    fun sat acc a b s t u e f hacc ha hb h => dot4_single sat hacc ha hb fun i hpos hi => zeroProduct_of (h i hpos hi),
    fun sat acc a b i s t hi ha hb => dot4_invalid sat acc hi ha hb,
    -- powers and logarithms
    ?exp2, fun F hF sat s k hk => logExp2_whole (fracBits_le hF) sat s hk, fun F s p e => ⟨rfl, rfl, rfl, rfl, rfl, rfl⟩,
    fun F hF s j => logLog2_two_pow (fracBits_le hF) s j,
    -- sine, cosine and hyperbolic tangent
    fun F cos s p => ⟨rfl, rfl, by cases cos <;> rfl⟩, fun F hF s k => logSin_turns (fracBits_le hF) s k,
    fun F s e => ⟨rfl, fun t x n h => logSin_odd h⟩, ?tanh, fun F hF s e he => logTanh_saturates (fracBits_le hF) s he⟩
  case mulFits => exact fun F sat s t e f hmin hmax => (logMul_fin_fin F sat s t e f).trans (rangeFit_of_mem hmin hmax sat _)
  case mulOverflows => exact fun F sat s t e f h => (logMul_fin_fin F sat s t e f).trans (rangeFit_of_gt h sat _)
  case mulUnderflows => exact fun F sat s t e f h => (logMul_fin_fin F sat s t e f).trans (rangeFit_of_lt h sat _)
  case divFits => exact fun F sat s t e f hmin hmax => (logDiv_fin_fin F sat s t e f).trans (rangeFit_of_mem hmin hmax sat _)
  case divOverflows => exact fun F sat s t e f h => (logDiv_fin_fin F sat s t e f).trans (rangeFit_of_gt h sat _)
  case divUnderflows => exact fun F sat s t e f h => (logDiv_fin_fin F sat s t e f).trans (rangeFit_of_lt h sat _)
  case twoNans => exact fun F sat s p t q => ⟨logMul_nan_left F sat s p _, logDiv_nan_left F sat s p _⟩
  case scale =>
    exact fun F sat n s e => ⟨fun hmin hmax => (logScale_fin F sat n s e).trans (rangeFit_of_mem hmin hmax sat s),
      fun h => (logScale_fin F sat n s e).trans (rangeFit_of_gt h sat s),
      fun _ h => (logScale_fin F sat n s e).trans (rangeFit_of_lt h sat s)⟩
  case madSums =>
    refine fun F sat s t u e f => ⟨?_, ?_⟩
    · rw [logMad_fin_fin, logAdd_fin_zero, logMul_fin_fin]
    · rw [logMad_fin_fin, logAdd_fin_neg_self]
  case madInfinities =>
    have hraw : ∀ s t e, rawMul (.inf s) (.fin t e) = (.inf (s ^^ t), 0) := fun s t e => rfl
    refine fun F sat s t u e f => ⟨logMad_of_rawMul F sat (hraw s t e) _, ?_, logMad_fin_fin F sat s t e f _⟩
    refine (logMad_of_rawMul F sat (hraw s t e) _).trans ((logAdd_inf_inf F sat _ _).trans (if_neg ?_))
    cases s ^^ t <;> decide
  case madNans =>
    exact fun F sat s p t u e f => ⟨logMad_of_rawMul F sat (rawMul_nan_left s p _) _, logMad_of_rawMul F sat (rawMul_nan_right s p _) _,
      logMad_fin_fin F sat t u e f _⟩
  case exp2 =>
    refine fun F sat s p => ⟨rfl, rfl, rfl, rfl, fun e => ?_⟩
    obtain ⟨m, hm⟩ := logExp2_fin F sat s e
    rw [hm, rangeFit_sign]
  case tanh =>
    exact fun F s p e => ⟨rfl, rfl, rfl, logTanh_fin F s e⟩

end Sys2Proof.Machine
end

section
/-! PROOF. What an instruction does that raises flags (R41, R47, R109 to R111): its registers, its flags, and what stays. -/

namespace Sys2Proof.Machine

/-- The active lanes of the bundle that are no helpers (R47). -/
def ordinaryLanes (s : State) (g : Nat) : List Nat := (lanesOf (active s g)).filter fun l => !isHelper s l

theorem mem_ordinaryLanes {s : State} {g l : Nat} :
    l ∈ ordinaryLanes s g ↔ l < 32 ∧ laneActive s g l = true ∧ isHelper s l = false := by
  simp only [ordinaryLanes, List.mem_filter, mem_lanesOf_active, Bool.not_eq_true', and_assoc]

/-- The union of the flags that lanes raise, where helpers raise none. -/
def raisedFlags (s : State) (g : Nat) (fl : Nat → Nat) : Nat := flUnion ((ordinaryLanes s g).map fl)

theorem testBit_raisedFlags (s : State) (g : Nat) (fl : Nat → Nat) (k : Nat) : (raisedFlags s g fl).testBit k = raised s g fl k := by
  simp only [raisedFlags, testBit_flUnion, ordinaryLanes, List.any_map, List.any_filter, raised]
  rfl

/-- The state once the lanes' flags are set (R109). -/
def flagged (s : State) (g : Nat) (fl : Nat → Nat) : State := setFlags s.iss.bid (BitVec.ofNat 32 (raisedFlags s g fl)) s

/-- The lowest lane that raises an enabled flag (R111). -/
def trapLane (s : State) (g : Nat) (fl : Nat → Nat) : Option Nat :=
  (ordinaryLanes s g).find? fun l => Nat.land (fl l) ((curBlk s).trapen.toNat % 32) != 0

/-- What `arith` looks at: the flags of the ordinary lanes. -/
theorem filter_lanes (s : State) (g : Nat) (fl : Nat → Nat) :
    (((lanesOf (active s g)).map fun l => (l, fl l)).filter fun e => !isHelper s e.1) = (ordinaryLanes s g).map fun l => (l, fl l) := by
  rw [List.filter_map]
  rfl

theorem flUnion_lanes (s : State) (g : Nat) (fl : Nat → Nat) :
    flUnion (((ordinaryLanes s g).map fun l => (l, fl l)).map fun e => e.2) = raisedFlags s g fl := by
  rw [List.map_map]
  rfl

theorem find?_lanes (s : State) (g : Nat) (fl : Nat → Nat) :
    (((ordinaryLanes s g).map fun l => (l, fl l)).find? fun e => Nat.land e.2 ((curBlk s).trapen.toNat % 32) != 0) =
      (trapLane s g fl).map fun l => (l, fl l) := by
  rw [List.find?_map]
  rfl

/-- Where no lane raises an enabled flag, the flags are set and the results written. -/
theorem arith_of_trapLane_none {s : State} {g : Nat} {fl : Nat → Nat} (h : trapLane s g fl = none) (write : State → State) :
    arith ((lanesOf (active s g)).map fun l => (l, fl l)) write s = .next (write (flagged s g fl)) := by
  simp only [arith, filter_lanes, flUnion_lanes, find?_lanes, h, Option.map_none, flagged]

/-- The lowest lane that raises an enabled flag is the one that the trap names. -/
theorem arith_of_trapLane_some {s : State} {g l : Nat} {fl : Nat → Nat} (h : trapLane s g fl = some l) (write : State → State) :
    arith ((lanesOf (active s g)).map fun l => (l, fl l)) write s = .trap (flagged s g fl) 0x0C (raisedFlags s g fl + 256 * l) := by
  simp only [arith, filter_lanes, flUnion_lanes, find?_lanes, h, Option.map_some, flagged]

theorem trapLane_of_noTrap {s : State} {g : Nat} {fl : Nat → Nat} (h : noTrap s g fl) : trapLane s g fl = none := by
  refine List.find?_eq_none.2 fun l hl => ?_
  obtain ⟨h32, hactive, hhelper⟩ := mem_ordinaryLanes.1 hl
  simpa using h l h32 hactive hhelper

/-- With no flag enabled nothing traps. -/
theorem noTrap_of_trapen {s : State} (h : (curBlk s).trapen = 0) (g : Nat) (fl : Nat → Nat) : noTrap s g fl := by
  intro l _ _ _
  rw [h]
  exact Nat.and_zero _

/-- A lane that raises nothing does not trap. -/
theorem noTrap_of_zero {s : State} {g : Nat} {fl : Nat → Nat} (h : ∀ l, fl l = 0) : noTrap s g fl := by
  intro l _ _ _
  rw [h]
  exact Nat.zero_and _

section SetFlags
variable (b : Nat) (f : Word) (s : State)

@[simp] theorem setFlags_iss : (setFlags b f s).iss = s.iss := rfl

/-- A block after flags are set: the flags raised in this cycle, and nothing else of it. -/
theorem blkOf_setFlags (c : Nat) : blkOf (setFlags b f s) c =
    if b = c ∧ (lfind c s.blocks).isSome then { blkOf s c with flagsNow := (blkOf s c).flagsNow ||| (f &&& 0xFF) } else blkOf s c :=
  blkOf_modBlk b c _ s

end SetFlags

/-- Bits of the flags that are set. -/
theorem getLsbD_flagByte (n : Nat) {k : Nat} (hk : k < 32) :
    (BitVec.ofNat 32 n &&& 0xFF).getLsbD k = (decide (k < 8) && n.testBit k) := by
  have hbyte : ∀ k < 32, (0xFF : Word).getLsbD k = decide (k < 8) := by decide
  rw [BitVec.getLsbD_and, BitVec.getLsbD_ofNat, hbyte k hk, decide_eq_true hk, Bool.true_and, Bool.and_comm]

theorem blkOf_restOfState (s : State) (b : Nat) : blkOf (restOfState s) b = blkOf s b := rfl

theorem restOfDevice_restOfState (s : State) : restOfDevice (restOfState s) = restOfDevice s := rfl

/-- A step that changes the issuing warp alone, after flags were set. -/
theorem addsFlags_of_setFlags {s t : State} {n : Nat} {r : Nat → Bool} (hblk : (lfind s.iss.bid s.blocks).isSome = true)
    (hr : ∀ k, n.testBit k = r k) (hiss : t.iss = s.iss) (hkeep : keepsDevice (setFlags s.iss.bid (BitVec.ofNat 32 n) s) t) :
    addsFlags s t r := by
  obtain ⟨hrest, hwarps, hmem⟩ := hkeep
  have hblkOf : ∀ b, blkOf t b = blkOf (setFlags s.iss.bid (BitVec.ofNat 32 n) s) b :=
    fun b => by rw [← blkOf_restOfState t, hrest]; rfl
  have hcur : curBlk t = { curBlk s with flagsNow := (curBlk s).flagsNow ||| (BitVec.ofNat 32 n &&& 0xFF) } := by
    rw [curBlk, hiss, hblkOf, blkOf_setFlags, if_pos ⟨rfl, hblk⟩]
    rfl
  refine ⟨fun k hk => ?_, by rw [hcur]; rfl, fun b hb => ?_, ?_, hwarps, hmem⟩
  · rw [hcur, BitVec.getLsbD_or, getLsbD_flagByte n hk, hr]
  · rw [hblkOf, blkOf_setFlags, if_neg fun h => hb h.1.symm]
  · rw [← restOfDevice_restOfState t, hrest]; rfl

/-- What an instruction names: its guard field, one w register that it writes, and no p register. -/
structure WritesOneW (i : Instr) (s : State) (g d : Nat) : Prop where
  guard : (info (curPfx s) s.iss.hasPfx i).g = g
  covers : ∀ q, (info (curPfx s) s.iss.hasPfx i).args.any (coversW q) = decide (q = d)
  noPred : ¬ ∃ a ∈ (info (curPfx s) s.iss.hasPfx i).args, ∃ b n c, a = .wr 2 b n c

/-- An operand is no w and no p destination. -/
structure NoWP (a : Arg) : Prop where
  noW : ∀ q, coversW q a = false
  noP : ∀ b n c, a ≠ .wr 2 b n c

theorem noWP_rd (k r n al : Nat) : NoWP (.rd k r n al) := ⟨fun _ => rfl, by simp⟩

/-- An instruction whose first operand is its one w destination. -/
theorem writesOneW_of_cons {i : Instr} {s : State} {g d : Nat} {rest : List Arg} (hg : (info (curPfx s) s.iss.hasPfx i).g = g)
    (hargs : (info (curPfx s) s.iss.hasPfx i).args = .wr 0 d 1 1 :: rest) (hrest : ∀ a ∈ rest, NoWP a) : WritesOneW i s g d := by
  refine ⟨hg, fun q => ?_, ?_⟩ <;> rw [hargs]
  · have hothers : rest.any (coversW q) = false := List.any_eq_false.2 fun a ha => by simp [(hrest a ha).noW q]
    rw [List.any_cons, hothers, Bool.or_false, coversW, ← Bool.decide_and, decide_eq_decide]
    omega
  · rintro ⟨a, ha, b, n, c, rfl⟩
    obtain h | h := List.mem_cons.1 ha
    · cases h
    · exact (hrest _ h).noP b n c rfl

/-- The zero policy and the marks leave each kind of register but w, p and the marks. -/
theorem zeroIf_markIf_keeps {α : Type} {i : Instr} {s : State} (f : Regs → α) (hw : ∀ r k l v, f (wput k l v r) = f r)
    (hm : ∀ r, f (markIf i s r) = f r) (hp : ¬ ∃ a ∈ (info (curPfx s) s.iss.hasPfx i).args, ∃ b n c, a = .wr 2 b n c) (r : Regs) :
    f (zeroIf i s (markIf i s r)) = f r :=
  zeroIf_keeps (P := fun x => f x = f r) (hm r) (fun x k l v _ h => (hw x k l v).trans h) fun _ _ _ _ hx _ => absurd hx hp

/-- A lane's w registers after the zero policy, where the body wrote register d in the active lanes (R41). -/
theorem readW_zeroIf {i : Instr} {s : State} {g d : Nat} {R : Regs} {v : Nat → Word} (hi : WritesOneW i s g d)
    (hR : ∀ q l, l < 32 → lget 0 (laneKey q l) R.w = if q = d ∧ laneActive s g l = true then v l else readW s q l)
    (q : Nat) {l : Nat} (hl : l < 32) : lget 0 (laneKey q l) (zeroIf i s (markIf i s R)).w =
      if q = d ∧ s.iss.lanes.getLsbD l then laneValue s g l 0 (readW s q l) (v l) else readW s q l := by
  rw [zeroIf_w _ hl, markIf_w, hR q l hl, hi.guard, hi.covers]
  unfold laneValue
  by_cases hq : q = d
  · cases ha : laneActive s g l with
    | true => simp [hq, active_subset ha]
    | false => cases s.iss.lanes.getLsbD l <;> simp [hq]
  · simp [hq]

theorem noNewBad_zeroIf {i : Instr} {s t : State} {R : Regs} (ht : regsOf t = zeroIf i s (markIf i s R))
    (hR : ∀ e ∈ R.bad, e ∈ (regsOf s).bad) : noNewBad s t := by
  intro e he
  rw [ht] at he
  exact hR e (zeroIf_bad i s (markIf i s R) e he)

section Runs
variable {i : Instr} {s : State} {body : State → Res} {F : Regs → Regs}

/-- What an instruction does that changes registers and raises no flag. -/
theorem exec_of_modRegs (h : Runs i s) (he : exec i s = issue i s body) (hb : body s = .next (modRegs F s)) :
    ∃ t, exec i s = .next t ∧ regsOf t = zeroIf i s (markIf i s (F (regsOf s))) ∧ movedOn s t ∧ keepsWarp s t ∧ keepsDevice s t := by
  have hexec := he.trans (issue_modRegs h hb)
  obtain ⟨-, -, -, hside, -, hwarp, -⟩ := h
  obtain ⟨-, hregs, hmoved, hkeep, hdev⟩ := advance_modRegs (F := fun r => zeroIf i s (markIf i s (F r))) hwarp hside
  exact ⟨_, hexec, hregs, hmoved, hkeep, hdev⟩

/-- What an instruction does that sets flags and changes registers. -/
theorem exec_of_flagged {g : Nat} {fl : Nat → Nat} (h : Runs i s) (he : exec i s = issue i s body)
    (hb : body s = .next (modRegs F (flagged s g fl))) :
    ∃ t, exec i s = .next t ∧ regsOf t = zeroIf i s (markIf i s (F (regsOf s))) ∧ movedOn s t ∧ keepsWarp s t ∧
      addsFlags s t (raised s g fl) := by
  have hfinish : finish i (info (curPfx s) s.iss.hasPfx i) (active s (info (curPfx s) s.iss.hasPfx i).g) s
      (.next (modRegs F (flagged s g fl))) =
      advance s.iss.lanes (modRegs (fun r => zeroIf i s (markIf i s (F r))) (flagged s g fl)) := by
    unfold finish zeroIf
    dsimp only
    rw [markDests_eq, marked_modRegs, zeroPolicy_eq, modRegs_modRegs, curPfx_modRegs]
    rw [show curPfx (flagged s g fl) = curPfx s from rfl]
    cases (curPfx s).zero
    · rfl
    · exact congrArg _ (modRegs_modRegs _ _ _)
  have hexec : exec i s = .next _ := (he.trans ((issue_runs h).trans (by rw [hb]))).trans (congrArg _ hfinish)
  obtain ⟨-, -, -, hside, -, hwarp, hblk⟩ := h
  obtain ⟨hiss, hregs, hmoved, hkeep, hdev⟩ :=
    advance_modRegs (s := flagged s g fl) (F := fun r => zeroIf i s (markIf i s (F r))) hwarp hside
  exact ⟨_, hexec, hregs, hmoved, hkeep, addsFlags_of_setFlags hblk (testBit_raisedFlags s g fl) hiss hdev⟩

/-- The flags that an arithmetic instruction's lanes raise (R111). -/
theorem logLanes_of_noTrap {g : Nat} {d : BitVec 7} {res : Nat → Word × Nat} (h : noTrap s g fun l => (res l).2) :
    logLanes g d res s = .next (modRegs (wset (lanesOf (active s g)) d.toNat fun l => (res l).1) (flagged s g fun l => (res l).2)) := by
  rw [logLanes, arith_of_trapLane_none (trapLane_of_noTrap h), writeLanes_eq]

/-- An arithmetic instruction given by its result and flags in each lane completes where no enabled flag is raised. -/
theorem doneF_of_logLanes {g : Nat} {d : BitVec 7} {res : Nat → Word × Nat} (h : Runs i s) (he : exec i s = issue i s body)
    (hb : body s = logLanes g d res s) (hi : WritesOneW i s g d.toNat) (hn : noTrap s g fun l => (res l).2) :
    doneF i s g d.toNat res := by
  obtain ⟨t, hexec, hregs, hmoved, hkeep, hflags⟩ := exec_of_flagged h he (hb.trans (logLanes_of_noTrap hn))
  refine ⟨t, hexec, ⟨fun q l hl => ?_, ?_, noNewBad_zeroIf hregs (wset_bad _ _ _ _)⟩, hmoved, hkeep, hflags⟩
  · have hbody : ∀ q l, l < 32 → lget 0 (laneKey q l) (wset (lanesOf (active s g)) d.toNat (fun l => (res l).1) (regsOf s)).w =
        if q = d.toNat ∧ laneActive s g l = true then (res l).1 else readW s q l := fun q l hl => by
      rw [wset_read (range_lanes _) _ _ _ hl]
      simp only [mem_lanesOf_active, hl, true_and]
      rfl
    have hone : (d.toNat ≤ q ∧ q < d.toNat + 1) ↔ q = d.toNat := by omega
    rw [readW, hregs, readW_zeroIf hi hbody q hl]
    simp only [← and_assoc, hone]
  · rw [hregs]
    refine (zeroIf_markIf_keeps restOfW (fun _ _ _ _ => rfl) (restOfW_markIf i s) hi.noPred _).trans ?_
    exact congrArg (fun r : Regs => { r with marks := [] }) (wset_other _ _ _ _)

end Runs

end Sys2Proof.Machine
end

section
/-! PROOF. The packed sums, products, quotients, minima and maxima (R92 to R95, R424, R440, R450; O8). -/

namespace Sys2Proof.Machine

/-- Slots that raise nothing raise nothing together. -/
theorem slotwise_flags_zero (F : Fmt) (f : Nat → LV) : (slotwise F fun i => (f i, 0)).2 = 0 := by
  refine Nat.eq_of_testBit_eq fun k => ?_
  simp only [slotwise, testBit_flUnion, List.any_map, Nat.zero_testBit, List.any_eq_false]
  simp

section Packed
variable {i : Instr} {s : State} {F : Fmt} {op : Fmt → Bool → LV → LV → LV × Nat} {d a b : BitVec 7} {g : BitVec 3} {sat : Bool}

/-- An instruction of one w destination and two w sources names that destination alone. -/
theorem writesOneW_binary (hi : info (curPfx s) s.iss.hasPfx i =
    { g := g.toNat, args := [.wr 0 d.toNat 1 1, .rd 0 a.toNat 1 1, .rd 0 b.toNat 1 1], sat := sat }) : WritesOneW i s g.toNat d.toNat :=
  writesOneW_of_cons (congrArg Info.g hi) (congrArg Info.args hi) (by simp [noWP_rd])

/-- A packed operation of two values completes slot by slot (R92). -/
theorem doneF_of_logBin (h : Runs i s) (he : exec i s = issue i s fun s => logBin F op d a b g s)
    (hi : info (curPfx s) s.iss.hasPfx i =
      { g := g.toNat, args := [.wr 0 d.toNat 1 1, .rd 0 a.toNat 1 1, .rd 0 b.toNat 1 1], sat := sat })
    (hn : noTrap s g.toNat fun l => (slotwise F fun k =>
      op F (curPfx s).sat (slotVal F k (readW s a.toNat l)) (slotVal F k (readW s b.toNat l))).2) :
    doneF i s g.toNat d.toNat fun l => slotwise F fun k =>
      op F (curPfx s).sat (slotVal F k (readW s a.toNat l)) (slotVal F k (readW s b.toNat l)) :=
  doneF_of_logLanes h he rfl (writesOneW_binary hi) hn

/-- A minimum or a maximum raises no flag (R450). -/
theorem doneF_of_logMm {mx : Bool} (h : Runs i s) (he : exec i s = issue i s fun s => logBin F (logMm mx) d a b g s)
    (hi : info (curPfx s) s.iss.hasPfx i =
      { g := g.toNat, args := [.wr 0 d.toNat 1 1, .rd 0 a.toNat 1 1, .rd 0 b.toNat 1 1], sat := sat }) :
    doneF i s g.toNat d.toNat fun l => slotwise F fun k =>
      (logMinMax F mx (slotVal F k (readW s a.toNat l)) (slotVal F k (readW s b.toNat l)), 0) :=
  doneF_of_logBin h he hi (noTrap_of_zero fun _ => slotwise_flags_zero F _)

end Packed

/-- Settles O8: each of the twelve sums, products and quotients is a `logBin`, each of the six minima and maxima a `logMm`. -/
theorem packedArithmetic : Obligations.PackedArithmetic :=
  ⟨fun _ _ _ _ _ h => doneF_of_logBin h rfl rfl, fun _ _ _ _ _ h => doneF_of_logBin h rfl rfl,
    fun _ _ _ _ _ h => doneF_of_logBin h rfl rfl, fun _ _ _ _ _ h => doneF_of_logBin h rfl rfl,
    fun _ _ _ _ _ h => doneF_of_logBin h rfl rfl, fun _ _ _ _ _ h => doneF_of_logBin h rfl rfl,
    fun _ _ _ _ _ h => doneF_of_logBin h rfl rfl, fun _ _ _ _ _ h => doneF_of_logBin h rfl rfl,
    fun _ _ _ _ _ h => doneF_of_logBin h rfl rfl, fun _ _ _ _ _ h => doneF_of_logBin h rfl rfl,
    fun _ _ _ _ _ h => doneF_of_logBin h rfl rfl, fun _ _ _ _ _ h => doneF_of_logBin h rfl rfl,
    fun _ _ _ _ _ h => doneF_of_logMm h rfl rfl, fun _ _ _ _ _ h => doneF_of_logMm h rfl rfl,
    fun _ _ _ _ _ h => doneF_of_logMm h rfl rfl, fun _ _ _ _ _ h => doneF_of_logMm h rfl rfl,
    fun _ _ _ _ _ h => doneF_of_logMm h rfl rfl, fun _ _ _ _ _ h => doneF_of_logMm h rfl rfl⟩

end Sys2Proof.Machine
end

section
/-! PROOF. An enabled arithmetic flag traps before any other effect (R111, R304; O16). -/

namespace Sys2Proof.Machine

/-- Each operation raises flags of R109's five arithmetic ones alone. -/
theorem logAdd_flags_lt (F : Fmt) (sat : Bool) (x y : LV) : (logAdd F sat x y).2 < 32 := by
  obtain h | ⟨-, h⟩ := logAdd_flags F sat x y
  · exact h.trans (by decide)
  · exact h

theorem rawMul_flags_lt (x y : LV) : (rawMul x y).2 < 32 := by
  unfold rawMul
  split <;> simp [flIV]

theorem fitVal_flags_lt (F : Fmt) (sat : Bool) (v : LV) : (fitVal F sat v).2 < 32 := by
  cases v with
  | fin s e => exact (rangeFit_flags_lt F sat s e).trans (by decide)
  | _ => exact (by decide : 0 < 32)

theorem logMul_flags_lt (F : Fmt) (sat : Bool) (x y : LV) : (logMul F sat x y).2 < 32 :=
  Nat.or_lt_two_pow (n := 5) (rawMul_flags_lt x y) (fitVal_flags_lt F sat _)

theorem logDiv_flags_lt (F : Fmt) (sat : Bool) (x y : LV) : (logDiv F sat x y).2 < 32 := by
  cases x with
  | nan s p => simp [logDiv_nan_left]
  | fin s e =>
    cases y with
    | fin t f => exact (rangeFit_flags_lt ..).trans (by decide)
    | zero t => exact (by decide : flDZ < 32)
    | _ => exact (by decide : 0 < 32)
  | zero s =>
    cases y with
    | zero t => exact (by decide : flIV < 32)
    | _ => exact (by decide : 0 < 32)
  | inf s =>
    cases y with
    | inf t => exact (by decide : flIV < 32)
    | _ => exact (by decide : 0 < 32)

theorem flUnion_lt {l : List Nat} {n : Nat} (h : ∀ x ∈ l, x < 2 ^ n) : flUnion l < 2 ^ n := by
  refine Nat.lt_pow_two_of_testBit _ fun k hk => ?_
  rw [testBit_flUnion, List.any_eq_false]
  exact fun x hx => by simp [Nat.testBit_lt_two_pow ((h x hx).trans_le (Nat.pow_le_pow_right (by decide) hk))]

theorem slotwise_flags_lt {F : Fmt} {f : Nat → LV × Nat} (h : ∀ i, (f i).2 < 32) : (slotwise F f).2 < 32 := by
  refine flUnion_lt (n := 5) fun x hx => ?_
  simp only [List.map_map, List.mem_map, List.mem_range] at hx
  obtain ⟨i, -, rfl⟩ := hx
  exact h i

theorem dot4_flags_lt (sat : Bool) (acc a b : Word) : (dot4 sat acc a b).2 < 32 := by
  refine flUnion_lt (n := 5) ?_
  simp only [List.forall_mem_cons]
  exact ⟨rawMul_flags_lt _ _, rawMul_flags_lt _ _, rawMul_flags_lt _ _, rawMul_flags_lt _ _, logAdd_flags_lt .., logAdd_flags_lt ..,
    logAdd_flags_lt .., logAdd_flags_lt .., fun _ h => absurd h List.not_mem_nil⟩

/-- A lane raises an enabled flag where it is active, is no helper, and its flags meet the enabled ones (R111). -/
def trapsIn (s : State) (g : Nat) (fl : Nat → Nat) (l : Nat) : Prop :=
  laneActive s g l = true ∧ isHelper s l = false ∧ Nat.land (fl l) ((curBlk s).trapen.toNat % 32) ≠ 0

theorem trapLane_eq_some {s : State} {g l0 : Nat} {fl : Nat → Nat} (h32 : l0 < 32) (htrap : trapsIn s g fl l0)
    (hlow : ∀ l, l < l0 → ¬ trapsIn s g fl l) : trapLane s g fl = some l0 := by
  rw [trapLane, ordinaryLanes, lanesOf, List.find?_filter, List.find?_filter, List.find?_range_eq_some]
  refine ⟨?_, List.mem_range.2 h32, fun l hl => ?_⟩
  · obtain ⟨hactive, hhelper, hflag⟩ := htrap
    simpa [getLsbD_active, h32, hactive, hhelper] using hflag
  · have hnot := hlow l hl
    simp only [trapsIn, not_and, not_not] at hnot
    cases hactive : laneActive s g l
    · simp [getLsbD_active, hactive]
    · cases hhelper : isHelper s l
      · simpa using .inr (hnot hactive hhelper)
      · simp

/-- The issuing warp after a precise exception of the whole bundle into a handler (R304). -/
def trappedWarp (s : State) (cause addr : Nat) (h : Word) (w : Warp) : Warp :=
  let v := trapRegs cause false s.iss.pc addr w
  modLanes s.iss.lanes (fun x => { x with pc := h, clause := none, hold := .none, bubble := 1, group := 0 })
    { v with
      inHandler := true, trapLanes := s.iss.lanes, trapClause := some (s.iss.hoff, s.iss.hdr)
      trapPairs := pairWords v (some (s.iss.hoff, s.iss.hdr)) }

/-- Outside the handler of a block that is not Assured, a precise exception changes the issuing warp alone. -/
theorem trapHere_eq {s : State} {h : Word} (hbid : (curWarp s).bid = s.iss.bid) (hout : (curWarp s).inHandler = false)
    (hcls : isAssured s = false) (hh : handlerOf s s.iss.bid = some h) (cause addr : Nat) :
    trapHere cause addr s = modCur (trappedWarp s cause addr h) s := by
  have hbid : (warpOf s s.iss.wk).bid = s.iss.bid := hbid
  have hout : (warpOf s s.iss.wk).inHandler = false := hout
  have hcls : ¬ (blkOf s s.iss.bid).cls = 2 := by simpa [isAssured, curBlk] using hcls
  simp only [trapHere, takeTrap, hbid, hout, hh, hcls]
  rfl

/-- The lanes of the bundle stand at the handler. -/
theorem movedTo_trapped {s : State} (hw : hasWarp s) (cause addr : Nat) (h : Word) :
    movedTo h s (modCur (trappedWarp s cause addr h) s) := by
  intro l
  rw [curWarp_modCur hw]
  simp only [trappedWarp, trapRegs, modLanes, lfind_lmap, Option.map_map]
  cases hl : s.iss.lanes.getLsbD l <;> simp [Function.comp_def]

theorem handlerOf_setFlags (b c : Nat) (f : Word) (s : State) : handlerOf (setFlags b f s) c = handlerOf s c := by
  have hgid : (blkOf (setFlags b f s) c).gid = (blkOf s c).gid := by rw [blkOf_setFlags]; split <;> rfl
  simp only [handlerOf, hgid]
  rfl

theorem isAssured_setFlags (b : Nat) (f : Word) (s : State) : isAssured (setFlags b f s) = isAssured s := by
  have hcls : (blkOf (setFlags b f s) s.iss.bid).cls = (blkOf s s.iss.bid).cls := by rw [blkOf_setFlags]; split <;> rfl
  simp only [isAssured, curBlk, setFlags_iss, hcls]

/-- sr.taddr of an arithmetic trap holds the flags in its lowest byte, and the lane above (R111). -/
theorem taddr_fields {n l : Nat} (hn : n < 256) (hl : l < 32) :
    (∀ k, k < 8 → (BitVec.ofNat 32 (n + 256 * l)).getLsbD k = n.testBit k) ∧ (BitVec.ofNat 32 (n + 256 * l)).toNat / 256 = l := by
  refine ⟨fun k hk => ?_, ?_⟩
  · rw [BitVec.getLsbD_ofNat, decide_eq_true (by omega), Bool.true_and, Nat.add_comm, show 256 = 2 ^ 8 from rfl,
      Nat.testBit_two_pow_mul_add _ hn, if_pos hk]
  · rw [BitVec.toNat_ofNat]
    omega

/-- An arithmetic instruction traps before any other effect: the flags are set, and the bundle stands at the handler. -/
theorem traps_of_logLanes {i : Instr} {s : State} {body : State → Res} {g l0 : Nat} {d : BitVec 7} {res : Nat → Word × Nat} {h : Word}
    (hruns : Runs i s) (he : exec i s = issue i s body) (hb : body s = logLanes g d res s) (hlt : ∀ l, (res l).2 < 32)
    (hbid : (curWarp s).bid = s.iss.bid) (hout : (curWarp s).inHandler = false) (hh : handlerOf s s.iss.bid = some h)
    (h32 : l0 < 32) (htrap : trapsIn s g (fun l => (res l).2) l0) (hlow : ∀ l, l < l0 → ¬ trapsIn s g (fun l => (res l).2) l) :
    ∃ t, exec i s = .next t ∧ (curWarp t).r = (curWarp s).r ∧ (curWarp t).inHandler = true ∧
      (curWarp t).tcause = 0x0C ∧ (curWarp t).tpc = s.iss.pc &&& 0xFFFFFFFC ∧
      (∀ k, k < 8 → (curWarp t).taddr.getLsbD k = raised s g (fun l => (res l).2) k) ∧
      (curWarp t).taddr.toNat / 256 = l0 ∧ movedTo h s t ∧
      (∀ k, k < 32 → (curBlk t).flagsNow.getLsbD k =
        ((curBlk s).flagsNow.getLsbD k || (decide (k < 8) && raised s g (fun l => (res l).2) k))) ∧
      keepsMemory s t := by
  let fl := fun l => (res l).2
  have hexec : exec i s = .next (trapHere 0x0C (raisedFlags s g fl + 256 * l0) (flagged s g fl)) := by
    rw [he, issue_runs hruns, hb, logLanes, arith_of_trapLane_some (trapLane_eq_some h32 htrap hlow)]
    rfl
  obtain ⟨-, -, hcls, -, -, hwarp, hblk⟩ := hruns
  have hbyte : raisedFlags s g fl < 256 := by
    refine flUnion_lt (n := 8) fun x hx => ?_
    obtain ⟨l, -, rfl⟩ := List.mem_map.1 hx
    exact (hlt l).trans (by decide)
  obtain ⟨haddr, hlane⟩ := taddr_fields hbyte h32
  let u := flagged s g fl
  let t := modCur (trappedWarp u 0x0C (raisedFlags s g fl + 256 * l0) h) u
  have htrapHere : trapHere 0x0C (raisedFlags s g fl + 256 * l0) u = t :=
    trapHere_eq (s := u) hbid hout ((isAssured_setFlags ..).trans hcls) ((handlerOf_setFlags ..).trans hh) _ _
  have hcur : curWarp t = trappedWarp u 0x0C (raisedFlags s g fl + 256 * l0) h (curWarp u) := curWarp_modCur hwarp
  obtain ⟨hflags, -, -, -, -, hmem⟩ : addsFlags s t (raised s g fl) :=
    addsFlags_of_setFlags hblk (testBit_raisedFlags s g fl) rfl (keepsDevice_modCur _ u)
  refine ⟨t, hexec.trans (congrArg _ htrapHere), by rw [hcur]; rfl, by rw [hcur]; rfl, by rw [hcur]; rfl, by rw [hcur]; rfl,
    fun k hk => ?_, by rw [hcur]; exact hlane, movedTo_trapped (s := u) hwarp _ _ h, hflags, hmem⟩
  rw [hcur]
  exact (haddr k hk).trans (testBit_raisedFlags s g fl k)

/-- Settles O16: `traps_of_logLanes` for each of the four instructions, whose flags are the five arithmetic ones. -/
theorem arithmeticTrap : Obligations.ArithmeticTrap := by
  intro d a b g s e he hruns hbid hout h hh l0 h32 hlane hlow
  have hlow : ∀ l, l < l0 → ¬ trapsIn s g.toNat (fun l => (e.2 l).2) l := fun l hl ⟨hactive, hhelper, hflag⟩ =>
    hflag (hlow l hl hactive hhelper)
  simp only [List.mem_cons, List.not_mem_nil, or_false] at he
  obtain rfl | rfl | rfl | rfl := he
  · exact traps_of_logLanes hruns rfl rfl (fun l => slotwise_flags_lt fun _ => logAdd_flags_lt ..) hbid hout hh h32 hlane hlow
  · exact traps_of_logLanes hruns rfl rfl (fun l => slotwise_flags_lt fun _ => logMul_flags_lt ..) hbid hout hh h32 hlane hlow
  · exact traps_of_logLanes hruns rfl rfl (fun l => slotwise_flags_lt fun _ => logDiv_flags_lt ..) hbid hout hh h32 hlane hlow
  · exact traps_of_logLanes hruns rfl rfl (fun l => dot4_flags_lt ..) hbid hout hh h32 hlane hlow

end Sys2Proof.Machine
end

section
/-! PROOF. What a conversion leaves in the registers: its result, the lane's generator and its residues (R41, R106, R107). -/

namespace Sys2Proof.Machine

/-- The registers after a write of one e register of a lane. -/
def eput (reg l : Nat) (v : Word) (r : Regs) : Regs := { r with e := lset 0 (laneKey reg l) v r.e, bad := healed 3 reg l r.bad }

/-- The registers after a write of a lane's generator. -/
def rngPut (l : Nat) (v : BitVec 64) (r : Regs) : Regs := { r with rng := lset 0 l v r.rng }

/-- The registers after a lane's residues are written. -/
def resPut (l : Nat) (res : List (Nat × Word)) (r : Regs) : Regs := res.foldl (fun r e => eput e.1 l e.2 r) r

/-- The registers after one lane of a conversion. -/
def convPut (d l : Nat) (c : ConvAcc) (v : Word) (r : Regs) : Regs := resPut l c.res (rngPut l c.rng (wput d l v r))

/-- The registers after the lanes of a conversion. -/
def convSet (ls : List Nat) (d : Nat) (res : Nat → ConvAcc) (word : Nat → ConvAcc → Word) (r : Regs) : Regs :=
  ls.foldl (fun r l => convPut d l (res l) (word l (res l)) r) r

theorem writeConv_eq (d l : Nat) (c : ConvAcc) (v : Word) (t : State) :
    c.res.foldl (fun t e => writeE e.1 l e.2 t) (writeRng l c.rng (writeW d l v t)) = modRegs (convPut d l c v) t := by
  refine (foldl_modRegs' (fun e => eput e.1 l e.2) c.res _).trans ?_
  rw [writeRng, writeW, modRegs_modRegs, modRegs_modRegs]
  rfl

/-- The lanes of a conversion, written one after the other. -/
theorem eachLane_conv (ls : Word) (d : Nat) (res : Nat → ConvAcc) (word : Nat → ConvAcc → Word) (t : State) :
    eachLane ls (fun l t => (res l).res.foldl (fun t e => writeE e.1 l e.2 t)
      (writeRng l (res l).rng (writeW d l (word l (res l)) t))) t = modRegs (convSet (lanesOf ls) d res word) t := by
  simp only [eachLane, writeConv_eq]
  exact foldl_modRegs (fun l => convPut d l (res l) (word l (res l))) (lanesOf ls) t

section ResPut
variable (l : Nat) (res : List (Nat × Word)) (r : Regs)

@[simp] theorem resPut_w : (resPut l res r).w = r.w :=
  foldl_keeps (f := fun r (e : Nat × Word) => eput e.1 l e.2 r) (P := fun x : Regs => x.w = r.w) (fun _ _ h => h) res rfl

@[simp] theorem resPut_rng : (resPut l res r).rng = r.rng :=
  foldl_keeps (f := fun r (e : Nat × Word) => eput e.1 l e.2 r) (P := fun x : Regs => x.rng = r.rng) (fun _ _ h => h) res rfl

theorem restOfConv_resPut : restOfConv (resPut l res r) = restOfConv r :=
  foldl_keeps (f := fun r (e : Nat × Word) => eput e.1 l e.2 r) (P := fun x => restOfConv x = restOfConv r) (fun _ _ h => h) res rfl

theorem resPut_bad : ∀ e ∈ (resPut l res r).bad, e ∈ r.bad := foldl_bad (fun _ _ _ => mem_healed) res r

end ResPut

theorem convPut_bad (d l : Nat) (c : ConvAcc) (v : Word) (r : Regs) : ∀ e ∈ (convPut d l c v r).bad, e ∈ r.bad :=
  fun e h => wput_bad d l v r e (resPut_bad l c.res (rngPut l c.rng (wput d l v r)) e h)

/-- A key that no entry has is not found. -/
theorem lfind_eq_none_of_not_mem {α : Type} {k : Nat} {m : SMap α} (h : k ∉ m.map Prod.fst) : lfind k m = none := by
  induction m with
  | nil => rfl
  | cons e t ih =>
    simp only [List.map_cons, List.mem_cons, not_or] at h
    rw [lfind_cons, if_neg (Ne.symm h.1), ih h.2]

/-- A residue register of a lane after the lane's residues are written, each to a register of its own. -/
theorem resPut_e {l m : Nat} (hl : l < 32) (hm : m < 32) {res : List (Nat × Word)} (hres : (res.map Prod.fst).Nodup) (q : Nat) (r : Regs) :
    lget 0 (laneKey q m) (resPut l res r).e =
      if m = l then (lfind q res).getD (lget 0 (laneKey q m) r.e) else lget 0 (laneKey q m) r.e := by
  induction res generalizing r with
  | nil => simp [resPut]
  | cons a t ih =>
    obtain ⟨k, v⟩ := a
    simp only [List.map_cons, List.nodup_cons] at hres
    rw [show resPut l ((k, v) :: t) r = resPut l t (eput k l v r) from rfl, ih hres.2, lfind_cons]
    simp only [eput, lget_lset, laneKey_inj hl hm]
    by_cases hlane : m = l
    · by_cases hk : k = q
      · subst hk
        simp [hlane, lfind_eq_none_of_not_mem hres.1]
      · simp [hlane, hk]
    · simp [hlane, Ne.symm hlane]

section ConvSet
variable (ls : List Nat) (d : Nat) (res : Nat → ConvAcc) (word : Nat → ConvAcc → Word) (r : Regs)

/-- The w registers of a conversion are those of a lane-wise result. -/
theorem convSet_w {r' : Regs} (h : r.w = r'.w) : (convSet ls d res word r).w = (wset ls d (fun l => word l (res l)) r').w := by
  induction ls generalizing r r' with
  | nil => exact h
  | cons a t ih => exact ih _ (by simp only [convPut, resPut_w, rngPut, wput, h])

theorem convSet_rng (l : Nat) : lget 0 l (convSet ls d res word r).rng = if l ∈ ls then (res l).rng else lget 0 l r.rng := by
  induction ls generalizing r with
  | nil => rfl
  | cons a t ih =>
    rw [show convSet (a :: t) d res word r = convSet t d res word (convPut d a (res a) (word a (res a)) r) from rfl, ih]
    simp only [convPut, resPut_rng, rngPut, wput, lget_lset, List.mem_cons]
    by_cases ht : l ∈ t
    · simp [ht]
    · by_cases ha : a = l
      · simp [ha]
      · simp [ht, ha, Ne.symm ha]

theorem convSet_e {l : Nat} (hl : l < 32) (hls : ∀ l ∈ ls, l < 32) (hres : ∀ l, ((res l).res.map Prod.fst).Nodup) (q : Nat) :
    lget 0 (laneKey q l) (convSet ls d res word r).e =
      if l ∈ ls then (lfind q (res l).res).getD (lget 0 (laneKey q l) r.e) else lget 0 (laneKey q l) r.e := by
  induction ls generalizing r with
  | nil => rfl
  | cons a t ih =>
    rw [show convSet (a :: t) d res word r = convSet t d res word (convPut d a (res a) (word a (res a)) r) from rfl,
      ih _ fun l h => hls l (List.mem_cons_of_mem a h), convPut, resPut_e (hls a List.mem_cons_self) hl (hres a)]
    simp only [rngPut, wput, List.mem_cons]
    by_cases ha : l = a
    · subst ha
      cases lfind q (res l).res <;> simp
    · simp [ha]

theorem restOfConv_convSet : restOfConv (convSet ls d res word r) = restOfConv r :=
  foldl_keeps (f := fun r l => convPut d l (res l) (word l (res l)) r) (P := fun x => restOfConv x = restOfConv r)
    (fun _ _ h => (restOfConv_resPut ..).trans h) ls rfl

theorem convSet_bad : ∀ e ∈ (convSet ls d res word r).bad, e ∈ r.bad := foldl_bad (fun x l => convPut_bad d l (res l) _ x) ls r

/-- Where no lane writes a residue, the e registers stay. -/
theorem convSet_e_of_nil (h : ∀ l, (res l).res = []) : (convSet ls d res word r).e = r.e :=
  foldl_keeps (P := fun x : Regs => x.e = r.e) (fun x l hx => by simp only [convPut, h]; exact hx) ls rfl

end ConvSet

/-- What a state's registers are once a conversion's lanes are written, with the zero policy and the marks (R41, R59). -/
def holdsConv (i : Instr) (s t : State) (g d : Nat) (res : Nat → ConvAcc) (word : Nat → ConvAcc → Word) : Prop :=
  regsOf t = zeroIf i s (markIf i s (convSet (lanesOf (active s g)) d res word (regsOf s)))

section HoldsConv
variable {i : Instr} {s t : State} {g d : Nat} {res : Nat → ConvAcc} {word : Nat → ConvAcc → Word}

theorem holdsConv.w (h : holdsConv i s t g d res word) (hi : WritesOneW i s g d) (q : Nat) {l : Nat} (hl : l < 32) :
    readW t q l = if q = d ∧ s.iss.lanes.getLsbD l then laneValue s g l 0 (readW s q l) (word l (res l)) else readW s q l := by
  have hbody : ∀ q l, l < 32 → lget 0 (laneKey q l) (convSet (lanesOf (active s g)) d res word (regsOf s)).w =
      if q = d ∧ laneActive s g l = true then word l (res l) else readW s q l := fun q l hl => by
    rw [convSet_w _ _ _ _ _ rfl, wset_read (range_lanes _) _ _ _ hl]
    simp only [mem_lanesOf_active, hl, true_and]
    rfl
  rw [readW, h, readW_zeroIf hi hbody q hl]

theorem holdsConv.rng (h : holdsConv i s t g d res word) (hi : WritesOneW i s g d) {l : Nat} (hl : l < 32) :
    readRng t l = if laneActive s g l then (res l).rng else readRng s l := by
  rw [readRng, h, zeroIf_markIf_keeps Regs.rng (fun _ _ _ _ => rfl) (fun _ => rfl) hi.noPred, convSet_rng]
  simp only [mem_lanesOf_active, hl, true_and]
  rfl

theorem holdsConv.e (h : holdsConv i s t g d res word) (hi : WritesOneW i s g d) (hres : ∀ l, ((res l).res.map Prod.fst).Nodup) (q : Nat)
    {l : Nat} (hl : l < 32) :
    readE t q l = if laneActive s g l then (lfind q (res l).res).getD (readE s q l) else readE s q l := by
  rw [readE, h, zeroIf_markIf_keeps Regs.e (fun _ _ _ _ => rfl) (fun _ => rfl) hi.noPred, convSet_e _ _ _ _ _ hl (range_lanes _) hres]
  simp only [mem_lanesOf_active, hl, true_and]
  rfl

theorem holdsConv.rest (h : holdsConv i s t g d res word) (hi : WritesOneW i s g d) : restOfConv (regsOf t) = restOfConv (regsOf s) := by
  rw [h, zeroIf_markIf_keeps restOfConv (fun _ _ _ _ => rfl) (fun _ => rfl) hi.noPred, restOfConv_convSet]

theorem holdsConv.bad (h : holdsConv i s t g d res word) : noNewBad s t := noNewBad_zeroIf h (convSet_bad _ _ _ _ _)

theorem holdsConv.e_of_nil (h : holdsConv i s t g d res word) (hi : WritesOneW i s g d) (hres : ∀ l, (res l).res = []) :
    (regsOf t).e = (regsOf s).e := by
  rw [h, zeroIf_markIf_keeps Regs.e (fun _ _ _ _ => rfl) (fun _ => rfl) hi.noPred, convSet_e_of_nil _ _ _ _ _ hres]

end HoldsConv

/-- A conversion given by what it does in each lane completes where no enabled flag is raised, if each lane's residues are
written to registers of their own. -/
theorem doneConv_of_convLanes {i : Instr} {s : State} {body : State → Res} {g : Nat} {d : BitVec 7} {res : Nat → ConvAcc}
    {word : Nat → ConvAcc → Word} (h : Runs i s) (he : exec i s = issue i s body) (hb : body s = convLanes g d res word s)
    (hi : WritesOneW i s g d.toNat) (hres : ∀ l, ((res l).res.map Prod.fst).Nodup) : doneConv i s g d.toNat res word := by
  intro hn
  have hbody : body s = .next (modRegs (convSet (lanesOf (active s g)) d.toNat res word) (flagged s g fun l => (res l).flags)) := by
    rw [hb, convLanes, arith_of_trapLane_none (trapLane_of_noTrap hn)]
    exact congrArg _ (eachLane_conv ..)
  obtain ⟨t, hexec, hregs, hmoved, hkeep, hflags⟩ := exec_of_flagged h he hbody
  have hconv : holdsConv i s t g d.toNat res word := hregs
  exact ⟨t, hexec, fun q l hl => hconv.w hi q hl, fun l hl => hconv.rng hi hl, fun q l hl => hconv.e hi hres q hl, hconv.rest hi,
    hconv.bad, hmoved, hkeep, hflags⟩

end Sys2Proof.Machine
end

section
/-! PROOF. Narrowing and the conversions of integers and of external formats, slot by slot (R106 to R108, R431, R434, R451; O14). -/

namespace Sys2Proof.Machine

/-- The slots of a conversion of one lane, in ascending order: which slots draw, their residues, and what each becomes. -/
def convSlots (mode k : Nat) (live : Nat → Bool) (ef : Nat → Option (Nat × Word))
    (f : Nat → Nat → Option Int → (Nat × Nat) × Option Int) (c : ConvAcc) : ConvAcc :=
  (List.range k).foldl (fun c i => convSlot mode (live i) (ef i) (f i) c) c

section ConvSlots
variable {mode : Nat} {live : Nat → Bool} {ef : Nat → Option (Nat × Word)}
  {f : Nat → Nat → Option Int → (Nat × Nat) × Option Int} {c : ConvAcc}

theorem convSlots_succ (k : Nat) :
    convSlots mode (k + 1) live ef f c = convSlot mode (live k) (ef k) (f k) (convSlots mode k live ef f c) := by
  simp [convSlots, List.range_succ]

/-- A slot writes its own residue register or none. -/
theorem convSlot_res (b : Bool) (o : Option (Nat × Word)) (u : Nat → Option Int → (Nat × Nat) × Option Int) :
    (convSlot mode b o u c).res = c.res ∨ ∃ e ∈ o, ∃ v, (convSlot mode b o u c).res = c.res ++ [(e.1, v)] := by
  simp only [convSlot]
  split
  · next e v _ => exact .inr ⟨e, rfl, _, rfl⟩
  · exact .inl rfl

/-- Slots whose residue registers follow one another write each of them once (R107). -/
theorem convSlots_res {m : Nat} (hef : ∀ i, ∀ e ∈ ef i, e.1 = m + i) (hc : c.res = []) (k : Nat) :
    ((convSlots mode k live ef f c).res.map Prod.fst).Nodup ∧ ∀ q ∈ (convSlots mode k live ef f c).res.map Prod.fst, q < m + k := by
  induction k with
  | zero => simp [convSlots, hc]
  | succ k ih =>
    obtain ⟨hnodup, hbound⟩ := ih
    rw [convSlots_succ]
    obtain h | ⟨e, he, v, h⟩ := convSlot_res (c := convSlots mode k live ef f c) (mode := mode) (live k) (ef k) (f k)
    · rw [h]
      exact ⟨hnodup, fun q hq => (hbound q hq).trans (by omega)⟩
    · rw [h, List.map_append, List.map_singleton, hef k e he]
      refine ⟨List.nodup_append'.2 ⟨hnodup, List.nodup_singleton _, ?_⟩, fun q hq => ?_⟩
      · rw [List.disjoint_singleton]
        exact fun hmem => absurd (hbound _ hmem) (by omega)
      · obtain hq | hq := List.mem_append.1 hq
        · exact (hbound q hq).trans (by omega)
        · rw [List.mem_singleton.1 hq]
          omega

/-- Where error feedback is not honoured no slot names a residue. -/
theorem no_residue (i : Nat) : ∀ e ∈ (none : Option (Nat × Word)), e.1 = 0 + i := fun _ he => by cases he

theorem convSlots_nodup {m : Nat} (hef : ∀ i, ∀ e ∈ ef i, e.1 = m + i) (hc : c.res = []) (k : Nat) :
    ((convSlots mode k live ef f c).res.map Prod.fst).Nodup := (convSlots_res hef hc k).1

end ConvSlots

/-- The residue register of a slot (R107). -/
theorem residueOf_reg (s : State) (l j : Nat) : ∀ e ∈ residueOf s l j, e.1 = (curPfx s).op4.toNat + j := by
  intro e he
  simp only [residueOf] at he
  split at he <;> cases he
  rfl

/-- The e registers that an instruction reads and writes for residues are no w and no p registers. -/
theorem noWP_resArg (p : Pfx) (n : Nat) : NoWP (resArg p n) := by
  unfold resArg
  split <;> exact noWP_rd ..

theorem noWP_resOut (p : Pfx) (n : Nat) : NoWP (resOut p n) := by
  unfold resOut
  split <;> exact ⟨fun _ => rfl, by simp⟩

theorem lcode_posZero (F : Fmt) : lcode F (.zero false) = 2 ^ (F.n - 2) := Nat.zero_add _

/-- An instruction of one w destination and one w source names that destination alone. -/
theorem writesOneW_unary {i : Instr} {s : State} {g d a : Nat} (hg : (info (curPfx s) s.iss.hasPfx i).g = g)
    (hargs : (info (curPfx s) s.iss.hasPfx i).args = [.wr 0 d 1 1, .rd 0 a 1 1]) : WritesOneW i s g d :=
  writesOneW_of_cons hg hargs (by simp [noWP_rd])

/-- The same with residues (R107). -/
theorem writesOneW_residues {i : Instr} {s : State} {g d a n : Nat} (hg : (info (curPfx s) s.iss.hasPfx i).g = g)
    (hargs : (info (curPfx s) s.iss.hasPfx i).args = [.wr 0 d 1 1, .rd 0 a 1 1, resArg (curPfx s) n, resOut (curPfx s) n]) :
    WritesOneW i s g d :=
  writesOneW_of_cons hg hargs (by simp [noWP_rd, noWP_resArg, noWP_resOut])

/-- Settles O14: `doneConv_of_convLanes` for each conversion, whose residue registers follow one another slot by slot. -/
theorem conversions : Obligations.Conversions := by
  refine ⟨fun d a q f t g s h => ?lnarrow, fun d a u p g s h => ?lcvi, fun d a u p g s h => ?lcvx,
    fun d a f p g s h => ?lcvf, fun d a f p g s h => ?lcve⟩
  case lnarrow =>
    have hnames : WritesOneW (.lnarrow d a q f t g) s g.toNat d.toNat := writesOneW_of_cons
      (rest := [.rd 0 d.toNat 1 1, .rd 0 a.toNat 1 1, resArg (curPfx s) (slotsOfPrec t.toNat), resOut (curPfx s) (slotsOfPrec t.toNat)])
      rfl rfl (by simp [noWP_rd, noWP_resArg, noWP_resOut])
    exact doneConv_of_convLanes h rfl rfl hnames fun l =>
      convSlots_nodup (fun i e he => (residueOf_reg s l _ e he).trans (Nat.add_assoc ..).symm) rfl _
  case lcvi =>
    exact doneConv_of_convLanes h rfl rfl (writesOneW_residues rfl rfl) fun l => convSlots_nodup (fun i => residueOf_reg s l i) rfl _
  case lcvx =>
    exact doneConv_of_convLanes h rfl rfl (writesOneW_unary rfl rfl) fun l => convSlots_nodup no_residue rfl _
  case lcvf =>
    simp only [lcode_posZero]
    exact doneConv_of_convLanes h rfl rfl (writesOneW_residues rfl rfl) fun l => convSlots_nodup (fun i => residueOf_reg s l i) rfl _
  case lcve =>
    exact doneConv_of_convLanes h rfl rfl (writesOneW_unary rfl rfl) fun l => convSlots_nodup no_residue rfl _

end Sys2Proof.Machine
end

section
/-! PROOF. The lanes' generators: what a conversion draws, and RAND (R106, R480, R481; O15). -/

namespace Sys2Proof.Machine

/-- A generator after n draws. -/
def draws (n : Nat) (x : BitVec 64) : BitVec 64 := (List.range n).foldl (fun x _ => (rngDraw x).1) x

theorem draws_succ (n : Nat) (x : BitVec 64) : draws (n + 1) x = (rngDraw (draws n x)).1 := by
  simp [draws, List.range_succ]

/-- R480: the five bits that rotate are the highest of the generator. -/
theorem rngDraw_eq (x : BitVec 64) : rngDraw x =
    (let t := x * 0x5851F42D4C957F2D#64 + 0x14057B7EF767814F#64
     (t, (((t.extractLsb' 32 32 ^^^ t.extractLsb' 0 32).rotateRight (t.toNat / 2 ^ 59)).toNat))) := by
  have htop : ∀ t : BitVec 64, (t.extractLsb' 59 5).toNat = t.toNat / 2 ^ 59 := fun t => by
    rw [BitVec.extractLsb'_toNat, Nat.shiftRight_eq_div_pow]
    omega
  simp only [rngDraw, htop]

section ConvDraws
variable {mode : Nat} {live : Nat → Bool} {ef : Nat → Option (Nat × Word)}
  {f : Nat → Nat → Option Int → (Nat × Nat) × Option Int} {c : ConvAcc}

theorem convSlot_rng (b : Bool) (o : Option (Nat × Word)) (u : Nat → Option Int → (Nat × Nat) × Option Int) :
    (convSlot mode b o u c).rng = if mode = 5 ∧ b = true then (rngDraw c.rng).1 else c.rng := by
  simp only [convSlot]
  split <;> rfl

/-- R106: a conversion that rounds by draws takes one for each live slot. -/
theorem convSlots_rng (k : Nat) : (convSlots mode k live ef f c).rng =
    if mode = 5 then draws ((List.range k).filter live).length c.rng else c.rng := by
  induction k with
  | zero => simp [convSlots, draws]
  | succ k ih =>
    rw [convSlots_succ, convSlot_rng, ih, List.range_succ, List.filter_append, List.length_append]
    by_cases hmode : mode = 5
    · cases hlive : live k <;> simp [hmode, hlive, draws_succ]
    · simp [hmode]

end ConvDraws

/-- LCVE draws once for each finite, non-zero slot where it rounds by draws, and otherwise leaves the generators (R106). -/
theorem lcve_draws (d a : BitVec 7) (f : BitVec 3) (p : BitVec 2) (g : BitVec 3) (s : State) (h : Runs (.lcve d a f p g) s)
    (htrapen : (curBlk s).trapen = 0) : ∃ t, exec (.lcve d a f p g) s = .next t ∧ ∀ l, l < 32 → readRng t l =
      if laneActive s g.toNat l ∧ (curPfx s).rnd = 5 then
        draws ((List.range (32 / max (extOf f.toNat).width (fmtOf p.toNat).n)).filter fun i =>
          (slotVal (fmtOf p.toNat) i (readW s a.toNat l)).isFin).length (readRng s l)
      else readRng s l := by
  obtain ⟨-, -, -, -, hlcve⟩ := conversions
  obtain ⟨t, hexec, -, hrng, -⟩ := hlcve d a f p g s h (noTrap_of_trapen htrapen _ _)
  have hmode : (curPfx s).rnd.toNat = 5 ↔ (curPfx s).rnd = 5 := by bv_omega
  refine ⟨t, hexec, fun l hl => (hrng l hl).trans ?_⟩
  cases laneActive s g.toNat l with
  | false => simp
  | true =>
    refine (convSlots_rng (ef := fun _ => none) _).trans ?_
    simp only [hmode, true_and]

/-- The codes of a RAND.unit, and the generator after it: one draw for each slot (R481). -/
theorem randUnits_eq (code : Nat → Nat) (k : Nat) (x : BitVec 64) :
    (List.range k).foldl (fun (c : BitVec 64 × List Nat) _ => ((rngDraw c.1).1, c.2 ++ [code (rngDraw c.1).2])) (x, []) =
      (draws k x, (List.range k).map fun i => code (rngDraw (draws i x)).2) := by
  induction k with
  | zero => rfl
  | succ k ih => simp [List.range_succ, ih, draws_succ]

/-- What RAND does that leaves a word and a generator in each active lane. -/
theorem rand_effect {i : Instr} {s : State} {body : State → Res} {g d a n al : Nat} {rng : Nat → BitVec 64} {word : Nat → Word}
    (h : Runs i s) (he : exec i s = issue i s body)
    (hb : body s = .next (eachLane (active s g) (fun l t => writeRng l (rng l) (writeW d l (word l) t)) s))
    (hg : (info (curPfx s) s.iss.hasPfx i).g = g) (hargs : (info (curPfx s) s.iss.hasPfx i).args = [.wr 0 d 1 1, .rd 0 a n al]) :
    ∃ t, exec i s = .next t ∧
      (∀ r l, l < 32 → readW t r l =
        if r = d ∧ s.iss.lanes.getLsbD l then laneValue s g l 0 (readW s r l) (word l) else readW s r l) ∧
      (∀ l, l < 32 → readRng t l = if laneActive s g l then rng l else readRng s l) ∧
      restOfConv (regsOf t) = restOfConv (regsOf s) ∧ (regsOf t).e = (regsOf s).e ∧ noNewBad s t ∧
      movedOn s t ∧ keepsWarp s t ∧ keepsDevice s t := by
  have hnames : WritesOneW i s g d := writesOneW_of_cons hg hargs (by simp [noWP_rd])
  obtain ⟨t, hexec, hregs, hmoved, hkeep, hdev⟩ := exec_of_modRegs h he
    (hb.trans (congrArg Res.next (eachLane_conv _ d (fun l => { rng := rng l }) (fun l _ => word l) s)))
  have hconv : holdsConv i s t g d (fun l => { rng := rng l }) (fun l _ => word l) := hregs
  exact ⟨t, hexec, fun r l hl => hconv.w hnames r hl, fun l hl => hconv.rng hnames hl, hconv.rest hnames,
    hconv.e_of_nil hnames fun _ => rfl, hconv.bad, hmoved, hkeep, hdev⟩

/-- The registers after the generators of lanes are seeded. -/
def rngSet (ls : List Nat) (v : Nat → BitVec 64) (r : Regs) : Regs := ls.foldl (fun r l => rngPut l (v l) r) r

section RngSet
variable (ls : List Nat) (v : Nat → BitVec 64) (r : Regs)

theorem rngSet_rng (l : Nat) : lget 0 l (rngSet ls v r).rng = if l ∈ ls then v l else lget 0 l r.rng := by
  induction ls generalizing r with
  | nil => rfl
  | cons a t ih =>
    rw [show rngSet (a :: t) v r = rngSet t v (rngPut a (v a) r) from rfl, ih]
    simp only [rngPut, lget_lset, List.mem_cons]
    by_cases ht : l ∈ t
    · simp [ht]
    · by_cases ha : a = l
      · simp [ha]
      · simp [ht, ha, Ne.symm ha]

/-- Seeding keeps what a write of a generator keeps. -/
theorem rngSet_keeps {α : Type} (f : Regs → α) (hf : ∀ l v r, f (rngPut l v r) = f r) : f (rngSet ls v r) = f r :=
  foldl_keeps (f := fun r l => rngPut l (v l) r) (P := fun x => f x = f r) (fun x l h => (hf l (v l) x).trans h) ls rfl

end RngSet

/-- The zero policy of an instruction that writes no w and no p register does nothing (R41). -/
theorem zeroIf_of_no_dest {i : Instr} {s : State} {d a n al : Nat}
    (hargs : (info (curPfx s) s.iss.hasPfx i).args = [.wr 0 d 0 1, .rd 0 a n al]) (r : Regs) : zeroIf i s r = r := by
  unfold zeroIf
  rw [hargs]
  split
  · exact foldl_keeps (P := fun x => x = r) (fun _ _ h => h) _ rfl
  · rfl

/-- RAND's seed form (R481). -/
theorem rand_seed (d a : BitVec 7) (p : BitVec 2) (g : BitVec 3) (s : State) (h : Runs (.rand d a 2 p g) s) :
    ∃ t, exec (.rand d a 2 p g) s = .next t ∧ (∀ r l, readW t r l = readW s r l) ∧
      (∀ l, l < 32 → readRng t l = if laneActive s g.toNat l then readD s a.toNat l else readRng s l) ∧
      restOfConv (regsOf t) = restOfConv (regsOf s) ∧ (regsOf t).e = (regsOf s).e ∧ noNewBad s t ∧
      movedOn s t ∧ keepsWarp s t ∧ keepsDevice s t := by
  obtain ⟨t, hexec, hregs, hmoved, hkeep, hdev⟩ := exec_of_modRegs (F := rngSet (lanesOf (active s g.toNat)) (readD s a.toNat)) h rfl
    (congrArg Res.next (foldl_modRegs (fun l => rngPut l (readD s a.toNat l)) _ s))
  rw [zeroIf_of_no_dest rfl] at hregs
  have hkeeps := fun {α : Type} (f : Regs → α) (hf : ∀ l v r, f (rngPut l v r) = f r) =>
    rngSet_keeps (lanesOf (active s g.toNat)) (readD s a.toNat) (regsOf s) f hf
  refine ⟨t, hexec, fun r l => ?_, fun l hl => ?_, ?_, ?_, fun e he => ?_, hmoved, hkeep, hdev⟩
  · rw [readW, hregs, markIf_w, hkeeps Regs.w fun _ _ _ => rfl]
    rfl
  · rw [readRng, hregs]
    refine (rngSet_rng ..).trans ?_
    simp only [mem_lanesOf_active, hl, true_and]
    rfl
  · rw [hregs]
    exact hkeeps restOfConv fun _ _ _ => rfl
  · rw [hregs]
    exact hkeeps Regs.e fun _ _ _ => rfl
  · rw [hregs, markIf_bad, hkeeps Regs.bad fun _ _ _ => rfl] at he
    exact he

/-- Settles O15: a conversion's draws are those of its live slots, and RAND's three forms act lane by lane. -/
theorem randomNumbers : Obligations.RandomNumbers := by
  refine ⟨fun d a f p g s h htrapen => lcve_draws d a f p g s h htrapen, rngDraw_eq, fun d a p g s h => ?bits, fun d a p g s h => ?unit,
    rand_seed⟩
  case bits => exact rand_effect h rfl rfl rfl rfl
  case unit =>
    refine rand_effect (rng := fun l => draws (32 / (fmtOf p.toNat).n) (readRng s l)) h rfl ?_ rfl rfl
    have hunits := fun l => randUnits_eq (fun r => lcode (fmtOf p.toNat) (randUnit (fmtOf p.toNat) r)) (32 / (fmtOf p.toNat).n) (readRng s l)
    refine congrArg Res.next (congrArg (fun f => eachLane (active s g.toNat) f s) (funext fun l => funext fun t => ?_))
    dsimp only
    rw [hunits]
    rfl

end Sys2Proof.Machine
end

section
/-! PROOF. Elements of 32 bits in the local stores, and a C block written back (R123, R138, R146). -/

namespace Sys2Proof.Machine

theorem foldl_lset_eq_write (k : Nat) (bs : List Byte) (m : SMap Byte) :
    (List.range bs.length).foldl (fun m i => lset 0 (k + i) (bs.getD i 0) m) m = Memory.write m k bs := by
  induction bs generalizing k m with
  | nil => rfl
  | cons b bs ih =>
    rw [List.length_cons, List.range_succ_eq_map, List.foldl_cons, List.foldl_map]
    simpa [Memory.write, Nat.add_assoc, Nat.add_comm 1] using ih (k + 1) (lset 0 k b m)

/-- Bytes put into a store of a block without failing words. -/
theorem storePut_eq {b : Block} (hbad : b.bad = []) (sp a : Nat) (bs : List Byte) :
    storePut sp a bs b = { b with ls := Memory.write b.ls (storeKey sp a) bs } := by
  have hkey : ∀ i, storeKey sp (a + i) = storeKey sp a + i := fun i => (Nat.add_assoc ..).symm
  simp only [storePut, hkey, foldl_lset_eq_write, hbad, List.isEmpty_nil, if_true]

/-- The key of the first byte of an element of 32 bits (R146). -/
def elemKey (g : Geo) (r c : Nat) : Nat := storeKey g.sp (g.base + r * g.pitch + 4 * c)

/-- An element of 32 bits is the four bytes from its key on. -/
theorem elemAt_of_word {g : Geo} (hfmt : g.fmt = 2) (b : Block) (r c : Nat) :
    elemAt b g r c = leNat ((List.range 4).map fun i => lget 0 (elemKey g r c + i) b.ls) := by
  have hkey : ∀ i, storeKey g.sp (g.base + r * g.pitch + c * 4 + i) = elemKey g r c + i := fun i => by
    simp only [elemKey, storeKey]; omega
  simp only [elemAt, hfmt, tileBits, storeBytes, hkey]
  rfl

/-- The bytes of the stores once a C block's codes are written back. -/
def blockStore (g : Geo) (i0 j0 : Nat) (codes : List Nat) (m : SMap Byte) : SMap Byte :=
  codes.zipIdx.foldl (fun m e => Memory.write m (elemKey g (i0 + e.2 / 32) (j0 + e.2 % 32)) (leBytes 4 e.1)) m

/-- Writing a C block back changes the bytes of the stores alone. -/
theorem writeBlock_eq {b : Block} (hbad : b.bad = []) (g : Geo) (i0 j0 : Nat) (codes : List Nat) :
    writeBlock g i0 j0 codes b = { b with ls := blockStore g i0 j0 codes b.ls } := by
  unfold writeBlock blockStore
  induction codes.zipIdx generalizing b with
  | nil => rfl
  | cons e es ih => rw [List.foldl_cons, List.foldl_cons, storePut_eq hbad]; exact ih hbad

theorem blockStore_concat (g : Geo) (i0 j0 : Nat) (codes : List Nat) (c : Nat) (m : SMap Byte) :
    blockStore g i0 j0 (codes ++ [c]) m = Memory.write (blockStore g i0 j0 codes m)
      (elemKey g (i0 + codes.length / 32) (j0 + codes.length % 32)) (leBytes 4 c) := by
  simp [blockStore, List.zipIdx_append]

/-- A byte outside every element of a C block stays. -/
theorem lget_blockStore_other {g : Geo} {i0 j0 k : Nat} {codes : List Nat} (m : SMap Byte)
    (hout : ∀ e < codes.length, k < elemKey g (i0 + e / 32) (j0 + e % 32) ∨ elemKey g (i0 + e / 32) (j0 + e % 32) + 4 ≤ k) :
    lget 0 k (blockStore g i0 j0 codes m) = lget 0 k m := by
  induction codes using List.reverseRecOn with
  | nil => rfl
  | append_singleton codes c ih =>
    simp only [List.length_append, List.length_singleton] at hout
    have hlast := hout codes.length (Nat.lt_succ_self _)
    rw [blockStore_concat, lget_write, length_leBytes, if_neg (by omega)]
    exact ih fun e he => hout e (by omega)

/-- Where a row holds the 32 columns of a C block, its elements do not overlap. -/
theorem elemKey_disjoint {g : Geo} (hpitch : 128 ≤ g.pitch) (i0 j0 : Nat) {e n : Nat} (hne : e < n) :
    elemKey g (i0 + e / 32) (j0 + e % 32) + 4 ≤ elemKey g (i0 + n / 32) (j0 + n % 32) := by
  have hrow : e / 32 = n / 32 ∨ e / 32 + 1 ≤ n / 32 := by omega
  simp only [elemKey, storeKey]
  rcases hrow with hrow | hrow
  · rw [hrow]; omega
  · have hrows := Nat.mul_le_mul_right g.pitch (show i0 + e / 32 + 1 ≤ i0 + n / 32 by omega)
    rw [Nat.succ_mul] at hrows
    omega

/-- A byte of an element of a C block is the byte of its code. -/
theorem lget_blockStore_elem {g : Geo} (hpitch : 128 ≤ g.pitch) {i0 j0 e k : Nat} {codes : List Nat} (m : SMap Byte)
    (he : e < codes.length) (hk : k < 4) :
    lget 0 (elemKey g (i0 + e / 32) (j0 + e % 32) + k) (blockStore g i0 j0 codes m) = (leBytes 4 (codes.getD e 0)).getD k 0 := by
  induction codes using List.reverseRecOn with
  | nil => simp at he
  | append_singleton codes c ih =>
    rw [blockStore_concat, lget_write, length_leBytes]
    simp only [List.length_append, List.length_singleton] at he
    rcases Nat.lt_or_eq_of_le (Nat.le_of_lt_succ he) with hlt | rfl
    · have hbelow := elemKey_disjoint hpitch i0 j0 hlt
      rw [if_neg (by omega), ih hlt, List.getD_append _ _ _ _ hlt]
    · rw [if_pos (by omega), Nat.add_sub_cancel_left, List.getD_append_right _ _ _ _ le_rfl]
      simp

theorem map_getD_range_leBytes (n v : Nat) : (List.range n).map (fun i => (leBytes n v).getD i 0) = leBytes n v :=
  List.ext_getElem (by simp) fun i _ hi => by simp [List.getElem?_eq_getElem hi]

/-- An element of a C block that is written back. -/
theorem elemAt_writeBlock {b : Block} {g : Geo} (hbad : b.bad = []) (hfmt : g.fmt = 2) (hpitch : 128 ≤ g.pitch) (i0 j0 : Nat)
    {e : Nat} {codes : List Nat} (he : e < codes.length) :
    elemAt (writeBlock g i0 j0 codes b) g (i0 + e / 32) (j0 + e % 32) = codes.getD e 0 % 2 ^ 32 := by
  rw [elemAt_of_word hfmt, writeBlock_eq hbad]
  calc leNat ((List.range 4).map fun k => lget 0 (elemKey g (i0 + e / 32) (j0 + e % 32) + k) (blockStore g i0 j0 codes b.ls))
      = leNat ((List.range 4).map fun k => (leBytes 4 (codes.getD e 0)).getD k 0) :=
        congrArg leNat (List.map_congr_left fun k hk => lget_blockStore_elem hpitch b.ls he (List.mem_range.1 hk))
    _ = codes.getD e 0 % 2 ^ 32 := by rw [map_getD_range_leBytes, leNat_leBytes]; rfl

/-- An element that lies outside a C block stays as it was. -/
theorem elemAt_writeBlock_other {b : Block} {g g' : Geo} (hbad : b.bad = []) (hfmt : g'.fmt = 2) {i0 j0 r c : Nat} {codes : List Nat}
    (hout : ∀ e < codes.length, elemKey g' r c + 4 ≤ elemKey g (i0 + e / 32) (j0 + e % 32) ∨
      elemKey g (i0 + e / 32) (j0 + e % 32) + 4 ≤ elemKey g' r c) :
    elemAt (writeBlock g i0 j0 codes b) g' r c = elemAt b g' r c := by
  rw [elemAt_of_word hfmt, elemAt_of_word hfmt, writeBlock_eq hbad]
  refine congrArg leNat (List.map_congr_left fun k hk => lget_blockStore_other b.ls fun e he => ?_)
  have hk := List.mem_range.1 hk
  have hsides := hout e he
  omega

end Sys2Proof.Machine
end

section
/-! PROOF. A loop of one step: each C block takes the sums of its only step, and the operands are read again for each (R121 to R124). -/

namespace Sys2Proof.Machine

/-- C[i, j] after the first step of its block. -/
def firstSum (op : MatOp) (latch : SMap Nat) (b : Block) (i j : Nat) : Sum :=
  accumulate (loopDesc op.desc) (lval fL32 op.tA.toNat) (lval fL32 op.tB.toNat)
    (lval fL32 (elemAt b (geoAt b (loopDesc op.desc).c) i j)) (rowOfA (loopDesc op.desc) b latch i 0).1 (colOfB (loopDesc op.desc) b j 0).1

/-- The codes of the C block at (i0, j0) after its first step. -/
def firstCodes (op : MatOp) (latch : SMap Nat) (b : Block) (i0 j0 : Nat) : List Nat :=
  (List.range 1024).map fun e => lcode fL32 (firstSum op latch b (i0 + e / 32) (j0 + e % 32)).v

theorem loopValue_of_oneStep {op : MatOp} (hn : (loopDesc op.desc).n = 1) (b : Block) (i j : Nat) :
    loopValue op b i j = (firstSum op b.latch b i j).v := by
  simp [loopValue, firstSum, hn]

/-- A member's loop, without error, before its first read of C block k. -/
structure BeforeBlock (k : Nat) (r : LoopRun) : Prop where
  acc : r.acc = []
  step : r.p.step = 0
  blk : r.p.blk = k
  stop : r.p.stop = none
  ue : r.p.ue = false
  diff : r.p.diff = false
  bad : r.b.bad = []
  cls : r.b.cls ≠ 2

/-- The sums of a step, as `loopStep` lists them. -/
theorem firstSums_eq (op : MatOp) (latch : SMap Nat) (b : Block) (i0 j0 : Nat) :
    ((readBlock (loopDesc op.desc) b i0 j0).1.zipIdx.map fun e =>
      accumulate (loopDesc op.desc) (lval fL32 op.tA.toNat) (lval fL32 op.tB.toNat) e.1
        ((((List.range 32).map fun i => rowOfA (loopDesc op.desc) b latch (i0 + i) 0).getD (e.2 / 32) ([], 0)).1)
        ((((List.range 32).map fun j => colOfB (loopDesc op.desc) b (j0 + j) 0).getD (e.2 % 32) ([], 0)).1)) =
      (List.range 1024).map fun e => firstSum op latch b (i0 + e / 32) (j0 + e % 32) := by
  refine List.ext_getElem (by simp [readBlock]) fun e he _ => ?_
  have he : e / 32 < 32 := by simp [readBlock] at he; omega
  simp [readBlock, firstSum, he, Nat.mod_lt]

section OneStep
variable {op : MatOp} {r : LoopRun} {k i0 j0 : Nat} (m : Nat) (latch : SMap Nat)

theorem stepBad_of_bad_nil {b : Block} (hbad : b.bad = []) (d : LoopDesc) (i0 j0 s : Nat) : stepBad d b latch i0 j0 s = false := by
  simp [stepBad, hbad]

theorem readBlock_ok {b : Block} (hbad : b.bad = []) (d : LoopDesc) (i0 j0 : Nat) : (readBlock d b i0 j0).2 = false := by
  simp [readBlock, hbad]

/-- Outside Assured kernels the accumulators of a C block are written back as they are (R123). -/
theorem closeBlock_eq (hacc : r.acc ≠ []) (hcls : r.b.cls ≠ 2) (hstruck : op.struck = [])
    (hblk : (cBlocks (geoAt r.b (loopDesc op.desc).c))[r.p.blk]? = some (i0, j0)) :
    closeBlock op m r = ⟨writeBlock (geoAt r.b (loopDesc op.desc).c) i0 j0 (r.acc.map (lcode fL32)) r.b, [],
      { r.p with nan := r.p.nan || r.acc.any LV.isNan }⟩ := by
  simp [closeBlock, hacc, hcls, struckCodes, hstruck, List.getD_eq_getElem?_getD, hblk]

/-- A block once the C block at x has taken its first step and stands written back. -/
def firstBlock (op : MatOp) (latch : SMap Nat) (b : Block) (x : Nat × Nat) : Block :=
  writeBlock (geoAt b (loopDesc op.desc).c) x.1 x.2 (firstCodes op latch b x.1 x.2) b

theorem geoAt_firstBlock {b : Block} (hbad : b.bad = []) (x : Nat × Nat) (t : Nat) : geoAt (firstBlock op latch b x) t = geoAt b t := by
  simp only [firstBlock, writeBlock_eq hbad, geoAt, tileAt]

/-- An element of a C block once it stands written back. -/
theorem elemAt_firstBlock {b : Block} {g : Geo} (hg : geoAt b (loopDesc op.desc).c = g) (hbad : b.bad = []) (hfmt : g.fmt = 2)
    (hpitch : 128 ≤ g.pitch) {i j : Nat} (hi : i < 32) (hj : j < 32) :
    elemAt (firstBlock op latch b (i0, j0)) g (i0 + i) (j0 + j) = lcode fL32 (firstSum op latch b (i0 + i) (j0 + j)).v % 2 ^ 32 := by
  have hrow : (32 * i + j) / 32 = i := by omega
  have hcol : (32 * i + j) % 32 = j := by omega
  have he : 32 * i + j < 1024 := by omega
  have helem := elemAt_writeBlock (e := 32 * i + j) (codes := firstCodes op latch b i0 j0) hbad hfmt hpitch i0 j0 (by simpa [firstCodes] using he)
  rw [hrow, hcol] at helem
  rw [firstBlock, hg, helem]
  simp [firstCodes, List.getD_eq_getElem?_getD, he, hrow, hcol]

/-- An element of 32 bits outside a C block, once that stands written back. -/
theorem elemAt_firstBlock_other {b : Block} {g' : Geo} (hbad : b.bad = []) (hfmt : g'.fmt = 2) {r c : Nat}
    (hout : ∀ i < 32, ∀ j < 32, elemKey g' r c + 4 ≤ elemKey (geoAt b (loopDesc op.desc).c) (i0 + i) (j0 + j) ∨
      elemKey (geoAt b (loopDesc op.desc).c) (i0 + i) (j0 + j) + 4 ≤ elemKey g' r c) :
    elemAt (firstBlock op latch b (i0, j0)) g' r c = elemAt b g' r c := by
  refine elemAt_writeBlock_other hbad hfmt fun e he => ?_
  have he : e < 1024 := by simpa [firstCodes] using he
  exact hout _ (by omega) _ (by omega)

section Steps
variable (hn : (loopDesc op.desc).n = 1) (hntrap : (loopDesc op.desc).ntrap = false) (hstruck : op.struck = [])
include hn hntrap hstruck

/-- The only step of a C block writes its sums back, and the loop goes on with the next C block. -/
theorem loopStep_of_oneStep (hr : BeforeBlock k r) (hblk : (cBlocks (geoAt r.b (loopDesc op.desc).c))[k]? = some (i0, j0)) :
    (loopStep op m latch r).b = firstBlock op latch r.b (i0, j0) ∧ BeforeBlock (k + 1) (loopStep op m latch r) := by
  obtain ⟨hacc, hstep, rfl, hstop, hue, hdiff, hbad, hcls⟩ := hr
  have hsums := firstSums_eq op latch r.b i0 j0
  simp only [loopStep, hblk, hstop, hacc, hstep, List.isEmpty_nil, if_true, hntrap, Option.isSome_none, Bool.false_eq_true, if_false, hn,
    Nat.zero_add, hsums]
  rw [closeBlock_eq (i0 := i0) (j0 := j0) m ?acc ?cls hstruck ?blk]
  case acc => simp
  case cls => exact hcls
  case blk => exact hblk
  refine ⟨?_, rfl, rfl, rfl, rfl, ?_, hdiff, ?_, ?_⟩
  · simp [firstBlock, firstCodes, Function.comp_def]
  · simp [hue, stepBad_of_bad_nil latch hbad, readBlock_ok hbad]
  · rw [writeBlock_eq hbad]; exact hbad
  · rw [writeBlock_eq hbad]; exact hcls

/-- The C blocks from some place on, one after the other, each from the stores that the one before has left. -/
theorem loopSteps_of_oneStep {xs : List (Nat × Nat)} (hr : BeforeBlock k r) (hxs : (cBlocks (geoAt r.b (loopDesc op.desc).c)).drop k = xs) :
    (loopSteps op m latch xs.length r).b = xs.foldl (firstBlock op latch) r.b ∧
      BeforeBlock (k + xs.length) (loopSteps op m latch xs.length r) := by
  induction xs generalizing k r with
  | nil => exact ⟨rfl, hr⟩
  | cons x xs ih =>
    have hblk : (cBlocks (geoAt r.b (loopDesc op.desc).c))[k]? = some x := by
      rw [← Nat.add_zero k, ← List.getElem?_drop, hxs]; rfl
    obtain ⟨hb, hnext⟩ := loopStep_of_oneStep m latch hn hntrap hstruck hr hblk
    have hrest : (cBlocks (geoAt (loopStep op m latch r).b (loopDesc op.desc).c)).drop (k + 1) = xs := by
      rw [hb, geoAt_firstBlock latch hr.bad, ← List.drop_drop, hxs]; rfl
    have hlen : k + (xs.length + 1) = k + 1 + xs.length := by omega
    obtain ⟨hfold, hdone⟩ := ih hnext hrest
    rw [List.length_cons, hlen, loopSteps, hfold, hb, List.foldl_cons]
    exact ⟨rfl, hdone⟩

/-- A loop of one step to its end: its C blocks one after the other (R124). -/
theorem memberLoop_of_oneStep {b : Block} (hprog : op.prog = []) (hbad : b.bad = []) (hcls : b.cls ≠ 2) :
    (memberLoop op m latch b).b = (cBlocks (geoAt b (loopDesc op.desc).c)).foldl (firstBlock op latch) b ∧
      ∃ k, BeforeBlock k (memberLoop op m latch b) := by
  have hlen : loopLength op b = (cBlocks (geoAt b (loopDesc op.desc).c)).length := by simp [loopLength, hn]
  have hbegin : BeforeBlock 0 (loopBegin op m b) := by
    constructor <;> simp [loopBegin, hprog, hbad, hcls]
  obtain ⟨hb, hend⟩ := loopSteps_of_oneStep m latch hn hntrap hstruck hbegin rfl
  rw [memberLoop, hlen]
  exact ⟨hb, _, hend⟩

end Steps

end OneStep

end Sys2Proof.Machine
end

section
/-! PROOF. What the end of a loop of one block leaves in the block's stores (R123, R125). -/

namespace Sys2Proof.Machine

theorem journalAdd_of_cls {b : Nat} {s : State} (hcls : (blkOf s b).cls ≠ 2) (wk : Nat) (us : List Nat) : journalAdd b wk us s = s :=
  if_pos hcls

/-- A change of a tile entry leaves the stores. -/
theorem ls_modTile (m t c : Nat) (f : Tile → Tile) (s : State) : (blkOf (modTile m t f s) c).ls = (blkOf s c).ls := by
  rw [modTile, blkOf_modBlk]
  split <;> rfl

theorem ls_foldl_modTile (m c : Nat) (f : Tile → Tile) (ts : List Nat) (s : State) :
    (blkOf (ts.foldl (fun s t => modTile m t f s) s) c).ls = (blkOf s c).ls := by
  induction ts generalizing s with
  | nil => rfl
  | cons t ts ih => rw [List.foldl_cons, ih, ls_modTile]

theorem ls_setFlags (b c : Nat) (f : Word) (s : State) : (blkOf (setFlags b f s) c).ls = (blkOf s c).ls := by
  rw [blkOf_setFlags]
  split <;> rfl

section
variable {s : State} {op : MatOp} {r : LoopRun}

/-- A member's stores at completion are those of its loop. -/
theorem ls_settleLoop {m : Nat} (hblk : (lfind m s.blocks).isSome = true) (hcls : (blkOf s m).cls ≠ 2) :
    (blkOf (settleLoop op (m, r) s) m).ls = r.b.ls := by
  simp only [settleLoop, ls_foldl_modTile, ls_modTile, putLoop, journalAdd_of_cls hcls, blkOf_modBlk, hblk, and_self, if_true]

/-- The end of a loop of one member that has met no error. -/
theorem ls_endLoop (hblk : (lfind op.bid s.blocks).isSome = true) (hcls : (blkOf s op.bid).cls ≠ 2) (hstop : r.p.stop = none)
    (hue : r.p.ue = false) (hdiff : r.p.diff = false) : (blkOf (endLoop op [(op.bid, r)] s) op.bid).ls = r.b.ls := by
  have hend : ∀ u, blkOf (endMatrix op none u) op.bid = blkOf u op.bid := fun _ => rfl
  simp [endLoop, hstop, hue, hdiff, hend, ls_setFlags, ls_settleLoop hblk hcls]

/-- MLOOP_COMPLETE of a loop of one member that has not stopped. -/
theorem exec_mloopComplete {core : Nat} (hrun : matrixRunning s core .mloop = some op) (hmem : op.members = [op.bid])
    (hstop : (memberLoop op op.bid (blkOf s op.bid).latch (blkOf s op.bid)).p.stop = none) :
    exec (.mloopComplete core) s =
      .next (endLoop op [(op.bid, memberLoop op op.bid (blkOf s op.bid).latch (blkOf s op.bid))] s) := by
  have hends : loopEnds op s = [(op.bid, memberLoop op op.bid (blkOf s op.bid).latch (blkOf s op.bid))] := by
    simp [loopEnds, hmem, sortBy, insertBy]
  change execMloopComplete core s = _
  simp [execMloopComplete, hrun, hends, hstop]

end

end Sys2Proof.Machine
end

section
/-! PROOF. A loop whose A tile reaches into the store that holds its C tile (R147; O42). -/

namespace Sys2Proof.Machine

/-- L32 operands without block scales and without gathering. -/
theorem rowOfA_of_word {d : LoopDesc} (hfmt : d.fmt = 2) (hgat : d.gat = false) (hbsa : d.bsa = false) (b : Block) (latch : SMap Nat)
    (i s : Nat) : rowOfA d b latch i s =
      ((List.range 8).map fun k => ⟨lval fL32 (elemAt b (geoAt b d.a) i (d.acol + s * d.ainc + k)), 0⟩, 0) := by
  simp [rowOfA, operandRun, operandFmt, stepLen, hfmt, hgat, hbsa]

theorem colOfB_of_word {d : LoopDesc} (hfmt : d.fmt = 2) (hbsb : d.bsb = false) (b : Block) (j s : Nat) : colOfB d b j s =
    ((List.range 8).map fun k => ⟨lval fL32 (elemAt b (geoAt b d.b) (d.brow + s * d.binc + k) j), 0⟩, 0) := by
  simp [colOfB, operandRun, operandFmt, stepLen, hfmt, hbsb]

/-- A block with empty stores: tile 0, the A tile, has 64 rows of 8 elements at a pitch of 64 KiB in ab, so its row 32 begins
2 MiB on, where the C tile begins in cb; tile 1, the B tile, has 8 rows of 32 elements in wb, and tile 2, the C tile, 64 rows of
32 elements. -/
def overlapBlock : Block := { Block.nil with
  tilesN := 3
  alloc := [0, 0, 0, 8192, 0]
  tiles := [(0, { w0 := 0x280FC01C, w1 := 0x00010000, state := 2 }), (1, { w0 := 0x4801C07C, w1 := 0x00000080, state := 2 }),
    (2, { w0 := 0x680FC07C, w1 := 0x00000080, state := 1 })] }

/-- A loop of one step over the tiles of `overlapBlock`: L32 operands, and every factor 1. -/
def overlapLoop : MatOp :=
  { id := 0, kind := .mloop, bid := 0, wk := 0, core := 0, cnt := 0, desc := [0x02040400, 0, 0, 0], members := [0], started := true }

/-- The device with that loop under way. -/
def overlapState : State := { State.reset with blocks := [(0, overlapBlock)], mats := [overlapLoop] }

/-- The block once the loop has written its first C block back. -/
def overlapMid : Block := firstBlock overlapLoop [] overlapBlock (0, 0)

theorem overlap_desc : loopDesc overlapLoop.desc =
    { c := 2, b := 1, a := 0, fmt := 2, gat := false, bsa := false, bsb := false, sat := false, ntrap := false, pod := false
      pmask := 0, as := 0, bs := 0, n := 1, binc := 0, ainc := 0, brow := 0, acol := 0 } := by
  decide

theorem overlap_geoA : geoAt overlapBlock 0 = { sp := 1, fmt := 2, rows := 64, cols := 8, base := 0, pitch := 65536 } := by decide
theorem overlap_geoB : geoAt overlapBlock 1 = { sp := 2, fmt := 2, rows := 8, cols := 32, base := 0, pitch := 128 } := by decide
theorem overlap_geoC : geoAt overlapBlock 2 = { sp := 3, fmt := 2, rows := 64, cols := 32, base := 0, pitch := 128 } := by decide

theorem overlapMid_geo (t : Nat) : geoAt overlapMid t = geoAt overlapBlock t := geoAt_firstBlock [] rfl (0, 0) t

theorem overlapMid_bad : overlapMid.bad = [] := by
  rw [overlapMid, firstBlock, writeBlock_eq rfl]; rfl

/-- In the first C block each sum is 1 + 8 * 1 * 1 = 9, whose L32 code is 13295629. -/
theorem overlap_firstRow : ∀ j < 8, lcode fL32 (firstSum overlapLoop [] overlapBlock 0 j).v = 13295629 := by decide +kernel

/-- Row 32 of A then holds the sums of row 0 of C. -/
theorem overlapMid_rowOfA {j : Nat} (hj : j < 8) : elemAt overlapMid (geoAt overlapBlock 0) 32 j = 13295629 := by
  have hkey : elemKey (geoAt overlapBlock 0) 32 j = elemKey (geoAt overlapBlock 2) (0 + 0) (0 + j) := by
    simp only [overlap_geoA, overlap_geoC, elemKey, storeKey]; omega
  calc elemAt overlapMid (geoAt overlapBlock 0) 32 j
      = elemAt overlapMid (geoAt overlapBlock 2) (0 + 0) (0 + j) := by
        rw [elemAt_of_word (by rw [overlap_geoA]), elemAt_of_word (by rw [overlap_geoC]), hkey]
    _ = lcode fL32 (firstSum overlapLoop [] overlapBlock (0 + 0) (0 + j)).v % 2 ^ 32 :=
        elemAt_firstBlock [] (by rw [overlap_desc]) rfl (by rw [overlap_geoC]) (by rw [overlap_geoC]) (by omega) (by omega)
    _ = 13295629 := by rw [Nat.zero_add, Nat.zero_add, overlap_firstRow j hj]; rfl

/-- An element of 32 bits outside the first 32 rows of C is 0, as it was. -/
theorem overlapMid_other {g : Geo} (hfmt : g.fmt = 2) {r c : Nat}
    (hkey : elemKey g r c + 4 ≤ 3 * 2 ^ 20 ∨ 3 * 2 ^ 20 + 4096 ≤ elemKey g r c) : elemAt overlapMid g r c = 0 := by
  rw [overlapMid, elemAt_firstBlock_other [] rfl hfmt fun i hi j hj => ?_]
  · rw [elemAt_of_word hfmt]; rfl
  · have hC : elemKey (geoAt overlapBlock (loopDesc overlapLoop.desc).c) (0 + i) (0 + j) = 3 * 2 ^ 20 + (i * 128 + 4 * j) := by
      rw [overlap_desc, overlap_geoC]; simp only [elemKey, storeKey]; omega
    omega

/-- The sum of C[32, 0] where row 32 of A holds 9, and B and C hold 1: it is 1 + 8 * 9 * 1 = 73, whose L32 code is 25962006. -/
theorem overlap_secondSum {b : Block} (hgeo : ∀ t, geoAt b t = geoAt overlapBlock t)
    (hA : ∀ k < 8, elemAt b (geoAt overlapBlock 0) 32 k = 13295629) (hB : ∀ k < 8, elemAt b (geoAt overlapBlock 1) k 0 = 0)
    (hC : elemAt b (geoAt overlapBlock 2) 32 0 = 0) : lcode fL32 (firstSum overlapLoop [] b 32 0).v = 25962006 := by
  have hrow : (rowOfA (loopDesc overlapLoop.desc) b [] 32 0).1 = (List.range 8).map fun _ => ⟨lval fL32 13295629, 0⟩ := by
    rw [overlap_desc, rowOfA_of_word rfl rfl rfl, hgeo]
    exact List.map_congr_left fun k hk => by simp [hA k (List.mem_range.1 hk)]
  have hcol : (colOfB (loopDesc overlapLoop.desc) b 0 0).1 = (List.range 8).map fun _ => ⟨lval fL32 0, 0⟩ := by
    rw [overlap_desc, colOfB_of_word rfl rfl, hgeo]
    exact List.map_congr_left fun k hk => by simp [hB k (List.mem_range.1 hk)]
  have hacc : elemAt b (geoAt b (loopDesc overlapLoop.desc).c) 32 0 = 0 := by rw [overlap_desc, hgeo, hC]
  rw [firstSum, hrow, hcol, hacc]
  decide +kernel

theorem overlapMid_sum : lcode fL32 (firstSum overlapLoop [] overlapMid 32 0).v = 25962006 := by
  refine overlap_secondSum overlapMid_geo (fun k hk => overlapMid_rowOfA hk) (fun k hk => overlapMid_other ?_ ?_) (overlapMid_other ?_ ?_)
  · rw [overlap_geoB]
  · simp only [overlap_geoB, elemKey, storeKey]; omega
  · rw [overlap_geoC]
  · simp only [overlap_geoC, elemKey, storeKey]; omega

theorem overlap_blk : blkOf overlapState overlapLoop.bid = overlapBlock := rfl

/-- The loop's two C blocks, one after the other. -/
theorem overlap_loop : (memberLoop overlapLoop overlapLoop.bid overlapBlock.latch overlapBlock).b = firstBlock overlapLoop [] overlapMid (32, 0) ∧
    ∃ k, BeforeBlock k (memberLoop overlapLoop overlapLoop.bid overlapBlock.latch overlapBlock) := by
  have hblocks : cBlocks (geoAt overlapBlock (loopDesc overlapLoop.desc).c) = [(0, 0), (32, 0)] := by decide
  have hloop := memberLoop_of_oneStep (op := overlapLoop) (b := overlapBlock) overlapLoop.bid overlapBlock.latch (by decide) (by decide)
    rfl rfl rfl (by decide)
  rw [hblocks, List.foldl_cons, List.foldl_cons, List.foldl_nil] at hloop
  exact hloop

/-- The stores once the loop has completed. -/
theorem overlap_ls {t : State} (h : exec (.mloopComplete 0) overlapState = .next t) :
    (blkOf t overlapLoop.bid).ls = (firstBlock overlapLoop [] overlapMid (32, 0)).ls := by
  obtain ⟨hb, k, hend⟩ := overlap_loop
  rw [← overlap_blk] at hb hend
  have hexec := exec_mloopComplete (core := 0) (by decide) rfl hend.stop
  have ht := Host.Outcome.next.inj (h.symm.trans hexec)
  rw [ht, ls_endLoop (by decide) (by decide) hend.stop hend.ue hend.diff, hb]

/-- C[32, 0] once the loop has completed. -/
theorem overlap_elem {t : State} (h : exec (.mloopComplete 0) overlapState = .next t) :
    elemAt (blkOf t overlapLoop.bid) (geoAt overlapBlock 2) 32 0 = 25962006 := by
  have hfmt : (geoAt overlapBlock 2).fmt = 2 := by rw [overlap_geoC]
  have hgeo : geoAt overlapMid (loopDesc overlapLoop.desc).c = geoAt overlapBlock 2 := by rw [overlap_desc, overlapMid_geo]
  have hsecond := elemAt_firstBlock (i0 := 32) (j0 := 0) (i := 0) (j := 0) [] hgeo overlapMid_bad hfmt (by rw [overlap_geoC]) (by decide)
    (by decide)
  rw [Nat.add_zero, Nat.add_zero, overlapMid_sum] at hsecond
  rw [elemAt_of_word hfmt, overlap_ls h, ← elemAt_of_word hfmt]
  exact hsecond

/-- The same element by the steps on the block as the loop found it: 9. -/
theorem overlap_loopValue : lcode fL32 (loopValue overlapLoop overlapBlock 32 0) = 13295629 := by
  rw [loopValue_of_oneStep (by decide)]
  decide +kernel

/-- Refutes O42: only the C tile is held to its store (`geometryOk`). Here the A tile's row 32 lies 2 MiB beyond its start, which
is the place of row 0 of the C tile, so the second C block reads the first one's sums: C[32, 0] is 73, where the steps on the
block as it was give 9. -/
theorem not_matrixProduct : ¬ Obligations.MatrixProduct := by
  unfold Obligations.MatrixProduct
  intro h
  obtain ⟨t, hexec, _, _, helem, _⟩ := h overlapState 0 overlapLoop (by decide) rfl (by decide) (by decide) rfl rfl rfl (by decide)
    (by decide) (by decide) (by decide)
  have hvalue : elemAt (blkOf t overlapLoop.bid) (geoAt overlapBlock 2) 32 0 = lcode fL32 (loopValue overlapLoop overlapBlock 32 0) :=
    helem 32 0 (by decide) (by decide)
  rw [overlap_elem hexec, overlap_loopValue] at hvalue
  exact absurd hvalue (by decide)

end Sys2Proof.Machine
end
